-- ==== Sys2Proof/Word.lean ====
section
/-! DEFINITION. The word types of the manual: bytes, half-words, registers (R7) and the bit
patterns of the two unscaled floating formats (Table 3.2). -/

namespace Sys2Proof

/-- One byte. -/
abbrev Byte := BitVec 8
/-- A 16-bit field; status codes are 16 bits wide (R16). -/
abbrev Half := BitVec 16
/-- A 32-bit register (R7). -/
abbrev Word := BitVec 32
/-- A 64-bit counter or field (R10). -/
abbrev DWord := BitVec 64
/-- The bits of an F32 value (Table 3.2). -/
abbrev F32 := BitVec 32
/-- The bits of a B16 value (Table 3.2). -/
abbrev B16 := BitVec 16
/-- A 64-byte command (R253) or descriptor, byte 0 in the lowest bits (R7). -/
abbrev Cmd := BitVec 512
/-- A sparse table in one canonical form: keys strictly rising, and no entry equal to what an
unlisted key reads as. The operations are in Machine/Ops.lean. -/
abbrev AMap (α : Type) := List (Nat × α)

end Sys2Proof
end

