-- ==== Sys2Proof/Syntax.lean ====
section
/-! DEFINITION. The commands and events of the device, one constructor of `Instr` per row of
spec/opcode_table.json, with the operands that the manual gives each, and the records those operands
are made of. -/

namespace Sys2Proof

/-- The fields of an array instruction (Table 2.7). The opcode is the constructor of `Instr`. -/
structure ArrInst where
  plane : BitVec 8 := 0
  fmt : BitVec 4 := 0
  src : BitVec 2 := 0
  ring : BitVec 2 := 0
  rows : BitVec 11 := 0
  acc : BitVec 10 := 0
  accum : Bool := false
  add : Bool := false
  oslot : BitVec 6 := 0
  addr : BitVec 18 := 0
  pitch : BitVec 14 := 0
  /-- COUNT of LOOP, or ID of SYN and DRN. -/
  count : Half := 0
  lctr : BitVec 2 := 0
  target : BitVec 12 := 0
deriving DecidableEq, Repr

/-- The fields of a row descriptor (Table 6.8). -/
structure RowDesc where
  recomp : Bool := false
  causal : Bool := false
  noAffine : Bool := false
  accInit : Bool := false
  xf : BitVec 4 := 0
  yf : BitVec 4 := 0
  pos : BitVec 12 := 0
  moff : Half := 0
  n : Word := 0
  rows : Word := 0
  stat : Word := 0
  eps : F32 := 0
  xAddr : Word := 0
  xPitch : Word := 0
  yAddr : Word := 0
  yPitch : Word := 0
  oAddr : Word := 0
  oPitch : Word := 0
  gAddr : Word := 0
  bAddr : Word := 0
deriving DecidableEq, Repr

/-- The fields of a stream instruction (Table 9.7). -/
structure StreamInst where
  vguard : Bool := false
  variant : Bool := false
  dwguard : Bool := false
  layer : Half := 0
  name : Half := 0
  a : Word := 0
  b : Word := 0
deriving DecidableEq, Repr

/-- An endpoint of a DMA descriptor (Table 7.3). -/
structure Endpoint where
  space : Word := 0
  offset : DWord := 0
  pitch : Word := 0
deriving DecidableEq, Repr

/-- The fields of a DMA descriptor (Table 7.2). -/
structure DmaDesc where
  order : Bool := false
  raw : Bool := false
  probe : Bool := false
  cid : Byte := 255
  length : Word := 0
  rows : Word := 0
  fmtw : Word := 0
  src : Endpoint := {}
  dst : Endpoint := {}
  ebase : DWord := 0
deriving DecidableEq, Repr

/-- Errors that a read meets in one row of a stack (R218, R219): how many it corrects, and whether one could not be
corrected. -/
structure RowErr where
  stack : Fin 12 := 0
  pch : Fin 32 := 0
  bank : Byte := 0
  row : Word := 0
  corrected : Nat := 0
  uncorrectable : Bool := false
deriving DecidableEq, Repr

/-- The fields of an update descriptor (Table 10.1). -/
structure UpdDesc where
  clip : Bool := false
  nfHold : Bool := false
  fcf : BitVec 4 := 0
  gf : BitVec 4 := 0
  cid : Byte := 255
  layer : Half := 0
  /-- FIRST (DENSE) or TROWS (LAZY). -/
  first : Word := 0
  /-- COUNT (DENSE) or TCAP (LAZY). -/
  count : Word := 0
  gH : Word := 0
  wH : Word := 0
  cH : Word := 0
  m1H : Word := 0
  m2H : Word := 0
  fcH : Word := 0
  eH : Word := 0
  nH : Word := 0
  rowElems : Word := 0
  ruleOff : Word := 0
  tH : Word := 0
  kH : Word := 0
deriving DecidableEq, Repr

/-- The fields of a confluence descriptor (Table 11.7). -/
structure CflDesc where
  cmp : Bool := false
  normAcc : Bool := false
  scatter : Bool := false
  lcode : Bool := false
  dir : Bool := false
  ev : Byte := 255
  cls : BitVec 2 := 0
  group : BitVec 2 := 0
  rid : Half := 0
  fmtw : Word := 0
  srcH : Word := 0
  dstH : Word := 0
  eH : Word := 0
  dH : Word := 0
  count : Word := 0
  srcOff : DWord := 0
  dstOff : DWord := 0
  /-- N_H (NORM) or TAB_H (XCHG). -/
  nH : Word := 0
  cap : Word := 0
  experts : Word := 0
  rowb : Word := 0
deriving DecidableEq, Repr

/-- What a received packet is when it is not the packet of its row: an 802.3x PAUSE frame, the last row of Table 12.2, or
an HCT datagram of a TYPE that no device takes. -/
inductive Stray where
  | pause
  | ipv4 | arp | tcp | icmp | mld | extension | fragment | badSum
  | badType (t : Byte)
deriving DecidableEq, Repr

/-- How the FEC received a frame or a flit: the codewords that carry it, how many of them it corrected, and that it could
decode every one (R292, R353). -/
structure FecRx where
  codewords : Nat := 1
  corrected : Nat := 0
  fecOk : Bool := true
deriving DecidableEq, Repr

/-- The 802.1Q tag of a received frame (R330), what the packet in it is, and how it was received. -/
structure EthHdr extends FecRx where
  vid : BitVec 12 := 0
  prio : BitVec 3 := 6
  stray : Option Stray := none
deriving DecidableEq, Repr

/-- A received packet: its frame and its source address. -/
structure PktHdr extends EthHdr where
  src : BitVec 128 := 0
deriving DecidableEq, Repr

/-- The destination address and the ports of a received datagram, and its HCT header (Table 12.3). `rsvd` says that a reserved
byte of the header or of the type-specific bytes is nonzero (R335). -/
structure DgramHdr where
  dst : BitVec 128 := 0
  port : Half := 0
  dport : Half := 0xcdfa
  ver : Byte := 1
  rsvd : Bool := false
  seq : Word := 0
  ack : Word := 0
  len : Word := 0
deriving DecidableEq, Repr

/-- The headers of a received HCT datagram. -/
structure HctHdr extends PktHdr, DgramHdr
deriving DecidableEq, Repr

/-- The type-specific bytes of a BASIN frame (Table 12.9). -/
structure BasinTs where
  pos : Byte := 0
  reachIndex : Byte := 0
  shape : Byte := 0
  rid : Half := 0
  shard : Half := 0
  sLow : Word := 0
  first : Word := 0
deriving DecidableEq, Repr

/-- The HCT frames that carry a SEQ and go to the device (Table 12.4). -/
inductive HctFrame where
  | sqWrite (q : Fin 16) (ring : Bool) (first : Half) (cmds : List Cmd)
  | doorbell (q : Fin 16) (tail : Half)
  | data (q : Fin 16) (tag : Half) (entry : Word) (off : BitVec 64) (bytes : List Byte)
  | regReq (id : Half) (ops : List (Word × Word))
  | mailbox (ch : Fin 8) (msg : List Byte)
  | basin (ts : BasinTs) (bytes : List Byte)
deriving DecidableEq, Repr

/-- A peer of the host transport: the host, or the basin peer at a table position (R333). -/
inductive HctPeer where
  | host
  | basin (r : Fin 8)
deriving DecidableEq, Repr

/-- A requester of register operations (R10, R443). -/
inductive Requester where
  | host
  | mp
deriving DecidableEq, Repr

/-- The header of a flit (Table 11.3). -/
structure FlitTop where
  seq : Half := 0
  tc : BitVec 2 := 0
  dest : BitVec 6 := 0
  srcDev : BitVec 6 := 0
  credit : BitVec 14 := 0
  creditTc : BitVec 2 := 0
  ack : Word := 0
deriving DecidableEq, Repr

/-- How a flit arrives. -/
structure FlitRx extends FecRx where
  /-- The CRC-32 of the header and payload is right (R292). -/
  crcOk : Bool := true
deriving DecidableEq, Repr

/-- A received flit but for its payload. A record of more than one flit carries the header of its first. -/
structure FlitHdr extends FlitTop, FlitRx
deriving DecidableEq, Repr

/-- A record but for its payload, with the port on which it arrives. -/
structure RecHdr extends FlitHdr where
  port : Fin 6 := 0
deriving DecidableEq, Repr

/-- What a decision record decides (R319): the map of the late devices, and the policy. -/
structure Decision where
  map : DWord := 0
  policy : BitVec 2 := 0
deriving DecidableEq, Repr

/-- A data flit: header, item header and payload (R291). -/
structure Flit extends FlitHdr where
  /-- Item header: descriptor index, low half of S, byte offset within the item. -/
  idx : BitVec 24 := 0
  sLow : Word := 0
  off : DWord := 0
  /-- The item is a shard that its owner has combined and converted, no part of a contribution (R306; assumption 91). -/
  shard : Bool := false
  /-- The item is a part sent as F32 values (R320; assumption 18). -/
  f32 : Bool := false
  payload : List Byte := []
deriving DecidableEq, Repr

/-- The identity record of a neighbour (Table 11.5). -/
structure IdentRec where
  moduleId : DWord := 0
  pop : Byte := 0
  port : Byte := 0
  coord : Byte := 0
  shape : Byte := 0
  reachIndex : Byte := 0
  prog : DWord := 0
  s : DWord := 0
deriving DecidableEq, Repr

/-- The sideband reading of one millisecond (R389): tenths of a degree, hundredths of a litre per
minute, the hottest junction in tenths of a degree, and the junction's source code. -/
structure Sideband where
  inlet : Int := 300
  outlet : Int := 350
  flow : Nat := 400
  tj : Nat := 400
  tjSrc : Half := 0
  /-- 100 µs average of the input power in W (R377). -/
  pin : Nat := 0
deriving DecidableEq, Repr

/-- The three sensors of the tray sideband (Table 14.4). -/
inductive Sensor where
  | inlet
  | outlet
  | flow
deriving DecidableEq, Repr

/-- A signed envelope (Table 15.6) as its channel assembled it: the header fields, the payload and
the signature. -/
structure Envelope where
  magic : Word := 0
  version : Byte := 0
  cmd : Byte := 0
  /-- The reserved bytes of the header: 0x06 and 0x07, 0x1c to 0x1f, 0x28 to 0x3f. -/
  rsvd : List Byte := List.replicate 30 0
  moduleId : DWord := 0
  counter : DWord := 0
  opkeyId : DWord := 0
  payload : List Byte := []
  sig : List Byte := []
deriving DecidableEq, Repr

/-! What an instruction meets that the state does not tell: counts taken while it runs. -/

/-- DRN, with how many of its atomic adds find an ADD_F32 of another source queued for their word (R54). -/
structure DrnInst extends ArrInst where
  amb : Nat := 0
deriving DecidableEq, Repr

/-- An instruction that arrives at a weir, with the products that the array issued in the 2048 array clocks before (R246). -/
structure WeirInst extends ArrInst where
  p : Nat := 0
deriving DecidableEq, Repr

/-- A row descriptor that adds into a sum, with how many of its atomic adds find an ADD_F32 of another source queued for
their word (R54). -/
structure RowSum extends RowDesc where
  amb : Nat := 0
deriving DecidableEq, Repr

/-- DMA ADD_F32, with the element numbers, row by row, of the adds that find an ADD_F32 of another source queued (R54,
R208). -/
structure DmaAdd extends DmaDesc where
  amb : List Nat := []
deriving DecidableEq, Repr

/-- The commands and events of the device, one constructor per row of the table of operations. -/
inductive Instr where
  -- host commands (R253, Table 9.13): the queue and the 64 bytes
  | wake (q : Fin 16) (w : Cmd)
  | sleep (q : Fin 16) (w : Cmd)
  | load (q : Fin 16) (w : Cmd)
  | unload (q : Fin 16) (w : Cmd)
  | start (q : Fin 16) (w : Cmd)
  | pause (q : Fin 16) (w : Cmd)
  | resume (q : Fin 16) (w : Cmd)
  | abort (q : Fin 16) (w : Cmd)
  | alloc (q : Fin 16) (w : Cmd)
  | free (q : Fin 16) (w : Cmd)
  | read (q : Fin 16) (w : Cmd)
  | write (q : Fin 16) (w : Cmd)
  | event (q : Fin 16) (w : Cmd)
  | ledger (q : Fin 16) (w : Cmd)
  | config (q : Fin 16) (w : Cmd)
  | overlayLoad (q : Fin 16) (w : Cmd)
  | overlayApply (q : Fin 16) (w : Cmd)
  | overlayClear (q : Fin 16) (w : Cmd)
  -- host transport
  | sync (p : PktHdr) (d : DgramHdr)
  | ack (p : PktHdr) (d : DgramHdr) (bitmap : BitVec 64)
  | sqWrite (h : HctHdr) (q : Fin 16) (ring : Bool) (first : Half) (cmds : List Cmd)
  | doorbell (h : HctHdr) (q : Fin 16) (tail : Half)
  | data (h : HctHdr) (q : Fin 16) (tag : Half) (entry : Word) (off : BitVec 64) (bytes : List Byte)
  | regReq (h : HctHdr) (id : Half) (ops : List (Word × Word))
  | mailbox (h : HctHdr) (ch : Fin 8) (msg : List Byte)
  | basin (h : HctHdr) (ts : BasinTs) (bytes : List Byte)
  | neighbourSolicitation (p : PktHdr) (target : BitVec 128)
  | neighbourAdvertisement (p : PktHdr) (mac : BitVec 48)
  | echoRequest (p : PktHdr) (dst : BitVec 128) (payload : List Byte)
  | pfcReceived (prio : BitVec 3) (xoff : Bool) (ns : Nat)
  | resendTimeout (peer : HctPeer) (seq : Word)
  | ackDelay (peer : HctPeer)
  | neighbourResolicit (addr : BitVec 128)
  | completion
  | interrupt
  | hostLinkTraining (ok : Bool)
  | hostLossOfLock
  -- register operations
  | registerWrite (r : Requester) (off : Word) (val : Word)
  | mpReset (r : Requester) (val : Word)
  | runReset (r : Requester) (val : Word)
  | hubReset (r : Requester) (val : Word)
  | hbmMarginGo (r : Requester) (stack : Fin 12) (val : Word)
  | marginDone (stack : Fin 12) (errors : Nat)
  | nglRetrain (r : Requester) (port : Fin 6) (val : Word)
  | nglExpWrite (r : Requester) (port : Fin 6) (which : Fin 3) (val : Word)
  | hstIrqResend (r : Requester) (val : Word)
  | snap (r : Requester) (page : Word) (val : Word)
  | intClr (r : Requester) (page : Word) (val : Word)
  -- array instructions (Table 2.8): the physical array and the fields
  | ldp (a : Fin 768) (i : ArrInst)
  | mmf (a : Fin 768) (i : ArrInst)
  | mmt (a : Fin 768) (i : ArrInst)
  | drn (a : Fin 768) (i : DrnInst)
  | syn (a : Fin 768) (i : WeirInst)
  | endA (a : Fin 768) (i : WeirInst)
  | loop (a : Fin 768) (i : ArrInst)
  | next (a : Fin 768) (i : ArrInst)
  -- row descriptors (Table 6.9)
  | normF (a : Fin 768) (d : RowDesc)
  | rmsF (a : Fin 768) (d : RowDesc)
  | smaxF (a : Fin 768) (d : RowDesc)
  | normB (a : Fin 768) (d : RowSum)
  | rmsB (a : Fin 768) (d : RowSum)
  | smaxB (a : Fin 768) (d : RowDesc)
  -- stream instructions (Table 9.8): stream 0 is the root stream, t + 1 the stream of tile t
  | issue (st : Fin 5) (i : StreamInst)
  | waitc (st : Fin 5) (i : StreamInst)
  | waite (st : Fin 5) (i : StreamInst)
  | waitw (st : Fin 5) (i : StreamInst)
  | waitMet (st : Fin 5) (ns : Nat)
  | arrive (st : Fin 5) (i : StreamInst)
  | post (st : Fin 5) (i : StreamInst)
  | streamEnd (st : Fin 5) (i : StreamInst)
  -- tile DMA (Table 7.4): the engine t * 24 + e, the list index and the descriptor
  /-- With the errors that its read meets in the rows of its source. -/
  | dmaCopy (e : Fin 96) (idx : BitVec 24) (d : DmaDesc) (errs : List RowErr)
  | dmaAddF32 (e : Fin 96) (idx : BitVec 24) (d : DmaAdd)
  | dmaAddS32 (e : Fin 96) (idx : BitVec 24) (d : DmaDesc)
  | dmaSwap32 (e : Fin 96) (idx : BitVec 24) (d : DmaDesc)
  | dmaSwap64 (e : Fin 96) (idx : BitVec 24) (d : DmaDesc)
  | dmaComplete (e : Fin 96) (idx : BitVec 24)
  | ringFillIssue (a : Fin 768) (ring : Fin 4)
  | probeEnd (e : Fin 96) (idx : BitVec 24)
  -- parameter update: the lead unit's stack, the list index and the descriptor
  | dense (u : Fin 12) (idx : BitVec 24) (d : UpdDesc)
  | lazyUpd (u : Fin 12) (idx : BitVec 24) (d : UpdDesc)
  | updateComplete (u : Fin 12) (idx : BitVec 24)
  | fenceLift (q : Fin 16) (handle : BitVec 24)
  -- confluence engine
  | reduce (idx : BitVec 24) (d : CflDesc)
  | gather (idx : BitVec 24) (d : CflDesc)
  | norm (idx : BitVec 24) (d : CflDesc)
  | xchg (idx : BitVec 24) (d : CflDesc)
  | drain (port : Fin 6) (idx : BitVec 24) (ev : Byte)
  | cflComplete (idx : BitVec 24)
  | marker (h : RecHdr) (idx : BitVec 24)
  | windowClose (idx : BitVec 24)
  | decisionRecord (h : RecHdr) (idx : BitVec 24) (d : Decision)
  -- peer links
  | dataFlit (port : Fin 6) (f : Flit)
  | flitAck (port : Fin 6) (h : FlitTop) (rx : FlitRx)
  | identityRecord (h : RecHdr) (r : IdentRec)
  /-- SRCDEV of the header is the device whose part closes. -/
  | closingRecord (h : RecHdr) (weir : BitVec 12) (k : Nat) (triggers : List (BitVec 3)) (noCommit : Bool) (slackNs : Nat)
  | peerNotice (h : RecHdr) (origin : BitVec 6) (status : Half) (hold : Bool)
  | trainingDone (port : Fin 6)
  | trainingTimeout (port : Fin 6)
  | lossOfLock (port : Fin 6)
  | replayThreshold (port : Fin 6)
  -- weirs and the step boundary
  | weirClose (w : BitVec 12) (slackNs : Nat)
  | stepBoundary (slackNs : Nat)
  | releaseGroup (g : Fin 64)
  | eddyDecrement (a : Fin 768) (holdUs : Nat)
  | stepTimeout
  | stepsDone
  -- power
  | coldStart
  | orderlyPowerDown
  | overvoltageTrip
  | undervoltage
  | rideThrough
  | inputHigh (dv : Nat) (us : Nat)
  | inputLow (dv : Nat) (us : Nat)
  | peuRestart
  | hubStageFault
  | vsPhaseFail (t : Fin 4) (phase : Fin 16)
  | stageFault (t : Fin 4)
  | phaseFail (a : Fin 768) (phase : Fin 6)
  | controllerFail (a : Fin 768)
  | creditGrant (a : Fin 768) (waitNs : Nat)
  | lehrStageDone (a : Fin 768)
  | nbrCap (a : Fin 768)
  -- power capping and thermal control
  | capLoopTick (pin10 : Nat) (vin : Nat)
  | fCapRaise (pin100 : Nat)
  | memoryLimitTick (pin100 : Nat)
  /-- Tile 0 to 3, or 4 for the sensors of the hub. -/
  | junctionCeiling (t : Fin 5) (tj : Nat)
  | boostTick (a : Fin 768) (pin100 : Nat) (tj : Nat)
  | sidebandRead (r : Sideband)
  | sensorFault (k : Sensor)
  | flow
  | outlet
  | junction
  | capFloor
  | safeExit
  | thermalTrip
  -- memory housekeeping
  | scrub (stack : Fin 12) (pch : Fin 32) (bank : Byte) (row : Word) (corrected : Nat) (uncorrectable : Bool)
  | migrationSwitch (handle : BitVec 24) (page : Nat) (ver : Bool)
  | delayedLogWrite
  | compaction
  /-- With the event that it writes. -/
  | logWrite (kind : Byte) (page : Word) (status : Half) (payload : List Byte)
  -- management processor
  | mpWatchdog
  | utilWindow (u : BitVec 7)
  | telemetrySample
  | minVerRaise
  | info (tag : Half)
  | logRead (tag : Half) (first : Word) (count : Half)
  | telRead (tag : Half) (first : Word) (count : Half)
  | mpStatus (ch : Fin 8) (tag : Half)
  | testDisable (tag : Half)
  | enroll (tag : Half) (e : Envelope)
  | release (tag : Half) (e : Envelope)
  | fwUpdate (tag : Half) (e : Envelope)
  | attest (tag : Half) (e : Envelope)
  | testEnable (tag : Half) (e : Envelope)
  | portEnable (r : Requester) (page : Word) (val : Word)
  | hbmTrainingDone (failed : List (Fin 12))
  | exchangeSlot (slot : Fin 16)
  | ringFullDelay (a : Fin 768) (ring : Fin 4) (slot : Fin 16)
deriving DecidableEq, Repr

end Sys2Proof
end

