-- ==== Sys2Proof/Config.lean ====
section
/-! DEFINITION. What an implementation fixes and the free values: constants with no body, so that no
proof can see what they are. Each is marked by a row of the assumption log. -/

namespace Sys2Proof.Config

/-- The F32 an implementation answers for v^(-1/2), exp(v) and log(v): taken when it lies within the
bound of Table 6.11, else the correctly rounded value is (R167). Free, assumption 8. -/
opaque rsqrtValue : F32 → F32
opaque expValue : F32 → F32
opaque logValue : F32 → F32

/-- The handle at which ALLOC begins its search for an unused one (R200), by the count of free values drawn.
Free, assumption 9. -/
opaque allocHandle : Nat → BitVec 24

/-- ML-DSA-87 (R412, R419), named by the manual and not defined by it. Free, assumption 10. -/
opaque mldsaVerify (pubkey message context signature : List Byte) : Bool
opaque mldsaSign (seed message context : List Byte) : List Byte
opaque mldsaPublic (seed : List Byte) : List Byte

/-- The boot ROM, whose bytes the manual does not give (Table 15.10). Free, assumption 25. -/
opaque bootRom : List Byte
/-- The Hokual root ML-DSA-87 public key that the boot ROM holds (R413). Free, assumption 25. -/
opaque rootKey : List Byte

/-- Which of the two values a byte keeps when two unordered descriptors write it (R190 rule 5); drawn by
the count of free values. Free, assumption 11. -/
opaque freeBool : Nat → Bool
/-- A 32-bit and a 64-bit value that the manual leaves open, by the count of free values drawn. -/
opaque freeWord : Nat → BitVec 32
opaque freeDWord : Nat → BitVec 64

/-- How far the pages of a stack are turned against the data rows of a pseudo-channel (Table 8.1), and the 32-byte granule
of the page that holds an uncorrectable line of a row: the manual gives no map of rows to pages. Free, assumption 12. -/
opaque pageShift (stack pch : Nat) : Nat
opaque granuleOfRow (stack pch bank row : Nat) : Nat

/-- The priority class of what a sequencer fetches from the image, reads or writes: Table 8.3 names none. Free,
assumption 98. -/
opaque fetchClass : Nat

end Sys2Proof.Config
end

