-- ==== Sys2Proof/Machine/Numerics.lean ====
section
/-! DEFINITION. Exact values, the element encodings and block scales of the manual (R71 to R80), rounding
(R84 to R86), F32 arithmetic (R90), the stochastic rounding generator (R92 to R98) and the master pair
(R99, R100). -/

namespace Sys2Proof.Machine

/-- An exact value: NaN, an infinity, or `(-1)^neg * m * 2^e`. `m = 0` is a signed zero. -/
inductive Num where
  | nan
  | inf (neg : Bool)
  | fin (neg : Bool) (m : Nat) (e : Int)
deriving DecidableEq, Repr

/-- A floating-point element format (Table 3.2). `w` mantissa bits, `eb` exponent bits; `maxc` is the
code of the largest finite value; `flush` says that subnormals read as zero and are never written. -/
structure FFmt where
  w : Nat
  eb : Nat
  bias : Nat
  maxc : Nat
  inf : Option Nat
  nan : Option Nat
  flush : Bool
deriving DecidableEq, Repr

/-- Table 3.2, row F4. -/
def fF4 : FFmt := { w := 1, eb := 2, bias := 1, maxc := 7, inf := none, nan := none, flush := false }
/-- Table 3.2, row F8A. -/
def fF8A : FFmt := { w := 3, eb := 4, bias := 7, maxc := 0x7e, inf := none, nan := some 0x7f, flush := false }
/-- Table 3.2, row F8G. -/
def fF8G : FFmt := { w := 2, eb := 5, bias := 15, maxc := 0x7b, inf := some 0x7c, nan := some 0x7f, flush := false }
/-- Table 3.2, row B16. -/
def fB16 : FFmt := { w := 7, eb := 8, bias := 127, maxc := 0x7f7f, inf := some 0x7f80, nan := some 0x7fc0, flush := true }
/-- Table 3.2, row F32. -/
def fF32 : FFmt := { w := 23, eb := 8, bias := 127, maxc := 0x7f7fffff, inf := some 0x7f800000, nan := some 0x7fc00000, flush := true }

/-- The magnitude part of a code. -/
def FFmt.mag (f : FFmt) (c : Nat) : Nat := c % 2 ^ (f.eb + f.w)
/-- The sign of a code. -/
def FFmt.neg (f : FFmt) (c : Nat) : Bool := c / 2 ^ (f.eb + f.w) % 2 == 1
/-- A code with the given sign. -/
def FFmt.mk' (f : FFmt) (neg : Bool) (mag : Nat) : Nat := if neg then 2 ^ (f.eb + f.w) + mag else mag

/-- A nonzero subnormal code of a format that reads subnormals as zero (R84). -/
def FFmt.isSub (f : FFmt) (c : Nat) : Bool := f.flush && f.mag c != 0 && f.mag c < 2 ^ f.w

/-- The value of a code (R72, R84 for B16 and F32 subnormals). -/
def FFmt.dec (f : FFmt) (c : Nat) : Num :=
  let g := f.mag c
  let s := f.neg c
  if f.maxc < g then (if f.inf = some g then .inf s else .nan)
  else
    let ex := g / 2 ^ f.w
    let m := g % 2 ^ f.w
    if ex = 0 then (if f.flush then .fin s 0 0 else .fin s m (1 - f.bias - f.w))
    else .fin s (2 ^ f.w + m) ((ex : Int) - f.bias - f.w)

/-- `⌊log2 (n/d)⌋` for positive `n` and `d`. -/
def ilog2Rat (n d : Nat) : Int :=
  let a := n.log2
  let b := d.log2
  let lt : Bool := if b ≤ a then decide (n < d <<< (a - b)) else decide (n <<< (b - a) < d)
  (a : Int) - b - (if lt then 1 else 0)

/-- `⌊n/d * 2^t⌋`, its remainder and the divisor the remainder is over. -/
def scaleRat (n d : Nat) (t : Int) : Nat × Nat × Nat :=
  match t with
  | .ofNat k => ((n <<< k) / d, (n <<< k) % d, d)
  | .negSucc k => (n / (d <<< (k + 1)), n % (d <<< (k + 1)), d <<< (k + 1))

/-- Rounding of `q + rem/den`: to nearest even, or stochastic with the 16-bit value `r` (R86). -/
def roundUp (q rem den : Nat) (sr : Option Nat) : Nat :=
  match sr with
  | none => if 2 * rem < den then q else if 2 * rem = den then q + q % 2 else q + 1
  | some r => if r * den < 65536 * rem then q + 1 else q

/-- The code, without a sign and without an upper bound on the exponent, of the value next to
`n/d * 2^e` in the format (R84, R86). -/
def FFmt.roundMag (f : FFmt) (n d : Nat) (e : Int) (sr : Option Nat) : Nat :=
  if n = 0 then 0
  else
    let emin : Int := 1 - f.bias
    let ex := max (ilog2Rat n d + e) emin
    let (q, rem, den) := scaleRat n d (e - ex + f.w)
    (ex - emin).toNat * 2 ^ f.w + roundUp q rem den sr

/-- F32 result of an exact rational `(-1)^neg * n/d * 2^e` (R90): magnitudes below 2^-126 before rounding
become signed zero, overflow becomes infinity. -/
def f32Rat (neg : Bool) (n d : Nat) (e : Int) : F32 :=
  let g := if n = 0 ∨ ilog2Rat n d + e < -126 then 0 else min (fF32.roundMag n d e none) 0x7f800000
  BitVec.ofNat 32 (fF32.mk' neg g)

/-- F32 canonical NaN (Table 3.2). -/
def f32NaN : F32 := 0x7fc00000
/-- F32 infinities. -/
def f32Inf (neg : Bool) : F32 := if neg then 0xff800000 else 0x7f800000

/-- rne_f32 of an exact value (R90). -/
def Num.toF32 : Num → F32
  | .nan => f32NaN
  | .inf s => f32Inf s
  | .fin s m e => f32Rat s m 1 e

/-- The exact value of an F32 (R72, R84). -/
def f32V (x : F32) : Num := fF32.dec x.toNat
/-- The exact value of a B16. -/
def b16V (x : B16) : Num := fB16.dec x.toNat

/-- `m * 2^e` as an integer multiple of `2^t` for `t ≤ e`. -/
def alignTo (s : Bool) (m : Nat) (e t : Int) : Int :=
  let v : Int := (m : Int) * 2 ^ (e - t).toNat
  if s then -v else v

/-- Exact sum; ∞ − ∞ is NaN; x + (−x) is +0 (R90, Table 3.10). -/
def Num.add : Num → Num → Num
  | .nan, _ => .nan
  | _, .nan => .nan
  | .inf a, .inf b => if a = b then .inf a else .nan
  | .inf a, .fin _ _ _ => .inf a
  | .fin _ _ _, .inf b => .inf b
  | .fin s1 m1 e1, .fin s2 m2 e2 =>
    let t := min e1 e2
    let z := alignTo s1 m1 e1 t + alignTo s2 m2 e2 t
    if z = 0 then .fin (s1 && s2) 0 0 else .fin (decide (z < 0)) z.natAbs t

/-- The value with its sign inverted. -/
def Num.neg : Num → Num
  | .nan => .nan
  | .inf s => .inf (!s)
  | .fin s m e => .fin (!s) m e

/-- Magnitude. -/
def Num.abs : Num → Num
  | .nan => .nan
  | .inf _ => .inf false
  | .fin _ m e => .fin false m e

/-- Exact product; ∞ × 0 is NaN. -/
def Num.mul : Num → Num → Num
  | .nan, _ => .nan
  | _, .nan => .nan
  | .inf a, .inf b => .inf (a != b)
  | .inf a, .fin s m _ => if m = 0 then .nan else .inf (a != s)
  | .fin s m _, .inf b => if m = 0 then .nan else .inf (s != b)
  | .fin s1 m1 e1, .fin s2 m2 e2 => .fin (s1 != s2) (m1 * m2) (e1 + e2)

/-- Exact product with `2^k`. -/
def Num.shift (x : Num) (k : Int) : Num :=
  match x with
  | .fin s m e => .fin s m (e + k)
  | y => y

/-- NaN or infinite. -/
def Num.nonfinite : Num → Bool
  | .fin _ _ _ => false
  | _ => true

/-- NaN. -/
def Num.isNaN : Num → Bool
  | .nan => true
  | _ => false

/-- Infinite. -/
def Num.isInf : Num → Bool
  | .inf _ => true
  | _ => false

/-- A signed zero. -/
def Num.isZero : Num → Bool
  | .fin _ m _ => m == 0
  | _ => false

/-- Sign. -/
def Num.sign : Num → Bool
  | .nan => false
  | .inf s => s
  | .fin s _ _ => s

/-- Exact comparison of values that are not NaN (false when one is). -/
def Num.lt : Num → Num → Bool
  | .nan, _ => false
  | _, .nan => false
  | .inf a, .inf b => a && !b
  | .inf a, .fin _ _ _ => a
  | .fin _ _ _, .inf b => !b
  | .fin s1 m1 e1, .fin s2 m2 e2 =>
    let t := min e1 e2
    decide (alignTo s1 m1 e1 t < alignTo s2 m2 e2 t)

/-- Exact comparison, equality included. -/
def Num.le (a b : Num) : Bool := !a.isNaN && !b.isNaN && !b.lt a

/-- F32 addition (R90). -/
def fadd (a b : F32) : F32 := ((f32V a).add (f32V b)).toF32
/-- A nonzero result that an F32 step flushes (R84, R87). -/
def stepFlush : Num → Nat
  | .fin _ m e => if m ≠ 0 ∧ m.log2 + e < -126 then 1 else 0
  | _ => 0
/-- A subnormal F32 or B16 that reads as zero. -/
def f32Sub (a : F32) : Nat := if fF32.isSub a.toNat then 1 else 0
def b16Sub (a : B16) : Nat := if fB16.isSub a.toNat then 1 else 0
/-- F32 subtraction. -/
def fsub (a b : F32) : F32 := ((f32V a).add (f32V b).neg).toF32
/-- F32 multiplication. -/
def fmul (a b : F32) : F32 := ((f32V a).mul (f32V b)).toF32
/-- F32 quotient, rounded once: 0/0 and ∞/∞ are NaN, x/0 is an infinity. -/
def fdiv (a b : F32) : F32 :=
  match f32V a, f32V b with
  | .nan, _ => f32NaN
  | _, .nan => f32NaN
  | .inf _, .inf _ => f32NaN
  | .inf s, .fin t _ _ => f32Inf (s != t)
  | .fin s _ _, .inf t => f32Rat (s != t) 0 1 0
  | .fin s m e, .fin t m2 e2 =>
    if m2 = 0 then (if m = 0 then f32NaN else f32Inf (s != t)) else f32Rat (s != t) m m2 (e - e2)

/-- Integer square root by bits, from bit `k` down. -/
def isqrtGo (n : Nat) : Nat → Nat → Nat
  | 0, r => r
  | k + 1, r => let c := r + 2 ^ k; isqrtGo n k (if c * c ≤ n then c else r)
/-- `⌊√n⌋`. -/
def isqrt (n : Nat) : Nat := isqrtGo n (n.log2 / 2 + 1) 0

/-- F32 square root, rounded to nearest even: √(−0) is −0, a negative argument gives NaN. -/
def fsqrt (a : F32) : F32 :=
  match f32V a with
  | .nan => f32NaN
  | .inf s => if s then f32NaN else f32Inf false
  | .fin s m e =>
    if m = 0 then f32Rat s 0 1 0
    else if s then f32NaN
    else
      -- 2^(e - 2k) with an even exponent, and one sticky bit below 30 guard bits
      let odd : Nat := (e % 2).toNat
      let n := (m * 2 ^ odd) <<< 60
      let r := isqrt n
      let st := if r * r = n then 0 else 1
      f32Rat false (2 * r + st) 1 ((e - odd) / 2 - 31)

/-- +0. -/
def f32Zero : F32 := 0
/-- Magnitude of an F32: the sign bit cleared. -/
def fabs (a : F32) : F32 := a &&& 0x7fffffff
/-- Conversion of a B16 to F32 (exact; subnormals become signed zero, NaN canonical). -/
def f32OfB16 (b : B16) : F32 := (b16V b).toF32
/-- F32 value of a natural number, rounded once. -/
def f32OfNat (n : Nat) : F32 := f32Rat false n 1 0

/-- The pairwise tree of R88, one level. -/
def treeLevel : List F32 → List F32
  | a :: b :: r => fadd a b :: treeLevel r
  | l => l
/-- The summation tree of R88 (`fuel` levels). -/
def treeGo : Nat → List F32 → F32
  | 0, l => l.headD 0
  | _, [] => 0
  | _, [a] => a
  | k + 1, l => treeGo k (treeLevel l)
/-- The fixed pairwise tree over partial sums (R88). -/
def sumTree (l : List F32) : F32 := treeGo l.length l

/-! ### Operands of the tree (R88, R307) -/

/-- The next level of a tree over leaves of which some are complete: each node with its first leaf and the end of its
leaves. -/
def treeUp : List (Option (Nat × Nat)) → List (Option (Nat × Nat))
  | some x :: some y :: r => some (x.1, y.2) :: treeUp r
  | _ :: _ :: r => none :: treeUp r
  | l => l
/-- The additions of a level whose operands are complete: first leaf, first leaf of the right operand, end. -/
def treeJoins : List (Option (Nat × Nat)) → List (Nat × Nat × Nat)
  | some x :: some y :: r => (x.1, y.1, y.2) :: treeJoins r
  | _ :: _ :: r => treeJoins r
  | _ => []
/-- The complete operands of a level whose partners are not, with whether each is a left one. -/
def treeParked : List (Option (Nat × Nat)) → List (Nat × Nat × Bool)
  | some x :: none :: r => (x.1, x.2, true) :: treeParked r
  | none :: some y :: r => (y.1, y.2, false) :: treeParked r
  | _ :: _ :: r => treeParked r
  | _ => []
/-- What every level of the tree gives. -/
def treeLevels (f : List (Option (Nat × Nat)) → List α) : Nat → List (Option (Nat × Nat)) → List α
  | 0, _ => []
  | k + 1, l => if l.length ≤ 1 then [] else f l ++ treeLevels f k (treeUp l)
/-- The leaves of a tree of `n`, complete where `have'` says so. -/
def treeLeaves (n : Nat) (have' : Nat → Bool) : List (Option (Nat × Nat)) := (List.range n).map (fun j => if have' j then some (j, j + 1) else none)

/-! ### The S8 block scale (R74) -/

/-- The value of an S8 code that is not 0xff: `(8+f) * 2^(e-18)`. -/
def s8V (c : Byte) : Num := .fin false (8 + c.toNat % 8) ((c.toNat / 8 : Nat) - 18)
/-- Numerator of an S8 value over `2^(e-18)`. -/
def s8M (c : Byte) : Nat := 8 + c.toNat % 8
/-- Exponent of an S8 value's unit. -/
def s8E (c : Byte) : Int := (c.toNat / 8 : Nat) - 18

/-- The smallest code `c` from `c` on (`k` codes left) whose value times `mx` is at least `a`; 0xfe when
none is (R85 step 3). -/
def s8Least (a mx : Num) : Nat → Nat → Byte
  | 0, _ => 0xfe
  | k + 1, c => if Num.le a ((s8V (BitVec.ofNat 8 c)).mul mx) then BitVec.ofNat 8 c else s8Least a mx k (c + 1)

/-- Largest magnitude among the values that are neither NaN nor infinite (R85 step 1). -/
def maxFinite (xs : List Num) : Num :=
  xs.foldl (fun a x => if x.nonfinite then a else if a.lt x.abs then x.abs else a) (.fin false 0 0)

/-- choose_scale of R85 steps 1 to 3 for a destination whose largest finite value is `mx`. -/
def chooseScale (xs : List Num) (mx : Num) : Byte :=
  let a := maxFinite xs
  if a.isZero then 0x78 else s8Least a mx 255 0

/-- enc_s8 of R125: the nearest code, ties to the code with bit 0 clear. -/
def encS8 (a : F32) : Byte :=
  match f32V a with
  | .fin _ m e =>
    if m = 0 then 0x00
    else if (m.log2 : Int) + e < -15 then 0x00
    else BitVec.ofNat 8 (min ({ fF8A with bias := 16 }.roundMag m 1 e none - 8) 0xfe)
  | _ => 0xfe

/-! ### Format codes (R71) -/

/-- The encodings of Table 3.1. -/
inductive Fmt where
  | t2 | w2 | f4 | f8a | f8as | f8g | f8gs | b16 | f32
deriving DecidableEq, Repr

/-- Format code (Table 3.1); undefined codes are `none`. -/
def fmtOfCode : Nat → Option Fmt
  | 1 => some .t2
  | 2 => some .w2
  | 3 => some .f4
  | 4 => some .f8a
  | 5 => some .f8as
  | 6 => some .f8g
  | 7 => some .f8gs
  | 8 => some .b16
  | 9 => some .f32
  | _ => none

/-- Bits of one element in a plane or a tensor that is not T2; T2 has 2 in the cell store. -/
def Fmt.bits : Fmt → Nat
  | .t2 => 2 | .w2 => 2 | .f4 => 4 | .f8a => 8 | .f8as => 8 | .f8g => 8 | .f8gs => 8 | .b16 => 16 | .f32 => 32

/-- A block scale accompanies each block (Table 3.1). -/
def Fmt.scaled : Fmt → Bool
  | .t2 => true | .w2 => true | .f4 => true | .f8as => true | .f8gs => true | _ => false

/-- T2 or W2. -/
def Fmt.lowBit : Fmt → Bool
  | .t2 => true | .w2 => true | _ => false

/-- An 8-bit format (R83). -/
def Fmt.eight : Fmt → Bool
  | .f8a => true | .f8as => true | .f8g => true | .f8gs => true | _ => false

/-- The floating-point fields of a format; T2 and W2 have none of their own. -/
def Fmt.ff : Fmt → FFmt
  | .f4 => fF4 | .f8a => fF8A | .f8as => fF8A | .f8g => fF8G | .f8gs => fF8G | .b16 => fB16 | _ => fF32

/-- Largest finite value (R85 step 2). -/
def Fmt.maxV (f : Fmt) : Num := f.ff.dec f.ff.maxc

/-- Element bytes of one block of 32 elements, the scale left out (R80); T2 and W2 narrow blocks with it. -/
def Fmt.blockBytes : Fmt → Nat
  | .t2 => 8 | .w2 => 10 | .f4 => 16 | .f8a => 32 | .f8as => 32 | .f8g => 32 | .f8gs => 32 | .b16 => 64 | .f32 => 128

/-- Whether the format uses the scale words of R80. -/
def Fmt.scaleWord : Fmt → Bool
  | .f4 => true | .f8as => true | .f8gs => true | _ => false

/-- Stored size of `n` blocks (Table 3.5, narrow blocks for T2 and W2). -/
def Fmt.stored (f : Fmt) (n : Nat) : Nat :=
  f.blockBytes * n + (if f.scaleWord then 16 * ((n + 15) / 16) else 0)

/-- Byte offset of block `b`'s elements in a stored tensor (R80). -/
def Fmt.blockOff (f : Fmt) (b : Nat) : Nat :=
  if f.scaleWord then (b / 16) * (16 + 16 * f.blockBytes) + 16 + (b % 16) * f.blockBytes else b * f.blockBytes
/-- Byte offset of block `b`'s scale byte (R80). -/
def Fmt.scaleOff (f : Fmt) (b : Nat) : Nat := (b / 16) * (16 + 16 * f.blockBytes) + b % 16

/-! ### Bytes -/

/-- Little-endian value of bytes (R7). -/
def leNat : List Byte → Nat
  | [] => 0
  | b :: r => b.toNat + 256 * leNat r
/-- The `n` little-endian bytes of a number (R7). -/
def leBytes : Nat → Nat → List Byte
  | 0, _ => []
  | n + 1, v => BitVec.ofNat 8 v :: leBytes n (v / 256)

/-- Element codes of one block from its element bytes (the packing below Table 3.3 for F4, little-endian otherwise). -/
def Fmt.codes (f : Fmt) (bs : List Byte) : List Nat :=
  match f with
  | .f4 => bs.flatMap (fun b => [b.toNat % 16, b.toNat / 16])
  | .f32 => (List.range (bs.length / 4)).map (fun i => leNat ((bs.drop (4 * i)).take 4))
  | .b16 => (List.range (bs.length / 2)).map (fun i => leNat ((bs.drop (2 * i)).take 2))
  | _ => bs.map (fun b => b.toNat)

/-- Element bytes of one block from its codes. -/
def Fmt.bytesOf (f : Fmt) (cs : List Nat) : List Byte :=
  match f with
  | .f4 => (List.range (cs.length / 2)).map (fun i => BitVec.ofNat 8 (cs.getD (2 * i) 0 + 16 * cs.getD (2 * i + 1) 0))
  | .f32 => cs.flatMap (leBytes 4)
  | .b16 => cs.flatMap (leBytes 2)
  | _ => cs.map (BitVec.ofNat 8)

/-- Decoded elements of one block: NaN throughout when the block is invalid (R75). -/
def Fmt.decBlock (f : Fmt) (scale : Byte) (cs : List Nat) : List Num :=
  if f.scaled then
    (if scale = 0xff then cs.map (fun _ => Num.nan) else cs.map (fun c => (f.ff.dec c).mul (s8V scale)))
  else cs.map f.ff.dec

/-- The counts of R87. -/
structure CnvCnt where
  flush : Nat := 0
  sat : Nat := 0
  nan : Nat := 0
  blk : Nat := 0
deriving DecidableEq, Repr

/-- Sum of two counts. -/
def CnvCnt.add (a b : CnvCnt) : CnvCnt := ⟨a.flush + b.flush, a.sat + b.sat, a.nan + b.nan, a.blk + b.blk⟩

/-- One converted block. -/
structure BlkOut where
  scale : Byte := 0
  codes : List Nat := []
  cnt : CnvCnt := {}
deriving DecidableEq, Repr

/-- One element, already over the block scale `sm * 2^se`, to an element code and its counts (R84 to R86,
Table 3.8). Above the largest finite value stochastic rounding goes on on the grid continued (assumption 115). -/
def cnvElem (f : Fmt) (x : Num) (sm : Nat) (se : Int) (sr : Option Nat) : Nat × CnvCnt :=
  let g := f.ff
  match x with
  | .nan => (g.nan.getD 0, {})
  | .inf s =>
    match g.inf with
    | some c => (g.mk' s c, {})
    | none => (g.nan.getD 0, { nan := 1 })
  | .fin s m e =>
    if m = 0 then (g.mk' s 0, {})
    else if g.flush && ilog2Rat m sm + (e - se) < -126 then (g.mk' s 0, { flush := 1 })
    else
      let c := g.roundMag m sm (e - se) sr
      if g.maxc < c then
        (g.mk' s (if f = .b16 ∧ sr = none then 0x7f80 else g.maxc), { sat := 1 })
      else (g.mk' s c, {})

/-- One block of exact values to the destination format (R84, R85): `sr i` is the 16-bit value of element
`i` under GRAD = 1, `none` under RNE. -/
def cnvBlock (f : Fmt) (xs : List Num) (sr : Nat → Option Nat) : BlkOut :=
  if f = .f4 ∧ xs.any Num.nonfinite then
    { scale := 0xff, codes := xs.map (fun _ => 0), cnt := { blk := 1 } }
  else
    let sc : Byte := if f.scaled then chooseScale xs f.maxV else 0x78
    let out := xs.mapIdx (fun i x => if f.scaled then cnvElem f x (s8M sc) (s8E sc) (sr i) else cnvElem f x 1 0 (sr i))
    { scale := sc, codes := out.map (·.1), cnt := out.foldl (fun a o => a.add o.2) {} }

/-! ### The generator of stochastic rounding (R94 to R96) -/

/-- mix64 of R94. -/
def mix64 (z : DWord) : DWord :=
  let z := (z ^^^ (z >>> 30)) * 0xbf58476d1ce4e5b9
  let z := (z ^^^ (z >>> 27)) * 0x94d049bb133111eb
  z ^^^ (z >>> 31)

/-- sr_bits of R94. -/
def srBits (seed step : DWord) (sid contrib : Half) (use : Byte) (elem : DWord) : Nat :=
  let h := mix64 (seed ^^^ 0x9e3779b97f4a7c15)
  let h := mix64 (h ^^^ step)
  let h := mix64 (h ^^^ ((use.setWidth 64 <<< 56) ||| (contrib.setWidth 64 <<< 16) ||| sid.setWidth 64))
  let h := mix64 (h ^^^ elem)
  (h >>> 48).toNat

/-- contrib of Table 4.1 and R96: zero when SID[15] = 1. -/
def contribOf (sid : Half) (reachIndex x y z : Nat) : Half :=
  if sid.getLsbD 15 then 0 else BitVec.ofNat 16 (64 * reachIndex + x + 4 * y + 16 * z)

/-! ### The master pair (R99, R100) -/

/-- ulp(w) / 256 as a power of two: the exponent `max(E,1) - 142`. -/
def carryExp (w : B16) : Int := max (w.toNat / 128 % 256 : Nat) 1 - (142 : Int)

/-- m of R99; c is ignored when w is not finite. -/
def masterValue (w : B16) (c : BitVec 8) : F32 :=
  let e := w.toNat / 128 % 256
  if e = 255 then f32OfB16 w
  else
    let z := c.toInt
    ((b16V w).add (.fin (decide (z < 0)) z.natAbs (carryExp w))).toF32

/-- rne_int of `n * 2^k`. -/
def rneInt (neg : Bool) (n : Nat) (k : Int) : Int :=
  let (q, rem, den) := scaleRat n 1 k
  let v : Int := roundUp q rem den none
  if neg then -v else v

/-- rne_b16 of an exact value (Table 3.8, B16 with RNE). -/
def rneB16 (x : Num) : B16 := BitVec.ofNat 16 (cnvElem .b16 x 1 0 none).1

/-- The split of R100: the pair and the number of carry saturations counted. -/
def masterSplit (t : F32) : B16 × BitVec 8 × Nat :=
  match f32V t with
  | .nan => (0x7fc0, 0, 0)
  | x =>
    let w := rneB16 x
    match b16V w with
    | .inf _ => (w, 0, 1)
    | wv =>
      match x.add wv.neg with
      | .fin s m e =>
        let q := rneInt s m (e - carryExp w)
        if q = 128 then (w, 127, 1) else (w, BitVec.ofInt 8 q, 0)
      | _ => (w, 0, 0)

/-! ### Exact sums of squares (R134) -/

/-- The F32 square of a value: squares below 2^-126 flush to zero. -/
def sqF32 (x : Num) : F32 := (x.mul x).toF32
/-- A finite non-negative F32 as a multiple of 2^-149 (the accumulator of R134). -/
def fixed149 (x : F32) : Nat :=
  match f32V x with
  | .fin _ m e => (scaleRat m 1 (e + 149)).1
  | _ => 0
/-- The F32 value of an accumulator of R134. -/
def f32OfFixed149 (n : Nat) : F32 := f32Rat false n 1 (-149)

end Sys2Proof.Machine
end

