-- ==== Sys2Proof/Machine/Formats.lean ====
section
/-! DEFINITION. Stored layouts (R77 to R80), spillway sections (R128 to R132), the format word (R82, R83),
conversion of stored rows (R84, R95, R182), and the functions of the row engine (R167). -/

namespace Sys2Proof.Machine

/-! ### Stored rows (R80) -/

/-- Scale byte and element codes of block `b` of a stored tensor. -/
def storedBlock (f : Fmt) (bs : List Byte) (b : Nat) : Byte × List Nat :=
  (if f.scaleWord then bs.getD (f.scaleOff b) 0 else 0x78, f.codes ((bs.drop (f.blockOff b)).take f.blockBytes))

/-- One group of R80: the scale word, then the element bytes of its blocks. -/
def asmGroup (f : Fmt) (outs : List BlkOut) : List Byte :=
  (if f.scaleWord then outs.map (·.scale) ++ List.replicate (16 - outs.length) 0 else [])
    ++ outs.flatMap (fun o => f.bytesOf o.codes)

/-- Groups of up to 16 blocks (`fuel` groups). -/
def asmGroups (f : Fmt) : Nat → List BlkOut → List Byte
  | 0, _ => []
  | k + 1, outs => if outs.isEmpty then [] else asmGroup f (outs.take 16) ++ asmGroups f k (outs.drop 16)

/-- The stored bytes of a tensor of blocks (R80). -/
def asmStored (f : Fmt) (outs : List BlkOut) : List Byte := asmGroups f (outs.length / 16 + 1) outs

/-! ### The format word (Table 3.6) -/

/-- SRC_FMT code. -/
def fwSrc (w : Word) : Nat := (w &&& 0xf).toNat
/-- DST_FMT code. -/
def fwDst (w : Word) : Nat := ((w >>> 4) &&& 0xf).toNat
/-- GRAD. -/
def fwGrad (w : Word) : Bool := w.getLsbD 8
/-- TSCALE. -/
def fwTscale (w : Word) : Bool := w.getLsbD 9
/-- SID. -/
def fwSid (w : Word) : Half := w.extractLsb' 16 16
/-- Bits [15:10]. -/
def fwRsvd (w : Word) : Bool := w.extractLsb' 10 6 != 0

/-- The status of Table 3.7 other than the HANDLE_INVALID row, 0 when the word passes. `oneEight` of the
TSCALE row: exactly one side is an 8-bit format. -/
def fwCheck (w : Word) : List Half :=
  let r : List Half := if fwRsvd w || (fwSid w != 0 && !fwGrad w && !fwTscale w) then [0x0103] else []
  let f : List Half :=
    match fmtOfCode (fwSrc w), fmtOfCode (fwDst w) with
    | some s, some d =>
      if (s.lowBit || d.lowBit) && (s != d || fwGrad w || fwTscale w) then [0x0107]
      else if (d == .f8g || d == .f8gs) && s != d && !fwGrad w then [0x0107]
      else if fwTscale w && (s.eight == d.eight) then [0x0107]
      else []
    | _, _ => [0x0107]
  r ++ f

/-! ### Conversion of one stored row (R84, R95) -/

/-- The keys of the generator that one conversion draws with (Table 4.1). -/
structure SrKey where
  seed : DWord := 0
  step : DWord := 0
  sid : Half := 0
  contrib : Half := 0
deriving DecidableEq, Repr

/-- A converted row: its bytes, its counts and the largest magnitude of its finite source elements
before the tensor factor (R103). -/
structure RowOut where
  bytes : List Byte := []
  cnt : CnvCnt := {}
  amax : Num := .fin false 0 0
deriving DecidableEq, Repr

/-- Source elements of a stored block and the count of flushed subnormals (R84 lines 1 and 2). -/
def srcBlock (f : Fmt) (bs : List Byte) (b : Nat) : List Num × Nat :=
  let (sc, cs) := storedBlock f bs b
  (f.decBlock sc cs, if f.scaled then 0 else cs.countP f.ff.isSub)

/-- Conversion of a row of `n` blocks (R84). `k` is the exponent of the tensor factor, applied with the
sign that R84 gives; `key` is given when GRAD = 1; `base` is the block number of the first block (R95). -/
def cnvRow (src dst : Fmt) (k : Option Int) (key : Option SrKey) (base n : Nat) (bs : List Byte) : RowOut :=
  let one (b : Nat) : BlkOut × Nat × Num :=
    let (xs, fl) := srcBlock src bs b
    let ys := match k with
      | none => xs
      | some k => xs.map (fun x => x.shift (if dst.eight then k else -k))
    let sr (i : Nat) : Option Nat :=
      key.map (fun q => srBits q.seed q.step q.sid q.contrib 0 (BitVec.ofNat 64 (32 * (base + b) + i)))
    (cnvBlock dst ys sr, fl, maxFinite xs)
  let outs := (List.range n).map one
  { bytes := asmStored dst (outs.map (·.1))
    cnt := outs.foldl (fun a o => (a.add o.1.cnt).add { flush := o.2.1 }) {}
    amax := maxFinite (outs.map (fun o => o.2.2)) }

/-- The exponent k of R105 for the maximum `a`: the largest k with `2^k * a ≤ mx`, less MARGIN, clamped. -/
def scaleK (a : Num) (mx : Num) (margin : Nat) : Int :=
  let k : Int := match a, mx with
    | .fin _ m e, .fin _ m2 e2 =>
      if m = 0 then 0 else ilog2Rat m2 m + (e2 - e) - margin
    | _, _ => 0
  max (-64) (min 64 k)

/-! ### T2 and W2 blocks (R73, R77 to R79) -/

/-- The five trits of a byte (R77). -/
def trits (b : Nat) : List Nat := [b % 3, b / 3 % 3, b / 9 % 3, b / 27 % 3, b / 81 % 3]
/-- The byte of up to five trits. -/
def tritByte : List Nat → Nat
  | [] => 0
  | d :: r => d + 3 * tritByte r

/-- One block of a plane: its scale, the wide flag and its 32 codes (trit digits, W2 codes, F8A bytes of a
wide block, or the element codes of another format). -/
structure PBlk where
  scale : Byte := 0
  wide : Bool := false
  codes : List Nat := []
deriving DecidableEq, Repr

/-- A plane image as read: its 288 blocks, the spillway entries, and whether it has a defect of R79, R132 or
an entry count above 576 (R42). -/
structure PImg where
  blocks : List PBlk := []
  entries : List Word := []
  bad : Bool := false
deriving DecidableEq, Repr

/-- The 35 trits of a T2 header (bytes 1 to 7). -/
def t2Trits (h : List Byte) : List Nat := ((h.drop 1).take 7).flatMap (fun b => trits b.toNat)

/-- Defects of a T2 header (R79). -/
def t2Bad (h : List Byte) : Bool :=
  ((h.drop 1).take 7).any (fun b => 242 < b.toNat) ||
  (t2Trits h).getD 33 1 != 1 || (t2Trits h).getD 34 1 != 1 || (t2Trits h).getD 32 0 == 0

/-- The W2 codes of a 64-bit code word (R73). -/
def w2Codes (w : List Byte) : List Nat :=
  w.flatMap (fun b => [b.toNat % 4, b.toNat / 4 % 4, b.toNat / 16 % 4, b.toNat / 64])

/-- One T2 or W2 block from the front of the bytes: the block, whether it has a defect, and the bytes it
takes (R77 to R79). -/
def readLow (f : Fmt) (bs : List Byte) : PBlk × Bool × Nat :=
  let sc := bs.headD 0
  match f with
  | .t2 =>
    let wide := (t2Trits bs).getD 32 0 == 2
    if wide then ({ scale := sc, wide := true, codes := ((bs.drop 8).take 32).map (·.toNat) }, t2Bad bs, 40)
    else ({ scale := sc, wide := false, codes := (t2Trits bs).take 32 }, t2Bad bs, 8)
  | _ =>
    let h := (bs.getD 1 0).toNat
    if h % 2 = 1 then ({ scale := sc, wide := true, codes := ((bs.drop 10).take 32).map (·.toNat) }, decide (2 ≤ h), 42)
    else ({ scale := sc, wide := false, codes := w2Codes ((bs.drop 2).take 8) }, decide (2 ≤ h), 10)

/-- `n` T2 or W2 blocks in order, the bytes left, and whether one had a defect. -/
def readLows (f : Fmt) : Nat → List Byte → List PBlk × Bool × List Byte
  | 0, bs => ([], false, bs)
  | n + 1, bs =>
    let (b, bad, k) := readLow f bs
    let (r, bad2, rest) := readLows f n (bs.drop k)
    (b :: r, bad || bad2, rest)

/-- Fields of a spillway entry (Table 5.1). -/
def entCol (w : Word) : Nat := (w.extractLsb' 23 7).toNat
def entBlk (w : Word) : Nat := (w.extractLsb' 21 2).toNat
def entIdx (w : Word) : Nat := (w.extractLsb' 16 5).toNat
def entVal (w : Word) : B16 := w.extractLsb' 0 16
/-- The order of R129: (COL, BLK, IDX). -/
def entKey (w : Word) : Nat := (w.extractLsb' 16 14).toNat
/-- The block of a plane image that an entry lies in, in plane-image order (R130). -/
def entBlock (w : Word) : Nat := entCol w * 3 + entBlk w

/-- Strictly increasing keys (R129). -/
def entsSorted : List Word → Bool
  | a :: b :: r => entKey a < entKey b && entsSorted (b :: r)
  | _ => true

/-- The image errors of R132 in the spillway entries. -/
def entsBad (blocks : List PBlk) (es : List Word) : Bool :=
  es.any (fun w => w.extractLsb' 30 2 != 0 || 95 < entCol w || entBlk w == 3 || ((blocks.getD (entBlock w) {}).wide))
  || !entsSorted es
  || es.any (fun w => 2 < es.countP (fun v => entBlock v == entBlock w))
  || es.any (fun w => 64 < es.countP (fun v => entBlock v / 32 == entBlock w / 32))

/-- A plane image from its bytes (R40, R129). -/
def readPlane (f : Fmt) (bs : List Byte) : PImg :=
  if f.lowBit then
    let (blocks, bad, rest) := readLows f 288 bs
    let cw := leNat (rest.take 4)
    if bad || 65536 ≤ cw || 576 < cw then { blocks := blocks, entries := [], bad := true }
    else
      let es := (List.range cw).map (fun i => BitVec.ofNat 32 (leNat ((rest.drop (4 + 4 * i)).take 4)))
      if entsBad blocks es then { blocks := blocks, entries := [], bad := true }
      else { blocks := blocks, entries := es, bad := false }
  else
    { blocks := (List.range 288).map (fun b => let (s, c) := storedBlock f bs b; { scale := s, wide := false, codes := c }) }

/-- Extent of an LDP in bytes (R40): the largest image it can read, or the stored size of the plane. -/
def ldpExtent (f : Fmt) : Nat :=
  match f with
  | .t2 => 13840
  | .w2 => 14416
  | g => g.stored 288

/-- Bytes of a T2 or W2 block (R77 to R79). -/
def lowBytes (f : Fmt) (b : PBlk) : List Byte :=
  match f with
  | .t2 =>
    let ds := if b.wide then List.replicate 32 1 ++ [2, 1, 1] else b.codes ++ [1, 1, 1]
    [b.scale] ++ (List.range 7).map (fun i => BitVec.ofNat 8 (tritByte ((ds.drop (5 * i)).take 5)))
      ++ (if b.wide then b.codes.map (BitVec.ofNat 8) else [])
  | _ =>
    if b.wide then [b.scale, 1] ++ List.replicate 8 0 ++ b.codes.map (BitVec.ofNat 8)
    else [b.scale, 0] ++ (List.range 8).map (fun i =>
      BitVec.ofNat 8 (b.codes.getD (4 * i) 0 + 4 * b.codes.getD (4 * i + 1) 0 + 16 * b.codes.getD (4 * i + 2) 0
        + 64 * b.codes.getD (4 * i + 3) 0))

/-- The value of a plane code, the block scale left out (R72, R73). -/
def planeCodeV (f : Fmt) (c : Nat) : Num :=
  match f with
  | .t2 => if c = 1 then .fin false 0 0 else .fin (c == 0) 1 0
  | .w2 => .fin (decide (c < 2)) (if c = 0 ∨ c = 3 then 3 else 1) (-1)
  | g => g.ff.dec c

/-! ### The functions of the row engine (R167, Table 6.11) -/

/-- Fixed-point unit of the reference computations, 2^128. -/
def fxOne : Int := 2 ^ 128
/-- `Σ t^(2j+1)/(2j+1)`, the series of atanh, with `k` terms from term `j` on; `p` is `t^(2j+1)`. -/
def atanhGo (t2 : Int) : Nat → Nat → Int → Int
  | 0, _, _ => 0
  | k + 1, j, p => p / (2 * j + 1 : Nat) + atanhGo t2 k (j + 1) (p * t2 / fxOne)
/-- atanh of `n/d ≤ 1/3` in fixed point. -/
def fxAtanh (n d : Nat) : Int :=
  let t := (n : Int) * fxOne / d
  atanhGo (t * t / fxOne) 50 0 t
/-- ln 2 in fixed point. -/
def fxLn2 : Int := 2 * fxAtanh 1 3
/-- `Σ r^j/j!` with `k` terms from `j` on. -/
def fxExpGo (r : Int) : Nat → Nat → Int → Int
  | 0, _, _ => 0
  | k + 1, j, p => p + fxExpGo r k (j + 1) (p * r / fxOne / (j + 1 : Nat))
/-- A magnitude `m * 2^e` in fixed point. -/
def fxOf (s : Bool) (m : Nat) (e : Int) : Int :=
  let q : Int := (scaleRat m 1 (e + 128)).1
  if s then -q else q

/-- `|c - n/2^128 * 2^k| ≤ b * ulp` where ulp is the spacing of F32 at the reference, `abs` a further
absolute allowance in units of 2^-128. -/
def withinUlp (c : F32) (n : Int) (k : Int) (b : Nat) (abs : Int) : Bool :=
  match f32V c with
  | .fin s m e =>
    let t := min e (k - 151)
    let r : Int := n * 2 ^ (k - 128 - t).toNat
    let d := (alignTo s m e t - r).natAbs
    let ex : Int := if n = 0 then -126 else max ((n.natAbs.log2 : Int) + k - 128) (-126)
    decide ((d : Int) ≤ (b : Int) * 2 ^ (ex - 23 - t).toNat) || decide ((d : Int) ≤ abs * 2 ^ (k - 128 - t).toNat)
  | _ => false

/-- exp(v): the value of the implementation within 2 ulp (Table 6.11). -/
def fexp (v : F32) : F32 :=
  match f32V v with
  | .nan => f32NaN
  | .inf s => if s then 0 else f32Inf false
  | .fin s m e =>
    if m = 0 then 0x3f800000
    else if (8 : Int) ≤ (m.log2 : Int) + e then (if s then 0 else f32Inf false)
    else
      let x := fxOf s m e
      let k := x / fxLn2
      let n := fxExpGo (x - k * fxLn2) 60 0 fxOne
      let r := f32Rat false n.toNat 1 (k - 128)
      if r = 0 ∨ r = f32Inf false then r
      else if withinUlp (Config.expValue v) n k 2 0 then Config.expValue v else r

/-- log(v): the value of the implementation within 2 ulp or 2^-30 (Table 6.11); the table states no result
for −0, which is free. -/
def flog (v : F32) : F32 :=
  match f32V v with
  | .nan => f32NaN
  | .inf s => if s then f32NaN else f32Inf false
  | .fin s m e =>
    if m = 0 then (if s then Config.logValue v else f32Inf true)
    else if s then f32NaN
    else if v = 0x3f800000 then 0
    else
      let l := m.log2
      let n := ((l : Int) + e) * fxLn2 + 2 * fxAtanh (m - 2 ^ l) (m + 2 ^ l)
      let r := f32Rat (decide (n < 0)) n.natAbs 1 (-128)
      if withinUlp (Config.logValue v) n 0 2 (2 ^ 98) then Config.logValue v else r

/-- rsqrt(v): the value of the implementation within 1 ulp (Table 6.11); the table states no result for −0,
which is free. -/
def frsqrt (v : F32) : F32 :=
  match f32V v with
  | .nan => f32NaN
  | .inf s => if s then f32NaN else 0
  | .fin s m e =>
    if m = 0 then (if s then Config.rsqrtValue v else f32Inf false)
    else if s then f32NaN
    else
      -- 1/√(m * 2^e) = √(2^512 / (m * 2^odd)) * 2^(-256 - (e - odd)/2)
      let odd : Nat := (e % 2).toNat
      let n := isqrt (2 ^ 512 / (m * 2 ^ odd))
      let k : Int := -((e - odd) / 2) - 128
      let r := f32Rat false (2 * n + 1) 1 (k - 129)
      if withinUlp (Config.rsqrtValue v) n k 1 0 then Config.rsqrtValue v else r

end Sys2Proof.Machine
end

