-- ==== Sys2Proof/Machine/Directory.lean ====
section
/-! DEFINITION. The register directory (R442 to R453): which page an offset of the control window lies in,
the registers that a write changes with their reset values and writable bits, and the reset values of
read-only registers that are not zero. -/

namespace Sys2Proof.Machine

/-- The kinds of page (Table 17.3). -/
inductive Pg where
  | arr | row | grg | dma | msc | hbm | plc | seqR | seqT | upd | cfl | ngl | lcu | hst | mbx | sec
  | pwrM | pwrT | thm | tel
deriving DecidableEq, Repr

/-- Page kind and instance index of an offset; `none` for an unmapped offset (R442, Table 17.3). -/
def pageOf (off : Nat) : Option (Pg × Nat) :=
  if off < 0x100000 then none
  else if off < 0x400000 then some (.arr, (off - 0x100000) / 0x1000)
  else if off < 0x700000 then some (.row, (off - 0x400000) / 0x1000)
  else if off < 0xa00000 then some (.grg, (off - 0x700000) / 0x1000)
  else if off < 0xa60000 then some (.dma, (off - 0xa00000) / 0x1000)
  else if off < 0xa64000 then some (.msc, (off - 0xa60000) / 0x1000)
  else if off < 0xa70000 then none
  else if off < 0xa7c000 then some (.hbm, (off - 0xa70000) / 0x1000)
  else if off < 0xa80000 then none
  else if off < 0xa81000 then some (.plc, 0)
  else if off < 0xa90000 then none
  else if off < 0xa91000 then some (.seqR, 0)
  else if off < 0xa95000 then some (.seqT, (off - 0xa91000) / 0x1000)
  else if off < 0xaa0000 then none
  else if off < 0xaac000 then some (.upd, (off - 0xaa0000) / 0x1000)
  else if off < 0xab0000 then none
  else if off < 0xab1000 then some (.cfl, 0)
  else if off < 0xac0000 then none
  else if off < 0xac6000 then some (.ngl, (off - 0xac0000) / 0x1000)
  else if off < 0xad0000 then none
  else if off < 0xad6000 then some (.lcu, (off - 0xad0000) / 0x1000)
  else if off < 0xae0000 then none
  else if off < 0xae1000 then some (.hst, 0)
  else if off < 0xaf0000 then none
  else if off < 0xaf1000 then some (.mbx, 0)
  else if off < 0xb00000 then none
  else if off < 0xb01000 then some (.sec, 0)
  else if off < 0xb10000 then none
  else if off < 0xb11000 then some (.pwrM, 0)
  else if off < 0xb15000 then some (.pwrT, (off - 0xb11000) / 0x1000)
  else if off < 0xb20000 then none
  else if off < 0xb21000 then some (.thm, 0)
  else if off < 0xb30000 then none
  else if off < 0xb31000 then some (.tel, 0)
  else none

/-- Base offset of a page. -/
def pageBase : Pg → Nat → Nat
  | .arr, i => 0x100000 + i * 0x1000
  | .row, i => 0x400000 + i * 0x1000
  | .grg, i => 0x700000 + i * 0x1000
  | .dma, i => 0xa00000 + i * 0x1000
  | .msc, i => 0xa60000 + i * 0x1000
  | .hbm, i => 0xa70000 + i * 0x1000
  | .plc, _ => 0xa80000
  | .seqR, _ => 0xa90000
  | .seqT, i => 0xa91000 + i * 0x1000
  | .upd, i => 0xaa0000 + i * 0x1000
  | .cfl, _ => 0xab0000
  | .ngl, i => 0xac0000 + i * 0x1000
  | .lcu, i => 0xad0000 + i * 0x1000
  | .hst, _ => 0xae0000
  | .mbx, _ => 0xaf0000
  | .sec, _ => 0xb00000
  | .pwrM, _ => 0xb10000
  | .pwrT, i => 0xb11000 + i * 0x1000
  | .thm, _ => 0xb20000
  | .tel, _ => 0xb30000

/-- Type code (Table 17.3). -/
def Pg.type : Pg → Nat
  | .arr => 1 | .row => 2 | .grg => 3 | .dma => 4 | .msc => 5 | .hbm => 6 | .plc => 7 | .seqR => 8 | .seqT => 8
  | .upd => 9 | .cfl => 10 | .ngl => 11 | .lcu => 12 | .hst => 13 | .mbx => 14 | .sec => 15 | .pwrM => 16
  | .pwrT => 16 | .thm => 17 | .tel => 18

/-- BLK_ID instance of an instance index (Table 17.3): tile pages of the SEQ_ and PWR_ types hold t + 1. -/
def Pg.inst : Pg → Nat → Nat
  | .seqT, i => i + 1
  | .pwrT, i => i + 1
  | _, i => i

/-- Pages of the kind, absent ones included (Table 17.3). -/
def Pg.count : Pg → Nat
  | .arr => 768 | .row => 768 | .grg => 768 | .dma => 96 | .msc => 4 | .hbm => 12 | .seqT => 4 | .upd => 12
  | .ngl => 6 | .lcu => 6 | .pwrT => 4 | _ => 1

/-- Defined INT_RAW bits (Table 17.3); 0 when the page raises no interrupt. -/
def Pg.intMask : Pg → Word
  | .arr => 0xf | .row => 1 | .grg => 0 | .dma => 1 | .msc => 1 | .hbm => 0xf | .plc => 7 | .seqR => 0x1f
  | .seqT => 0 | .upd => 0xf | .cfl => 0xf | .ngl => 0xf | .lcu => 1 | .hst => 0xf | .mbx => 7 | .sec => 0xf
  | .pwrM => 0xf | .pwrT => 0x1f | .thm => 0x7f | .tel => 0

/-- Every page in increasing offset. -/
def pageKinds : List Pg :=
  [.arr, .row, .grg, .dma, .msc, .hbm, .plc, .seqR, .seqT, .upd, .cfl, .ngl, .lcu, .hst, .mbx, .sec, .pwrM,
   .pwrT, .thm, .tel]

/-- Reset value and writable bits of the test registers (Tables 18.6 to 18.9). -/
def tstReg (p : Pg) (o : Nat) : Option (Word × Word) :=
  match p with
  | .arr | .row | .dma | .upd | .seqR | .seqT =>
    match o with
    | 0x080 => some (0, 3)
    | 0x084 => some (0, 0xffff)
    | 0x088 => some (0x100, 0x1ff)
    | 0x08c => some (0, 0xffffffff)
    | _ => none
  | .grg =>
    match o with
    | 0x080 => some (0, 0xf)
    | 0x084 => some (0, 0xffff)
    | 0x088 => some (0x10, 0x1f)
    | _ => none
  | .ngl | .hst =>
    match o with
    | 0x080 => some (0, 7)
    | 0x084 => some (0, 0xfffff)
    | 0x088 => some (0xffff, 0xffff)
    | 0x08c => some (0, 0xf)
    | _ => none
  | .hbm =>
    match o with
    | 0x080 => some (0, 7)
    | 0x084 => some (0x64, 0xffff)
    | 0x088 => some (0, 0xffff003f)
    | _ => none
  | _ => none

/-- Scope bit of Table 18.5 that opens the page's test registers. -/
def tstScope : Pg → Option Nat
  | .arr | .row | .dma | .upd | .seqR | .seqT => some 0
  | .grg => some 1
  | .ngl | .hst => some 2
  | .hbm => some 3
  | _ => none

/-- Offset of the ..._DONE register of a page's test registers (Tables 18.6 to 18.9). -/
def tstDone : Pg → Option Nat
  | .arr | .row | .dma | .upd | .seqR | .seqT => some 0x090
  | .grg => some 0x08c
  | .ngl | .hst => some 0x090
  | .hbm => some 0x08c
  | _ => none

/-- Reset value and defined bits of BLK_CTRL. -/
def ctrlReg : Pg → Word × Word
  | .arr => (0, 1)
  | .hbm => (1, 1)
  | .plc => (0x2001, 0xff01)
  | .ngl => (0, 3)
  | .hst => (1, 3)
  | .thm => (0, 1)
  | _ => (0, 0)

/-- Reset value and writable bits of the block-specific RW registers of the home chapters. -/
def blkReg (p : Pg) (o : Nat) : Option (Word × Word) :=
  match p with
  | .msc => match o with
    | 0x100 => some (0xe, 0x1f)
    | _ => none
  | .hbm => match o with
    | 0x100 => some (0x1744, 0xffff)
    | 0x104 => some (0xfa, 0xffff)
    | 0x10c => some (0, 0x1f7f03)
    | _ => none
  | .seqR => match o with
    | 0x114 => some (0x1f40, 0xffff)
    | 0x118 => some (0x3d09, 0xfffff)
    | _ => none
  | .cfl => match o with
    | 0x100 => some (0, 0x3f)
    | 0x108 => some (0, 0xff)
    | 0x110 | 0x114 | 0x118 | 0x11c => some (0x64, 0xffff)
    | _ => none
  | .ngl => match o with
    | 0x100 | 0x104 => some (0, 0xffffffff)
    | 0x108 => some (0, 0xf)
    | 0x118 => some (0xfaaa5555, 0xffffffff)
    | 0x11c => some (0x7620, 0x3ffff)
    | _ => none
  | .hst => match o with
    | 0x100 | 0x104 | 0x108 | 0x10c | 0x110 | 0x114 | 0x118 | 0x11c => some (0, 0xffffffff)
    | 0x120 => some (0x36000, 0x77fff)
    | 0x124 => some (0xcdfa, 0xffff)
    | 0x128 => some (0xc8, 0xffff)
    | 0x12c => some (0x7d0, 0xffff)
    | 0x130 => some (0, 0xffffff)
    | 0x134 => some (0x20ffff, 0xffffffff)
    | 0x180 => some (0x7fffe, 0x7fffe)
    | _ => none
  | .pwrT => match o with
    | 0x108 => some (0x28, 0x3ff)
    | 0x10c => some (0x1388, 0x3fff)
    | 0x110 => some (0x32, 0x3ff)
    | 0x114 => some (8, 0xf)
    | _ => none
  | .thm => match o with
    | 0x100 => some (0xfa0, 0xfff)
    | 0x114 => some (0x2ee0, 0xfffff)
    | 0x118 => some (0x5c, 0x7f)
    | 0x11c => some (0x3e8, 0xffff)
    | 0x120 => some (0x1388, 0xffff)
    | 0x124 => some (0xc8, 0x3ff)
    | 0x128 => some (0xa, 0xfff)
    | _ => none
  | _ => none

/-- The registers that are written and not read (WO). -/
def woReg (p : Pg) (o : Nat) : Bool :=
  match p, o with
  | .hbm, 0x110 => true
  | .seqR, 0x130 => true
  | .ngl, 0x120 => true
  | .hst, 0x188 => true
  | _, _ => false

/-- Reset values of read-only registers that are held as such and do not reset to zero. -/
def roReset (p : Pg) (o : Nat) : Word :=
  match p, o with
  | .thm, 0x104 => 0xfa0
  | .thm, 0x108 => 0xffff
  | .thm, 0x10c => 0xffff
  | .thm, 0x110 => 0x2ee0
  | .thm, 0x13c => 0x640
  | .thm, 0x14c => 0x10
  | .mbx, 0x124 => 1
  | _, _ => 0

/-- What an offset of the control window holds at reset, and reads as while nothing has written it. -/
def regReset (off : Nat) : Word :=
  match pageOf off with
  | none => 0
  | some (p, _) =>
    let o := off % 0x1000
    if o = 8 then (ctrlReg p).1
    else match blkReg p o with
      | some r => r.1
      | none => match tstReg p o with
        | some r => r.1
        | none => roReset p o

/-- What a live counter restarts at: zero, or all ones for the smallest value of R399 (TEL_CNT_PIN_MIN_W). -/
def ctrReset (off : Nat) : DWord := if off = 0xb30c28 then 0xffffffffffffffff else 0

end Sys2Proof.Machine
end

