-- ==== Sys2Proof/Machine/State.lean ====
section
/-! DEFINITION. The state of the device as plain data, what a step can stop with, and the state after
reset. -/

namespace Sys2Proof.Machine

/-! ### Arrays (chapters "Compute arrays and cells", "The backward pass", "Gather rings and tile DMA") -/

/-- State of an array (Table 2.11, BLK_STAT STATE). -/
inductive ArrSt where
  | off | retention | idle | running | atWeir | dark | excluded
deriving DecidableEq, Repr

/-- What an array remembers of the latest LDP into a PLANE (R481): the plane format, the outlier slot, and
that the image had an error (R42). -/
structure PlaneInfo where
  fmt : Nat := 0
  oslot : Nat := 0
  nan : Bool := false
deriving DecidableEq, Repr

/-- State of a gather-ring slot (R175). -/
inductive SlotSt where
  | free | filling | full
deriving DecidableEq, Repr

/-- A DMA descriptor as a sequencer holds it: engine, list index and fields. -/
structure DmaRef where
  eng : Nat := 0
  idx : Nat := 0
  /-- Its number on the engine, once issued, and the ISSUE of the step that named it. -/
  n : Nat := 0
  no : Nat := 0
  d : DmaDesc := {}
deriving DecidableEq, Repr

/-- A gather ring: its record (Table 7.1), the state of R175 and its fill queue (R177). -/
structure Ring where
  en : Bool := false
  slots : Nat := 0
  uses : Nat := 0
  base : Nat := 0
  slotRows : Nat := 0
  rowWords : Nat := 0
  head : Nat := 0
  tail : Nat := 0
  rpos : Nat := 0
  ucnt : Nat := 0
  st : List SlotSt := []
  /-- Fills not issued yet, in program order. -/
  queue : List DmaRef := []
  /-- For each FILLING slot, the fill that holds it. -/
  fills : List (Nat × DmaRef) := []
  /-- The limit of a test holds the queue's first fill, which has been counted (R474). -/
  held : Bool := false
deriving DecidableEq, Repr

/-- A row descriptor with the opcode it was stored under. -/
structure RowOp where
  op : Nat := 0
  d : RowDesc := {}
deriving DecidableEq, Repr

/-- An array instruction with its opcode (Table 2.8). -/
structure ArrOp where
  op : Nat := 0
  i : ArrInst := {}
deriving DecidableEq, Repr

/-- One array: the stores of Table 2.1, the row engine's side memory (Table 6.7) and its control state. -/
structure Arr where
  st : ArrSt := .off
  /-- Cell store: 512 bits of cell (k, n) at key k * 96 + n (R39). -/
  cells : AMap (BitVec 512) := []
  /-- Scale store and wide flags: two-bit plane position * 288 + block (Table 2.1). -/
  scales : AMap Byte := []
  wides : AMap Bool := []
  planes : AMap PlaneInfo := []
  /-- Outlier slots, 64 of up to 576 entries (R42). -/
  oslots : AMap (List Word) := []
  /-- Accumulator (row, column) at row * 96 + column (R49). -/
  acc : AMap F32 := []
  /-- Local store, 4 MiB (R51). -/
  ls : AMap Byte := []
  /-- Statistics entries of the side memory (R159). -/
  stats : AMap DWord := []
  bufA : List F32 := []
  bufB : List F32 := []
  /-- Instruction store: the assembled array program and row program (R55, R160). -/
  prog : List ArrOp := []
  rprog : List RowOp := []
  pc : Nat := 0
  /-- Rows of the instruction at `pc` already streamed, while it waits for a ring slot (R176). -/
  mrow : Nat := 0
  waitRing : Option Nat := none
  lctr : List Nat := [0, 0, 0, 0]
  rings : List Ring := [{}, {}, {}, {}]
  /-- Slot s within the tile, when the array holds one (R65). -/
  slot : Option Nat := none
  /-- Weir at which the array waits (R60). -/
  weir : Option Nat := none
  eddy : Nat := 0
  /-- The set of dummy operands for eddy work (Table 2.1); no rule gives its width or reads it by value. -/
  eddyRegs : DWord := 0
  /-- Products issued since the array received its supply, eddy work excluded (R246). -/
  products : Nat := 0
  darkStep : Word := 0
  excl : Bool := false
  /-- Released, and waiting for its group of R248. -/
  rel : Bool := false
  /-- First NaN run of the step seen (R46, R449). -/
  nanSeen : Bool := false
  dpc : Nat := 0
  statHigh : Nat := 0
  /-- First NaN row of the step: descriptor and row (R166). -/
  nanRow : Option (Nat × Nat) := none
deriving DecidableEq, Repr

/-! ### Tensors, HBM and placement -/

/-- One page of a tensor: its stack, its physical page index and, for STATE, the page of the working
version (R213). -/
structure Page where
  stack : Nat := 0
  idx : Nat := 0
  widx : Nat := 0
  /-- The stack whose update unit writes the page, where that is still the one before a migration (R205). -/
  unit : Option Nat := none
deriving DecidableEq, Repr

/-- A tensor of the tensor table (R199, R200). -/
structure Tensor where
  size : Nat := 0
  cls : Nat := 0
  pages : List Page := []
deriving DecidableEq, Repr

/-- A host read of STATE in progress or a READ/WRITE (R215, R343), named by its queue. -/
structure Fence where
  q : Nat := 0
  handle : Nat := 0
  /-- The commit count at which the read became active. -/
  commits : Nat := 0
  /-- Scale records of the tensor have been written at a release since (R102). -/
  released : Bool := false
deriving DecidableEq, Repr

/-- A logical row that has failed (R219 to R222): failure count and spare in use (pool 1 primary, 2 cullet). -/
structure RowFail where
  count : Nat := 0
  pool : Nat := 0
  spare : Nat := 0
  /-- Corrected errors read from the row in the current scrub period (R219). -/
  ce : Nat := 0
deriving DecidableEq, Repr

/-- Training state of a stack's controller (Table 8.9, BLK_STAT STATE). -/
inductive HbmSt where
  | untrained | training | operating | margining | selfRefresh
deriving DecidableEq, Repr

/-- One stack's controller. -/
structure Hbm where
  st : HbmSt := .untrained
  /-- Pseudo-channel * 2^32 + bank * 2^24 + row → failures. -/
  rows : AMap RowFail := []
  /-- Spares taken from the primary and the cullet pool of each pseudo-channel. -/
  prim : AMap (List Nat) := []
  cull : AMap (List Nat) := []
  marginErr : Nat := 0
  marginDone : Bool := false
deriving DecidableEq, Repr

/-- A migration (R204): tensor page and version, destination page, and that the old page retires. -/
structure Mig where
  handle : Nat := 0
  page : Nat := 0
  ver : Bool := false
  dstStack : Nat := 0
  dst : Nat := 0
  /-- The page for the other version, when a STATE page changes stack (R203). -/
  dst2 : Option Nat := none
  retire : Bool := false
  /-- The log payload of the failed row, for a retirement (Table 18.4). -/
  row : List Byte := []
  /-- The other version's old page retires too, with its payload. -/
  retire2 : Bool := false
  row2 : List Byte := []
deriving DecidableEq, Repr

/-- A slice of the memory-side cache (R206, R209): for each set its lines, most recently used first, with their number and
that they are dirty; and the class policy in force. -/
structure Slice where
  sets : AMap (List (Nat × Bool)) := []
  policy : Word := 0xe
deriving DecidableEq, Repr

/-- A command in progress: its queue and its 64 bytes. -/
structure CmdRef where
  q : Nat := 0
  w : Cmd := 0
deriving DecidableEq, Repr

/-- Tensor memory and placement. Keys of the byte maps are handle * 2^40 + offset. -/
structure Mem where
  tensors : AMap (Option Tensor) := []
  /-- Committed versions of STATE tensors and the one version of the others. -/
  bytes : AMap Byte := []
  /-- Working versions of STATE tensors (R213). -/
  work : AMap Byte := []
  /-- Poison markers of 32 bytes, at key / 32, of each version: bit b is set while byte b has not been written since
  the marker was set, and the marker persists until all 32 bytes are written (R224). -/
  poison : AMap Word := []
  wpoison : AMap Word := []
  /-- STATE pages written in the step, at handle * 2^20 + page (R214). -/
  written : AMap Bool := []
  /-- STATE pages whose versions swapped at the latest commit: the version before it lies in `work`. -/
  swapped : AMap Bool := []
  /-- Physical pages allocated or retired, at stack * 2^16 + page. -/
  used : AMap Bool := []
  /-- Pages retired over the module's life, at stack * 2^16 + page. -/
  retired : AMap Bool := []
  lastRetire : Nat × Nat := (0, 0)
  /-- Migrations under way. -/
  migs : List Mig := []
  /-- Migrations that found no free page and start again once pages are freed (R205). -/
  migWait : List Mig := []
  exhausted : Bool := false
  fences : List Fence := []
  /-- Handles freed while a host access was in progress (R201). -/
  lateFree : List (Nat × CmdRef) := []
  hbm : List Hbm := []
  commits : Nat := 0
  /-- STATE tensors that the host has written since the latest START or RESUME (R101). -/
  restored : List Nat := []
  /-- A read of the step by a unit other than a DMA engine met poison (R224). -/
  memPoison : Bool := false
deriving DecidableEq, Repr

/-! ### Program and sequencers -/

/-- The loaded program: the image's place and the header fields of Table 9.2. -/
structure Prog where
  handle : Nat := 0
  off : Nat := 0
  len : Nat := 0
  shape : Nat := 0
  reach : Nat := 0
  layers : Nat := 0
  weirs : Nat := 0
  seed : DWord := 0
  stepLimit : Nat := 0
  runRec : Nat := 0
  layerRec : Nat := 0
  wideRes : Nat := 0
  scaleRec : Nat := 0
  /-- Layers with FROZEN = 1 when the program was loaded (R154). -/
  frozen : List Nat := []
  /-- Every handle that the program names (R231). -/
  handles : List Nat := []
  layerOff : Nat := 0
  weirOff : Nat := 0
  rootOff : Nat := 0
  tileOff : List Nat := []
deriving DecidableEq, Repr

/-- The states of Table 9.12. -/
inductive DevSt where
  | off | standby | ready | loaded | running | paused | halted | safe
deriving DecidableEq, Repr

/-- How the latest halt left the step (Table 9.15). -/
inductive HaltKind where
  | discarded | linkDown | kept | boundary4 | boundary7 | power7 | dead | clocks
deriving DecidableEq, Repr

/-- The wait a stream stands in (R239): opcode, NAME, A and B. -/
structure Wait where
  op : Nat := 0
  name : Nat := 0
  a : Word := 0
  b : Word := 0
deriving DecidableEq, Repr

/-- One stream (R239): next instruction, and the wait it stands in. -/
structure Stream where
  spc : Nat := 0
  wait : Option Wait := none
  ended : Bool := false
deriving DecidableEq, Repr

/-- A range of an issue queue (R239): first index, count and the layer whose wide variant issued it. -/
structure Range where
  first : Nat := 0
  count : Nat := 0
  wide : Option Nat := none
  /-- Descriptors between the first and the last that went to fill queues of gather rings. -/
  fills : List Nat := []
  /-- The ISSUE of the step that named it. -/
  no : Nat := 0
deriving DecidableEq, Repr

/-- A closing record received (R301). -/
structure PeerRec where
  dev : Nat := 0
  weir : Nat := 0
  k : Nat := 0
  trig : List (BitVec 3) := []
  noCommit : Bool := false
deriving DecidableEq, Repr

/-- A norm monitor's live part (R134): the 320-bit sum in units of 2^-149 and the flags. -/
structure Monitor where
  sum : BitVec 320 := 0
  nan : Bool := false
  inf : Bool := false
  seen : Bool := false
deriving DecidableEq, Repr

/-- What the root sequencer holds on chip for a scale record in the step (R480, R242). -/
structure ScaleRun where
  amax : F32 := 0
  used : Bool := false
  cold : Bool := false
  /-- Cold, and a probe pass or conversion of the step named it (R109). -/
  coldUsed : Bool := false
  /-- Probe ends received (R242). -/
  ends : Nat := 0
  /-- K set in a cold step, and its value. -/
  kReady : Bool := false
  k : Int := 0
deriving DecidableEq, Repr

/-- What the projections and triggers of the running step gave for a layer (R126, R131, R136). -/
structure LayerRun where
  wideMax : Nat := 0
  wide : Nat := 0
  spill : Nat := 0
  invalid : Nat := 0
  nonfinite : Bool := false
  fmtEvent : Bool := false
  projected : Bool := false
  /-- The latest projection of the forward copy raised FMT_EVENT (R139). -/
  lastFmt : Bool := false
  efSet : Bool := false
  efClear : Bool := false
deriving DecidableEq, Repr

/-- An overlay slot (R436): the image's MODE and entries, and the pending application: its order, STEP and
command. -/
structure Overlay where
  mode : Nat := 0
  bytes : List Byte := []
  entries : List (Nat × Word) := []
deriving DecidableEq, Repr

/-- A pending APPLY: slot, STEP and the command to complete. -/
structure Apply where
  slot : Nat := 0
  step : Nat := 0
  cmd : CmdRef := {}
deriving DecidableEq, Repr

/-- What the device still has to do before a command of long duration completes: arrays on their lehr
ramps stand between its acceptance and its completion (R427, R430, Table 1.10 action 7). -/
inductive Ramp where
  /-- WAKE: waiting for HBM training (phase 1) or for the ramps (phase 2). -/
  | wakeTrain (c : CmdRef)
  | wakeRamp (c : CmdRef)
  /-- START or RESUME, waiting for the ramps of action 7 before the release. -/
  | release (c : CmdRef)
  /-- A step boundary, waiting for the ramps of action 7. -/
  | boundary
  /-- A step boundary that found STEPS at zero: STEPS_DONE follows (Table 1.10). -/
  | pausing
  /-- A run reset. -/
  | runReset
deriving DecidableEq, Repr

/-- The sequencers. -/
structure Seq where
  dev : DevSt := .standby
  prog : Option Prog := none
  stepsLeft : Nat := 0
  haltStatus : Half := 0
  haltAction : Nat := 0
  halt : Option HaltKind := none
  /-- The state SAFE was entered from (Table 9.12). -/
  safeFrom : DevSt := .standby
  /-- PAUSE commands that wait for a boundary, and RESUMEs that wait behind one (R253, R257). -/
  pause : List CmdRef := []
  /-- The latest halt was one of action 4: the next release repeats the reserve check (R140). -/
  reserveOwed : Bool := false
  ramp : Option Ramp := none
  /-- Action of Table 1.10 that a boundary is in, 0 outside one, and the combined triggers of its close. -/
  act : Nat := 0
  lastTrig : List (BitVec 3) := []
  reject : Word := 0
  rejectSeen : Bool := false
  resetCause : Nat := 0
  cfgBase : Nat := 1
  mode : Nat := 0
  /-- Image in force (R433), applied again by a run reset. -/
  baseImage : List (Nat × Word) := []
  overlays : AMap (Option Overlay) := []
  applies : List Apply := []
  /-- Host event posts at step * 32 + counter (R257), and event counters 32 to 63 (R240). -/
  hostEv : AMap Nat := []
  ev : AMap Nat := []
  /-- Completion counter c of tile t at t * 256 + c. -/
  cid : AMap Nat := []
  streams : List Stream := [{}, {}, {}, {}, {}]
  /-- Issue queue of unit code u of tile t at t * 64 + u; the root's units at 256 + u. -/
  issueQ : AMap (List Range) := []
  /-- ISSUE instructions run in the step, and descriptors issued and completed in it (R243). -/
  issueNo : Nat := 0
  issued : Nat := 0
  done : Nat := 0
  /-- Closings of weir w in the step, this device's parts, and arrivals at w * 1024 + participant (slots 0 to
  735, streams from 736). -/
  closed : AMap Nat := []
  parts : AMap Nat := []
  arrived : AMap Nat := []
  /-- Closings of reach weir w received from device m, at w * 64 + m, and triggers with NO_COMMIT. -/
  peerClosed : AMap Nat := []
  peerTrig : AMap (List (BitVec 3)) := []
  peerNoCommit : Bool := false
  /-- Records that a device has sent after its record of weir 0, for the step after this one. -/
  peerLater : List PeerRec := []
  monitors : AMap Monitor := []
  scales : AMap ScaleRun := []
  layers : AMap LayerRun := []
  /-- P_r of each scale record, counted at load (R242). -/
  probeCnt : AMap Nat := []
  /-- PROBE descriptors that wait for K, and whether their end has been reported (R242). -/
  probes : List (DmaRef × Bool) := []
  /-- Scale-record writes accepted in RUNNING: offset and bytes, taken at the next release (R102). -/
  scaleWrites : List (Nat × List Byte) := []
  /-- A poisoned DMA read of the step (R192). -/
  dmaPoison : Bool := false
  /-- Causes of the step that close its weir without commit: TOUCH_RANGE, TOUCH_ORDER (R281) and
  DISPATCH_RANGE (R310). -/
  touchRange : Bool := false
  touchOrder : Bool := false
  dispatchErr : Bool := false
  /-- Events that set an interrupt bit once a step, at page offset * 32 + bit (R449). -/
  once : List Nat := []
  /-- Layers whose latest projection raised FMT_EVENT (R139). -/
  projFmt : AMap Bool := []
  /-- Layers that run their wide variant in the step, with their reserve bases, as the boundary set them (R141). -/
  wide : List (Nat × Nat) := []
deriving DecidableEq, Repr

/-! ### Fused update units (chapter "The parameter update") -/

/-- One fused update unit (Tables 10.8, 10.9). -/
structure Upd where
  /-- List index and CID of the descriptor in progress as lead. -/
  active : Option (Nat × Nat) := none
  /-- The descriptor that waits at a fence, with its opcode (R278). -/
  waiting : Option (Nat × UpdDesc) := none
  lastNorm : F32 := 0
  lastClip : F32 := 0
  touchErr : Option Nat := none
  touchN : Nat := 0
deriving DecidableEq, Repr

/-! ### Peer ports and the confluence engine (chapter "Nguma peer links and collectives") -/

/-- Port states (Table 11.2). -/
inductive PortSt where
  | down | training | ident | up | held | failed | retrain
deriving DecidableEq, Repr

/-- What a flit carries (Table 11.3, KIND); `cont` is a further flit of the record before it. -/
inductive FlitBody where
  | data (idx : Nat) (sLow : Word) (off : Nat) (shard f32 : Bool) (payload : List Byte)
  | ident (r : IdentRec)
  | closing (weir k : Nat) (triggers : List (BitVec 3)) (noCommit : Bool)
  | decision (idx : Nat) (map : DWord) (policy : Nat)
  | marker (idx : Nat)
  | notice (origin : Nat) (status : Half) (hold : Bool)
  | cont
deriving DecidableEq, Repr

/-- A flit on its way out: class, final receiver, originator and content. -/
structure OutFlit where
  tc : Nat := 0
  dest : Nat := 0
  src : Nat := 0
  body : FlitBody := .cont
deriving DecidableEq, Repr

/-- One peer port: link layer and identity (R289 to R298). -/
structure Port where
  st : PortSt := .down
  /-- Failed attempts of the present training. -/
  attempts : Nat := 0
  pmd : Nat := 0
  txSeq : Half := 0
  /-- Flits that wait for the link or for credit, and flits sent and not acknowledged. -/
  txq : List OutFlit := []
  unacked : List (Half × OutFlit) := []
  rxSeq : Half := 0
  /-- Credits held per class (R293). -/
  credit : List Nat := [0, 0, 0, 0]
  /-- The neighbour's latest record, and MISMATCH (Table 11.15). -/
  nbr : Option IdentRec := none
  mismatch : Nat := 0
  /-- S of the latest identity record that the port was given to send (R296). -/
  sentS : DWord := 0
  /-- DRAIN descriptors in progress: list index, EV, and the flits that each still waits for (R317). -/
  drains : List (Nat × Nat × List OutFlit) := []
  /-- Flits received under TST_LINK_CTRL NAK_EN since the latest one refused (R475). -/
  tst : Nat := 0
deriving DecidableEq, Repr

/-- A piece of an item received: originator, descriptor index, low half of S, offset and bytes. -/
structure Piece where
  src : Nat := 0
  idx : Nat := 0
  sLow : Word := 0
  off : Nat := 0
  shard : Bool := false
  f32 : Bool := false
  bytes : List Byte := []
deriving DecidableEq, Repr

/-- A tree of R88 in progress: the leaves that it has taken, and the operands written to the scratch region, each by its
first leaf (R307). -/
structure OpTree where
  taken : List Nat := []
  spilled : List Nat := []
deriving DecidableEq, Repr

/-- A confluence descriptor in progress (R304). -/
structure CflOp where
  op : Nat := 0
  idx : Nat := 0
  d : CflDesc := {}
  sLow : Word := 0
  policy : Nat := 0
  /-- REDUCE: this device's own part as coded, that it is in the F32 form (R320), and the new contents of E_H and D_H when
  not late or late. -/
  own : List Byte := []
  wide : Bool := false
  eNew : List Byte := []
  xF32 : List Byte := []
  /-- The decision in force (R319): the late map. -/
  late : Option DWord := none
  markers : List Nat := []
  /-- This device's marker has not left: parts of it still wait in a port (R319). -/
  owes : Bool := false
  windowOpen : Bool := false
  /-- The tree over the devices' parts, and the one over the reaches' results (R307, R350). -/
  tree : OpTree := {}
  basin : OpTree := {}
  /-- The combined result of this device's shard, and that it waits for basin parts (R350). -/
  sum : Option (List F32) := none
  final : Bool := false
  /-- Devices whose shard, lines or rows have been written here. -/
  wrote : List Nat := []
  buffers : Bool := false
  ready : Bool := false
deriving DecidableEq, Repr

/-- A basin part received: table position, RID, shard, first block and bytes (R352). -/
structure BasinPart where
  pos : Nat := 0
  rid : Nat := 0
  shard : Nat := 0
  first : Nat := 0
  bytes : List Byte := []
  /-- Staging could not hold it (R307). -/
  spilled : Bool := false
deriving DecidableEq, Repr

/-- The confluence engine and reach coordination. -/
structure Cfl where
  ops : List CflOp := []
  inbox : List Piece := []
  basinIn : List BasinPart := []
  /-- Markers received before the leader's own descriptor started: device and descriptor. -/
  earlyMarkers : List (Nat × Nat) := []
  /-- Decisions received before this device's descriptor started: descriptor, late map and policy (R319). -/
  earlyDecisions : List (Nat × DWord × Nat) := []
  /-- Descriptors completed in the step; their late markers say nothing any more. -/
  doneIdx : List Nat := []
  /-- The four norm groups (R309). -/
  groups : List Monitor := [{}, {}, {}, {}]
  policyNow : Word := 0
  ledgerH : Nat := 0
  ledgerMode : Nat := 0
  /-- Entries of the step not yet written: RID, device and policy (R322). -/
  ledgerNew : List (Nat × Nat × Nat) := []
  lateMap : DWord := 0
  err : Option Nat := none
  peer : Word := 0
  /-- Origins whose notice has been forwarded. -/
  forwarded : List (Nat × Half) := []
deriving DecidableEq, Repr

/-! ### DMA engines -/

/-- A descriptor in progress on an engine: list index, CID and, for a ring fill, array, ring and slot. -/
structure DmaBusy where
  idx : Nat := 0
  /-- How many descriptors the engine was issued before it in the step, and the ISSUE that named it. -/
  n : Nat := 0
  no : Nat := 0
  cid : Nat := 255
  fill : Option (Nat × Nat × Nat) := none
  /-- A fill that the sequencer has issued and the engine has not started (R177, R190). -/
  waits : Bool := false
  /-- The descriptor has read uncorrectable data (R192). -/
  poison : Bool := false
  /-- What its plain writes replaced: place and bytes of each row (R190 rule 5). -/
  olds : List (Nat × List Byte) := []
deriving DecidableEq, Repr

/-- One DMA engine (R186, Table 7.11). -/
structure Dma where
  busy : List DmaBusy := []
  issued : Nat := 0
  done : Nat := 0
  poison : Option Nat := none
  last : Nat := 255
deriving DecidableEq, Repr

/-! ### Registers, interrupts and the log -/

/-- A holding register (R10, R452): the offset of the low half and the high half captured. -/
structure Hold where
  off : Nat := 0
  val : Word := 0
deriving DecidableEq, Repr

/-- An entry of the persistent log (Table 18.3); the CRC is formed when the entry is read out. -/
structure LogEnt where
  seq : Nat := 0
  kind : Nat := 0
  flags : Nat := 0
  count : Nat := 0
  source : Word := 0
  status : Half := 0
  boot : Nat := 0
  ms : Nat := 0
  s : DWord := 0
  payload : List Byte := []
deriving DecidableEq, Repr

/-- The persistent log (R464 to R470): both regions, oldest first, and entries kept on chip (R223). -/
structure Log where
  records : List LogEnt := []
  events : List LogEnt := []
  kept : List LogEnt := []
  /-- Event entries that the error-logging task has still to write, oldest first (R400, R465). -/
  todo : List LogEnt := []
  next : Nat := 1
  boot : Nat := 0
deriving DecidableEq, Repr

/-- What is fixed in a unit (R27, R417, R418): which stacks and ports are fitted, -F or -C, and what the
identity record and the SRAM PUF hold. -/
structure Fitted where
  full : Bool := true
  hbmFitted : List Nat := [0, 1, 2, 3, 4, 5, 6, 7, 8, 9, 10, 11]
  badArrays : List Nat := []
  /-- The cache set of a line, where it is not the low bits of the line's number (R206). -/
  cacheSets : AMap Nat := []
  /-- The data rows of one bank of a pseudo-channel (Table 8.1). -/
  bankRows : Nat := 24576
  /-- Bank of spare i of the primary and of the cullet pool, and bank group of bank b, where they are not i, i and b / 4
  (R220, R221). -/
  primBanks : AMap Nat := []
  cullBanks : AMap Nat := []
  bankGroups : AMap Nat := []
  /-- MAC address, byte 0 first, serial number and day of manufacture (Table 15.9). -/
  mac : List Byte := [0, 0, 0, 0, 0, 0]
  serial : List Byte := List.replicate 24 0
  mfgDay : Word := 0
  /-- VCURVE of the arrays whose curve lies below Table 13.3: six codes each, (mV - 400) / 5. -/
  vcurve : AMap (List Nat) := []
  /-- The corrected PUF output, the bits that had to be corrected, and that they could be. -/
  puf : List Byte := List.replicate 32 0
  pufErr : Nat := 0
  pufOk : Bool := true
  /-- SEQ of the record entries of the persistent log that verify in neither copy of the flash (R470). -/
  logBad : List Nat := []
  /-- The identity record's signature verifies, and what the record holds as MODULE_ID and DEV_PUB where that is not
  what the PUF gives. -/
  idSigOk : Bool := true
  idOther : Option (DWord × List Byte) := none
deriving DecidableEq, Repr

/-! ### Power delivery (chapter "Power delivery") -/

/-- One array regulator and the clock limits of its domain (Tables 13.4 and 13.13, R381). -/
structure Regu where
  /-- Own phases that failed. -/
  fail : BitVec 6 := 0
  ctrlFail : Bool := false
  lendM : Bool := false
  lendP : Bool := false
  borM : Bool := false
  borP : Bool := false
  /-- The array that carries this domain, and the array that this regulator carries (R366). -/
  tiedTo : Option Nat := none
  hosts : Option Nat := none
  exclReq : Bool := false
  /-- Lehr stage in progress, 1 to 5 (Table 13.6). -/
  ramp : Option Nat := none
  /-- Regulator ceiling in MHz (R364, R366) and the boost above 1600 MHz (R383). -/
  ceil : Nat := 1850
  boost : Nat := 0
  /-- PWR_HEADROOM, PWR_NBR_LIMIT and PWR_CREDIT_MAX as the credit request took them (R370, R376). -/
  headroom : Nat := 40
  nbrLimit : Nat := 5000
  creditMax : Nat := 8
deriving DecidableEq, Repr

/-- One vertical stage with the ceilings of its tile (R359, R381). -/
structure Stage where
  fail : BitVec 16 := 0
  fault : Bool := false
  junc : Nat := 1850
  rail : Nat := 1850
deriving DecidableEq, Repr

/-- PEU codes of the module page (Table 13.11). -/
inductive Peu where
  | off | preCharge | softStart | running | rideThrough
deriving DecidableEq, Repr

/-- Power entry unit, stages and regulators. -/
structure Pwr where
  peu : Peu := .running
  /-- Power-enable is asserted; a trip is latched; the PEU stopped on undervoltage (R355, R394). -/
  enable : Bool := true
  latched : Bool := false
  under : Bool := false
  inLow : Bool := false
  inHigh : Bool := false
  lastOff : Nat := 0
  reg : AMap Regu := []
  stage : AMap Stage := []
deriving DecidableEq, Repr

/-! ### Power and thermal controller (chapter "Power capping and thermal control") -/

/-- The controller's state beside the registers of the THM_ page. -/
structure Thm where
  /-- Driver cap and mode in force (R378, R382). -/
  capDrv : Nat := 4000
  fixedNow : Bool := false
  /-- The estimate of R390, exact, in degrees per watt. -/
  theta : Rat := 12 / 1000
  /-- A reading has moved the estimate since power-up, and the inlet the controller acts on, in 0.1 °C. -/
  moved : Bool := false
  inlet : Int := 0
  /-- A hub sensor holds F_cap down (R381). -/
  hubHot : Bool := false
  /-- F_cap has been lowered by the cap, or by the hub's junctions, and has not returned to the mode limit since (R387). -/
  capLow : Bool := false
  hubLow : Bool := false
  /-- The tile of the latest decrement that R385 admitted. -/
  eddyTile : Nat := 3
  cause : Nat := 0
  faultIn : Bool := false
  faultOut : Bool := false
  faultFlow : Bool := false
  /-- Energy below one millijoule, in microjoules, and eddy energy below one microjoule, in 1 / 512000 of it. -/
  energyRem : Nat := 0
  eddyRem : Nat := 0
deriving DecidableEq, Repr

/-! ### Management processor and security engine -/

/-- What a measurement was extended with (Table 15.10). -/
inductive MeasItem where
  | bootRom
  | identity
  | item (bytes : List Byte)
deriving DecidableEq, Repr

/-- A mailbox channel (R404 to R407). -/
structure Chan where
  /-- 0 empty, 1 assembling, 2 in service (MBX_CH). -/
  inb : Nat := 0
  op : Nat := 0
  tag : Half := 0
  total : Nat := 0
  chunks : Nat := 0
  buf : List Byte := []
  /-- Response messages not yet sent, and that one awaits its acknowledgement. -/
  out : List (List Byte) := []
  outWait : Bool := false
  /-- The chunk that awaits it belongs to a response that a restart of the MP cut off (R403). -/
  stale : Bool := false
  /-- The response refuses the request in the slot before any command ran, with this status: a restarted MP gives it again. -/
  refused : Option Half := none
  /-- The request waits for the log's compaction, which runs ahead of the slot write that it asks for (R469). -/
  waits : Bool := false
deriving DecidableEq, Repr

/-- A firmware slot: the image and the result of the signature check (R414). -/
structure FwSlot where
  image : List Byte := []
  sigOk : Bool := false
  version : Nat := 0
  minAfter : Nat := 0
deriving DecidableEq, Repr

/-- The management processor, the mailboxes and what the module flash holds beside the log. -/
structure Mgmt where
  /-- MP: not started, running or overloaded. -/
  started : Bool := true
  overloaded : Bool := false
  util : Nat := 0
  /-- Consecutive windows with U at or below 50 %. -/
  low : Nat := 0
  /-- SEQ of the log at the end of the latest window (R402). -/
  winSeq : Nat := 1
  /-- Telemetry samples, oldest first, and the index of the first (Table 15.5). -/
  ring : List (List Byte) := []
  ringBase : Nat := 0
  chans : AMap Chan := []
  /-- Firmware slots A and B, the slot that runs, the pending slot and FALLBACK. -/
  fw : List FwSlot := [{ sigOk := true, version := 1 }, {}]
  slot : Nat := 0
  pendSlot : Option Nat := none
  fallback : Bool := false
  /-- MIN_VER as its flash record reads, and that the signature of this record fails, in which case it reads 0 (R414). -/
  minVer : Nat := 0
  minBad : Bool := false
  /-- Operator key and stored counter (R411). -/
  opkey : Option (List Byte) := none
  counter : DWord := 0
  idFault : Bool := false
  /-- Measurements 0 to 7: what each has been extended with since power-up, oldest first (R419). -/
  meas : List (List MeasItem) :=
    [[.bootRom], [.item []], [.identity], [.item (List.replicate 64 0)], [.item (List.replicate 64 0)], [], [], []]
  /-- Stored base image with the result of its digest check (R433, R434). -/
  stored : Option (List Byte) := none
deriving DecidableEq, Repr

/-! ### The whole device -/

/-! ### Host transport (chapter "Host Ethernet port and control transport") -/

/-- Link state of the host port (R329). -/
inductive HLink where
  | down | training | up | retrain
deriving DecidableEq, Repr

/-- A completion entry (Table 12.5); HEAD is the queue's when the entry is written. -/
structure Cpl where
  tag : Half := 0
  q : Nat := 0
  op : Byte := 0
  status : Half := 0
  head : Half := 0
  result : DWord := 0
deriving DecidableEq, Repr

/-- The frames that carry a SEQ and leave the device (Table 12.4). -/
inductive Frame where
  | completion (es : List Cpl)
  | grant (q : Nat) (tag : Half)
  | data (q : Nat) (tag : Half) (entry off : Nat) (bytes : List Byte)
  | regResp (id : Half) (ops : List (Word × Half))
  | mailbox (ch : Nat) (msg : List Byte)
  /-- Page offset and INT_STAT of each entry (R346). -/
  | interrupt (es : List (Nat × Word))
  | basin (ts : BasinTs) (bytes : List Byte)
deriving DecidableEq, Repr

/-- An ICMPv6 message that waits for its priority, and an Echo Reply that waits for its address too (R330, R332). -/
inductive NdMsg where
  | advert (target : BitVec 128)
  | solicit (addr : BitVec 128)
  | echo (dst : BitVec 128) (payload : List Byte)
deriving DecidableEq, Repr

/-- A frame sent and not acknowledged, with its resends (R336, R337). -/
structure TxFrame where
  seq : Word := 0
  f : Frame
  resends : Nat := 0
deriving DecidableEq, Repr

/-- One direction pair of HCT delivery (R336). -/
structure Peer where
  /-- SEQ of the next frame sent, and frames waiting for the window, the link or the neighbour cache. -/
  txSeq : Word := 1
  txq : List Frame := []
  unacked : List TxFrame := []
  /-- Highest SEQ received in order; the SEQs above it that are held, each with its frame, or with none once the frame
  has been passed on; and those of frames that wait unacknowledged, with the channel of a MAILBOX frame (R346, R352). -/
  rxSeq : Word := 0
  early : List (Word × Option HctFrame) := []
  refused : List (Word × Option Nat) := []
  /-- Of the SEQs above, the bytes that each frame takes in a receive buffer, and that it is buffered as bulk (R330). -/
  held : List (Word × Bool × Nat) := []
  /-- Frames received since the latest acknowledgement left, and that an ACK waits to leave (R330, R332). -/
  sinceAck : Nat := 0
  ackDue : Bool := false
deriving DecidableEq, Repr

/-- A command queue (R338): HEAD and TAIL run free; slots hold what SQ_WRITE copied. -/
structure Queue where
  head : Nat := 0
  tail : Nat := 0
  slots : AMap Cmd := []
deriving DecidableEq, Repr

/-- One entry of a READ or the one extent of a READ or WRITE. -/
structure Extent where
  h : Nat := 0
  off : Nat := 0
  len : Nat := 0
deriving DecidableEq, Repr

/-- A READ or WRITE in progress (R342, R343). -/
structure Access where
  cmd : CmdRef := {}
  write : Bool := false
  entries : List Extent := []
  /-- READ: entry and offset of the next DATA frame, and that every frame has been queued. -/
  entry : Nat := 0
  off : Nat := 0
  sent : Bool := false
  /-- Status to complete with: OK, MEM_POISON or POWER_FAULT (R224, R360). -/
  st : Half := 0
  /-- WRITE: the chunks received, by chunk number, and those of scale and layer records, kept until all are there. -/
  chunks : List Nat := []
  buf : List (Nat × List Byte) := []
  /-- Bytes moved so far. -/
  moved : Nat := 0
deriving DecidableEq, Repr

/-- The basin table copied at START or RESUME (R349). -/
structure Basin where
  self : Nat := 0
  addrs : List (BitVec 128) := []
  ridx : List Nat := []
  rids : List Nat := []
deriving DecidableEq, Repr

/-- The host port and its transport. -/
structure Hst where
  link : HLink := .down
  /-- Addresses in force: HST_IP and HST_HOST_IP as of the latest entry to UP (R331), and the PMD in use. -/
  ip : BitVec 128 := 0
  hostIp : BitVec 128 := 0
  pmd : Nat := 0
  synced : Bool := false
  unreachable : Bool := false
  /-- UDP port of the host's latest SYNC. -/
  hostPort : Half := 0
  /-- Neighbour cache (R332), and addresses being solicited. -/
  cache : List (BitVec 128 × BitVec 48) := []
  asked : List (BitVec 128) := []
  /-- ICMPv6 messages that wait to leave, oldest first. -/
  nd : List NdMsg := []
  host : Peer := {}
  /-- Basin peers by table position. -/
  peers : AMap Peer := []
  queues : AMap Queue := []
  /-- Queues whose head waits, in the order in which their heads came to the front (R253). -/
  heads : List Nat := []
  access : List Access := []
  /-- Completions gathered (R340), and kept while the host is unreachable (R337). -/
  gather : List Cpl := []
  kept : List Cpl := []
  /-- Priorities paused by received PFC. -/
  paused : List Nat := []
  /-- The receive buffers for which an XOFF is in force, bulk by the flag (R330). -/
  xoff : List Bool := []
  /-- The reply to a SYNC waits to leave (R330, R332). -/
  syncDue : Bool := false
  slot : Nat := 0
  basin : Option Basin := none
  /-- Datagrams received under TST_LINK_CTRL NAK_EN since the latest one refused (R475). -/
  tst : Nat := 0
deriving DecidableEq, Repr

/-- The 802.1Q tag of a frame that leaves (R330). -/
structure EthTag where
  vid : BitVec 12 := 0
  prio : BitVec 3 := 0
deriving DecidableEq, Repr

/-- The header of an HCT datagram that leaves: its tag, its UDP ports, its destination, and the ACK field of Table 12.3. -/
structure TxHdr extends EthTag where
  sport : Half := 0
  dport : Half := 0
  dst : BitVec 128 := 0
  ack : Word := 0
deriving DecidableEq, Repr

/-- A message that leaves the device, in the order sent. -/
inductive Msg where
  /-- An HCT frame with its SEQ. -/
  | hct (peer : HctPeer) (h : TxHdr) (seq : Word) (f : Frame)
  | sync (h : TxHdr)
  | ack (peer : HctPeer) (h : TxHdr) (bitmap : BitVec 64)
  /-- A Neighbour Advertisement, with its hop limit (Table 12.2). -/
  | advert (tag : EthTag) (hop : Byte) (addr : BitVec 128)
  | solicit (tag : EthTag) (addr : BitVec 128)
  | echo (tag : EthTag) (dst : BitVec 128) (payload : List Byte)
  /-- A PFC frame with the VID of its tag (R330). -/
  | pfc (vid : BitVec 12) (prio : BitVec 3) (xoff : Bool)
  /-- A flit of a peer port with its SEQ and ACK, and an acknowledge flit (negative in the flag) with the credits that it
  returns. -/
  | flit (port : Nat) (seq : Half) (f : OutFlit) (ack : Half)
  | flitAck (port : Nat) (seq : Half) (neg : Bool) (tc credit : Nat)
deriving DecidableEq, Repr

/-- The state of the device. Byte and register tables are in the canonical form of `AMap`. -/
structure State where
  fit : Fitted := {}
  /-- Registers of the control window that are held as such: offset → value, default `regReset`. -/
  regs : AMap Word := []
  /-- Live counters and their latched copies (R451), at the live offset. -/
  ctr : AMap DWord := []
  lat : AMap DWord := []
  /-- Sequence of latch events of the module, and of each page since (R451, R453). -/
  perSeq : Word := 0
  perPage : AMap Word := []
  holdHost : Option Hold := none
  holdMp : Option Hold := none
  /-- Pages with a pending mark (R454). -/
  irq : List Nat := []
  arr : AMap Arr := []
  dma : AMap Dma := []
  mem : Mem := {}
  /-- The cache slice of each tile. -/
  msc : AMap Slice := []
  seq : Seq := {}
  upd : AMap Upd := []
  port : AMap Port := []
  cfl : Cfl := {}
  hst : Hst := { link := .training }
  pwr : Pwr := {}
  thm : Thm := {}
  mp : Mgmt := {}
  log : Log := {}
  /-- What the device has sent, latest first: the model's own field. -/
  wire : List Msg := []
  /-- Free values drawn so far: the model's own field. -/
  drawn : Nat := 0
  /-- The commands that are waiting, first in, first out. -/
  pending : List Instr := []
deriving DecidableEq, Repr

/-- Reasons for a fault. None arises: every command the manual gives an effect ends in a next state. -/
inductive Fault where
  /-- Raised by no meaning: kept so that the type of outcomes has an inhabitant. Safe. -/
  | unreachable
deriving DecidableEq, Repr

/-- Reasons for a refusal. -/
inductive Refusal where
  /-- The command has no meaning in the model yet. -/
  | notModelled (mnemonic : String)
  /-- The operand form is one that the load checks of the manual reject, with this status, so that no loaded
  program holds it (R57, R162, R185). Raised by the meanings of array instructions, row descriptors, DMA
  descriptors, stream instructions and the descriptors of other units. Safe. -/
  | rejectedAtLoad (status : BitVec 16)
deriving DecidableEq, Repr

/-- The machine right after reset. -/
def State.reset : State := {}

end Sys2Proof.Machine
end

