-- ==== Sys2Proof/Machine/Ops.lean ====
section
/-! DEFINITION. The named operations over sparse tables, registers, counters, interrupts, arrays and
tensor memory. -/

namespace Sys2Proof.Machine

/-! ### Sparse tables -/

/-- The value at a key: the entry's, else the default. -/
def aget (d : Nat → α) (m : AMap α) (k : Nat) : α :=
  match m with
  | [] => d k
  | (j, v) :: r => if j = k then v else aget d r k

/-- The entries of the keys `start ≤ k < start + len` for the values `f`, defaults left out. -/
def arange [DecidableEq α] (d : Nat → α) (f : Nat → α) : Nat → Nat → AMap α
  | _, 0 => []
  | start, n + 1 => if f start = d start then arange d f (start + 1) n else (start, f start) :: arange d f (start + 1) n

/-- Writes `f k` at every key `start ≤ k < start + len`, in canonical form. -/
def asetR [DecidableEq α] (d : Nat → α) (m : AMap α) (start len : Nat) (f : Nat → α) : AMap α :=
  m.filter (fun p => p.1 < start) ++ arange d f start len ++ m.filter (fun p => start + len ≤ p.1)

/-- Writes one key. -/
def aset [DecidableEq α] (d : Nat → α) (m : AMap α) (k : Nat) (v : α) : AMap α := asetR d m k 1 (fun _ => v)

/-- Restores the default at every key `start ≤ k < start + len`. -/
def aclr (m : AMap α) (start len : Nat) : AMap α :=
  m.filter (fun p => p.1 < start) ++ m.filter (fun p => start + len ≤ p.1)

/-- The canonical form: keys strictly rising and no entry at its default. -/
abbrev awf [DecidableEq α] (d : Nat → α) (m : AMap α) : Prop :=
  m.Pairwise (fun p q => p.1 < q.1) ∧ ∀ p ∈ m, p.2 ≠ d p.1

/-- Default of numeric tables. -/
def zeroD [Zero α] : Nat → α := fun _ => 0

/-! ### Fitted blocks (R3, R27, Table 17.3) -/

/-- Whether the block of a page is present. -/
def presentPage (f : Fitted) (p : Pg) (i : Nat) : Bool :=
  match p with
  | .hbm | .upd => f.hbmFitted.contains i
  | .ngl => i < 4 || f.full
  | .lcu => f.full
  | _ => true

/-- Peer port present (R15). -/
def portFitted (f : Fitted) (p : Nat) : Bool := p < 4 || (f.full && p < 6)

/-! ### Registers held as such -/

/-- The value held at an offset. -/
def regGet (s : State) (off : Nat) : Word := aget regReset s.regs off
/-- Sets the value held at an offset. -/
def regSet (s : State) (off : Nat) (v : Word) : State := { s with regs := aset regReset s.regs off v }
/-- Register `o` of a page. -/
def pgGet (s : State) (p : Pg) (i o : Nat) : Word := regGet s (pageBase p i + o)
/-- Sets register `o` of a page. -/
def pgSet (s : State) (p : Pg) (i o : Nat) (v : Word) : State := regSet s (pageBase p i + o) v

/-! ### Interrupt state (R449, R454) -/

/-- INT_STAT of a page: INT_RAW AND INT_EN. -/
def intStat (s : State) (p : Pg) (i : Nat) : Word := pgGet s p i 0x10 &&& pgGet s p i 0x14

/-- Whether HST_IRQ_ROUTE routes the type (Table 17.5). -/
def irqRouted (s : State) (p : Pg) : Bool := (pgGet s .hst 0 0x180).getLsbD p.type

/-- A message leaves the device. -/
def send (s : State) (m : Msg) : State := { s with wire := m :: s.wire }

/-! ### Counters (R440, R451) -/

/-- Live counter `o` of a page. -/
def ctrGet (s : State) (p : Pg) (i o : Nat) : DWord := aget ctrReset s.ctr (pageBase p i + o)
/-- Sets a live counter. -/
def ctrSet (s : State) (p : Pg) (i o : Nat) (v : DWord) : State :=
  { s with ctr := aset ctrReset s.ctr (pageBase p i + o) v }
/-- Adds to a live counter, modulo 2^64 (R451). -/
def bump (s : State) (p : Pg) (i o n : Nat) : State := ctrSet s p i o (ctrGet s p i o + BitVec.ofNat 64 n)

/-! ### Frames to a peer of the host transport (R336) -/

/-- The record of a transport peer. -/
def peerGet (s : State) (p : HctPeer) : Peer :=
  match p with
  | .host => s.hst.host
  | .basin r => aget (fun _ => {}) s.hst.peers r
/-- Replaces the record of a transport peer. -/
def peerSet (s : State) (p : HctPeer) (r : Peer) : State :=
  match p with
  | .host => { s with hst := { s.hst with host := r } }
  | .basin k => { s with hst := { s.hst with peers := aset (fun _ => {}) s.hst.peers k r } }

/-- Address of a peer. -/
def peerAddr (s : State) (p : HctPeer) : BitVec 128 :=
  match p with
  | .host => s.hst.hostIp
  | .basin r => match s.hst.basin with
    | some b => b.addrs.getD r 0
    | none => 0

/-- PRIO_CTRL, or PRIO_BULK (R330). -/
def prioOf (s : State) (bulk : Bool) : BitVec 3 := (pgGet s .hst 0 0x120 >>> (if bulk then 16 else 12)).truncate 3
/-- The tag of a frame that leaves (R330). -/
def ethTag (s : State) (bulk : Bool) : EthTag := { vid := (pgGet s .hst 0 0x120).truncate 12, prio := prioOf s bulk }
/-- Frames that carry PRIO_BULK (R330). -/
def isBulk : Frame → Bool
  | .data .. | .basin .. => true
  | _ => false
/-- The header of a datagram to a peer: the host is answered at the port of its latest SYNC, a basin peer at the same port as
the device's own (R333, assumption 110). -/
def txHdr (s : State) (p : HctPeer) (bulk : Bool) : TxHdr :=
  let port : Half := (pgGet s .hst 0 0x124).truncate 16
  { ethTag s bulk with
    sport := port, dst := peerAddr s p, ack := (peerGet s p).rxSeq
    dport := match p with
      | .host => s.hst.hostPort
      | .basin _ => port }

/-- The port is UP and the priority is not paused (R329, R330). -/
def prioOpen (s : State) (bulk : Bool) : Bool := s.hst.link == .up && !s.hst.paused.contains (prioOf s bulk).toNat

/-- Whether frames may leave to a peer now: the port and the priority are open, the host has sent SYNC, has its reply and is
reachable, and a BASIN frame has its exchange slot (R329, R330, R337, R351). -/
def maySend (s : State) (p : HctPeer) (f : Frame) : Bool :=
  prioOpen s (isBulk f)
  && (match p with
      | .host => s.hst.synced && !s.hst.unreachable && !s.hst.syncDue
      | .basin _ => (pgGet s .hst 0 0x134).getLsbD s.hst.slot)

/-- An address is in the neighbour cache (R332). -/
def cached (s : State) (a : BitVec 128) : Bool := s.hst.cache.any (fun c => c.1 == a)

/-- An ICMPv6 message waits. -/
def holdNd (s : State) (m : NdMsg) : State := { s with hst := { s.hst with nd := s.hst.nd ++ [m] } }

/-- A Neighbour Solicitation leaves with PRIO_CTRL, or waits while that is paused (R330, R332). -/
def sendSolicit (s : State) (a : BitVec 128) : State :=
  if prioOpen s false then send s (.solicit (ethTag s false) a) else holdNd s (.solicit a)

/-- An address is solicited before the first frame to it (R332). -/
def solicitAddr (s : State) (a : BitVec 128) : State :=
  if s.hst.asked.contains a then s else sendSolicit { s with hst := { s.hst with asked := a :: s.hst.asked } } a

/-- An ICMPv6 message leaves, or waits: for its priority, and an Echo Reply for its address (R330, R332). -/
def sendNd (s : State) (m : NdMsg) : State :=
  match m with
  | .solicit a => sendSolicit s a
  | .advert a =>
    if prioOpen s false then send (bump s .hst 0 0xc78 1) (.advert (ethTag s false) 255 a) else holdNd s m
  | .echo a bs =>
    if !cached s a then solicitAddr (holdNd s m) a
    else if prioOpen s false then send (bump s .hst 0 0xc78 1) (.echo (ethTag s false) a bs)
    else holdNd s m

/-- The ICMPv6 messages that wait leave as far as they may. -/
def pumpNd (s : State) : State := s.hst.nd.foldl sendNd { s with hst := { s.hst with nd := [] } }

/-- The address of a peer is in the neighbour cache (R332). -/
def resolved (s : State) (p : HctPeer) : Bool := cached s (peerAddr s p)
/-- The address of a peer is solicited (R332). -/
def solicitPeer (s : State) (p : HctPeer) : State := solicitAddr s (peerAddr s p)

/-- The distance from `b` up to `a`, modulo 2^32. -/
def seqDist (a b : Word) : Nat := (a - b).toNat

/-- Bit i set when SEQ rxSeq + 1 + i is held. -/
def ackBits (r : Peer) : BitVec 64 :=
  BitVec.ofNat 64 ((List.range 64).map (fun i => (if r.early.any (fun e => seqDist e.1 r.rxSeq == i + 1) then 2 ^ i else 0))).sum

/-- An ACK leaves, or waits for its priority or for the peer's address (R330, R332, R336). -/
def sendAck (s : State) (p : HctPeer) : State :=
  let r := peerGet s p
  let wait := peerSet s p { r with ackDue := true }
  if !prioOpen s false || (p == .host && s.hst.syncDue) then wait
  else if !resolved s p then solicitPeer wait p
  else send (bump (peerSet s p { r with sinceAck := 0, ackDue := false }) .hst 0 0xc08 1) (.ack p (txHdr s p false) (ackBits r))

/-- The reply to a SYNC leaves, or waits (R330, R332, R337). -/
def sendSync (s : State) : State :=
  let wait := { s with hst := { s.hst with syncDue := true } }
  if !prioOpen s false then wait
  else if !resolved s .host then solicitPeer wait .host
  else send (bump { s with hst := { s.hst with syncDue := false } } .hst 0 0xc08 1) (.sync (txHdr s .host false))

/-- What waits to leave to a peer ahead of its frames. -/
def sendDue (p : HctPeer) (s : State) : State :=
  let s := if p == .host && s.hst.syncDue then sendSync s else s
  if (peerGet s p).ackDue then sendAck s p else s

/-- Sends frames that wait, while the window of 256 is open (R336); an address not in the neighbour cache is
solicited first (R332). -/
def pumpFrames (p : HctPeer) : Nat → State → State
  | 0, s => s
  | k + 1, s =>
    let r := peerGet s p
    match r.txq with
    | [] => s
    | f :: rest =>
      if 256 ≤ r.unacked.length || !maySend s p f then s
      else if !resolved s p then solicitPeer s p
      else
        let h := txHdr s p (isBulk f)
        let s := peerSet s p { r with txq := rest, txSeq := r.txSeq + 1, sinceAck := 0, ackDue := false,
                                      unacked := r.unacked ++ [{ seq := r.txSeq, f := f }] }
        let s := bump s .hst 0 0xc08 1
        let s := match f with
          | .data _ _ _ _ bs => bump s .hst 0 0xc18 bs.length
          | .basin _ bs => bump s .hst 0 0xc60 bs.length
          | _ => s
        pumpFrames p k (send s (.hct p h r.txSeq f))

/-- What waits for a peer leaves as far as it may. -/
def pumpPeer (p : HctPeer) (k : Nat) (s : State) : State := pumpFrames p k (sendDue p s)

/-- A frame for a peer: queued, and sent as soon as it may leave. Frames to an unreachable host are
dropped (R337). -/
def sendFrame (s : State) (p : HctPeer) (f : Frame) : State :=
  if p == .host && (s.hst.unreachable || !s.hst.synced) then s
  else
    let r := peerGet s p
    pumpPeer p 257 (peerSet s p { r with txq := r.txq ++ [f] })

/-- INTERRUPT entries, up to 64 in a frame; dropped and counted while no frame may leave to the host (R454,
R456). -/
def sendIrq (s : State) (es : List (Nat × Word)) : State :=
  if s.hst.unreachable || !s.hst.synced then bump s .hst 0 0xc88 es.length
  else (List.range ((es.length + 63) / 64)).foldl (fun s k =>
    sendFrame s .host (.interrupt ((es.drop (64 * k)).take 64))) (bump s .hst 0 0xc80 es.length)

/-- Consequences of a change of INT_STAT (R454): the page becomes pending when a bit rose and its type is
routed; with HST_COAL = 0 the entry is sent at once. -/
def irqTouch (s : State) (p : Pg) (i : Nat) (before : Word) : State :=
  let after := intStat s p i
  if (after &&& ~~~before) != 0 && irqRouted s p && presentPage s.fit p i then
    (if pgGet s .hst 0 0x12c = 0 then sendIrq s [(pageBase p i, after)]
     else if s.irq.contains (pageBase p i) then s else { s with irq := s.irq ++ [pageBase p i] })
  else s

/-- Hardware sets bits of INT_RAW (R449). -/
def setInt (s : State) (p : Pg) (i : Nat) (bits : Word) : State :=
  let before := intStat s p i
  irqTouch (pgSet s p i 0x10 (pgGet s p i 0x10 ||| bits)) p i before

/-- An event that sets its interrupt bit only the first time in a step (R449). -/
def setIntOnce (s : State) (p : Pg) (i bit : Nat) : State :=
  let k := pageBase p i * 32 + bit
  if s.seq.once.contains k then s
  else setInt { s with seq := { s.seq with once := k :: s.seq.once } } p i (1 <<< bit)

/-- Adds the counts of R87 at the four consecutive counters of a page, in the order SAT, NAN, FLUSH,
BLK_INVALID. -/
def bumpCnv (s : State) (p : Pg) (i o : Nat) (c : CnvCnt) : State :=
  bump (bump (bump (bump s p i o c.sat) p i (o + 8) c.nan) p i (o + 16) c.flush) p i (o + 24) c.blk

/-! ### Arrays -/

/-- The record of array `a`. -/
def arrGet (s : State) (a : Nat) : Arr := aget (fun _ => {}) s.arr a
/-- Replaces the record of array `a`. -/
def arrSet (s : State) (a : Nat) (r : Arr) : State := { s with arr := aset (fun _ => {}) s.arr a r }
/-- What stays of an array that loses its supply: the registers of its latest events (R444). -/
def arrShell (r : Arr) : Arr := { darkStep := r.darkStep, statHigh := r.statHigh, nanRow := r.nanRow }
/-- Changes the record of array `a`. -/
def arrMod (s : State) (a : Nat) (f : Arr → Arr) : State := arrSet s a (f (arrGet s a))

/-- Tile of array `a` (R14). -/
def tileOf (a : Nat) : Nat := a / 192

/-- The array that holds slot `l = t * 184 + s` (R65). -/
def slotArr (s : State) (l : Nat) : Option Nat :=
  (List.range 192).map (fun k => l / 184 * 192 + k) |>.find? (fun a => (arrGet s a).slot == some (l % 184))

/-- Byte `k` of the local store. -/
def lsByte (r : Arr) (k : Nat) : Byte := aget (fun _ => 0) r.ls k
/-- `n` bytes of the local store from `k`. -/
def lsRead (r : Arr) (k n : Nat) : List Byte := (List.range n).map (fun j => lsByte r (k + j))
/-- Writes bytes to the local store from `k`. -/
def lsWrite (r : Arr) (k : Nat) (bs : List Byte) : Arr :=
  { r with ls := asetR (fun _ => 0) r.ls k bs.length (fun j => bs.getD (j - k) 0) }

/-! ### DMA engines -/

/-- The record of engine `e` (t * 24 + e). -/
def dmaGet (s : State) (e : Nat) : Dma := aget (fun _ => {}) s.dma e
/-- Changes the record of engine `e`. -/
def dmaMod (s : State) (e : Nat) (f : Dma → Dma) : State :=
  { s with dma := aset (fun _ => {}) s.dma e (f (dmaGet s e)) }

/-! ### Tensor memory (R199 to R224) -/

/-- Key of byte `off` of tensor `h` in the byte tables. -/
def tkey (h off : Nat) : Nat := h * 2 ^ 40 + off
/-- The tensor of a handle, if it is allocated. -/
def tensorOf (s : State) (h : Nat) : Option Tensor := aget (fun _ => none) s.mem.tensors h
/-- Whether the tensor is of class STATE (code 0). -/
def isState (s : State) (h : Nat) : Bool :=
  match tensorOf s h with
  | some t => t.cls == 0
  | none => false

/-- Byte `k` (a key) of the committed version, or of the one version. -/
def memByte (s : State) (k : Nat) : Byte := aget (fun _ => 0) s.mem.bytes k
/-- `n` bytes of the committed version of tensor `h` from `off`. -/
def memRead (s : State) (h off n : Nat) : List Byte := (List.range n).map (fun j => memByte s (tkey h off + j))
/-- Byte `k` of the working version. -/
def workByte (s : State) (k : Nat) : Byte := aget (fun _ => 0) s.mem.work k

/-- Bytes of the 32-byte granule `g` that `n` bytes from key `k` cover. -/
def granuleMask (g k n : Nat) : Word := (BitVec.allOnes 32 <<< (k - 32 * g)) &&& ~~~(BitVec.allOnes 32 <<< (k + n - 32 * g))
/-- A write of `n` bytes from key `k`: a marker goes once every byte of its granule has been written (R224). -/
def unpoison (m : AMap Word) (k n : Nat) : AMap Word :=
  (m.map (fun p => (p.1, p.2 &&& ~~~granuleMask p.1 k n))).filter (fun p => p.2 != 0)

/-- Whether a poison marker covers one of `n` bytes from key `k` of the committed version. -/
def poisoned (s : State) (k n : Nat) : Bool :=
  s.mem.poison.any (fun p => p.2 != 0 && p.1 * 32 < k + n && k < p.1 * 32 + 32)

/-- Writes bytes to tensor `h`: the committed version, or the one version of a tensor that is not STATE. -/
def memWrite (s : State) (h off : Nat) (bs : List Byte) : State :=
  let k := tkey h off
  { s with mem := { s.mem with
      bytes := asetR (fun _ => 0) s.mem.bytes k bs.length (fun j => bs.getD (j - k) 0)
      poison := unpoison s.mem.poison k bs.length } }

/-- Bytes of a page, 2 MiB (R198). -/
def pageSize : Nat := 2 ^ 21

/-- Writes bytes to the working version of a STATE tensor (R213, R214). -/
def workWrite (s : State) (h off : Nat) (bs : List Byte) : State :=
  if bs.isEmpty then s
  else
    let k := tkey h off
    let p0 := off / pageSize
    let p1 := (off + bs.length - 1) / pageSize
    { s with mem := { s.mem with
        work := asetR (fun _ => 0) s.mem.work k bs.length (fun j => bs.getD (j - k) 0)
        wpoison := unpoison s.mem.wpoison k bs.length
        written := asetR (fun _ => false) s.mem.written (h * 2 ^ 20 + p0) (p1 - p0 + 1) (fun _ => true) } }

/-- A little-endian number of `n` bytes of the committed version. -/
def memNat (s : State) (h off n : Nat) : Nat := leNat (memRead s h off n)

/-- The run step count S (R98): bytes 0 to 7 of the run record, zero with no program loaded. -/
def stepS (s : State) : DWord :=
  match s.seq.prog with
  | some p => BitVec.ofNat 64 (memNat s p.runRec 0 8)
  | none => 0

/-- Draws a free value: its index in the opaque sequences of Config. -/
def draw (s : State) : Nat × State := (s.drawn, { s with drawn := s.drawn + 1 })

/-! ### Perturbation under test (R472, R473) -/

/-- Counts perturbation events in a ..._DONE register, saturating (R472). -/
def tstCount (s : State) (p : Pg) (i o n : Nat) : State :=
  let v := (pgGet s p i o).toNat + n
  pgSet s p i o (BitVec.ofNat 32 (min v 0xffffffff))

/-- Delay of crossing `n` of a handshake page (R473). -/
def crossDelay (s : State) (p : Pg) (i : Nat) (n : DWord) : Nat :=
  let h := mix64 (((pgGet s p i 0x08c).zeroExtend 64 <<< 32) ^^^ n)
  let delay := (pgGet s p i 0x084).toNat
  if (h &&& 0xff).toNat < (pgGet s p i 0x088).toNat then (if (pgGet s p i 0x080).getLsbD 1 then (h >>> 32).toNat % (delay + 1) else delay)
  else 0

/-- One crossing of a handshake page, counted since the latest latch at the page's key 0x090 of `ctr`; one that TST_HS_CTRL
delays counts in TST_HS_DONE (R473). -/
def crossing (p : Pg) (i : Nat) (s : State) : State :=
  let d := crossDelay s p i (ctrGet s p i 0x090)
  let s := bump s p i 0x090 1
  if (pgGet s p i 0x080).getLsbD 0 && d != 0 then tstCount s p i 0x090 1 else s

/-- Crossings of a page whose number in a unit's work the spec does not give: those delayed are free (R473, assumption 131). -/
def crossings (p : Pg) (i : Nat) (s : State) : State :=
  if (pgGet s p i 0x080).getLsbD 0 && pgGet s p i 0x084 != 0 && pgGet s p i 0x088 != 0 then
    let x := draw s
    tstCount x.2 p i 0x090 (Config.freeWord x.1).toNat
  else s

/-- The clocks of the units stand still: in SAFE, and in HALTED until RESUME starts them again (R392, R393). -/
def unitsStopped (s : State) : Bool := s.seq.dev == .safe || (s.seq.dev == .halted && s.seq.halt == some .clocks)

/-! ### Regulators and stages (R358, R361) -/

/-- The regulator of array `a`. -/
def reguGet (s : State) (a : Nat) : Regu := aget (fun _ => {}) s.pwr.reg a
/-- Changes the regulator of array `a`. -/
def reguMod (s : State) (a : Nat) (f : Regu → Regu) : State :=
  { s with pwr := { s.pwr with reg := aset (fun _ => {}) s.pwr.reg a (f (reguGet s a)) } }
/-- The vertical stage of tile `t`. -/
def stageGet (s : State) (t : Nat) : Stage := aget (fun _ => {}) s.pwr.stage t
/-- Changes the vertical stage of tile `t`. -/
def stageMod (s : State) (t : Nat) (f : Stage → Stage) : State :=
  { s with pwr := { s.pwr with stage := aset (fun _ => {}) s.pwr.stage t (f (stageGet s t)) } }

end Sys2Proof.Machine
end

