-- ==== Sys2Proof/Machine/Cache.lean ====
section
/-! DEFINITION. The memory-side cache (R206 to R210): the lines that a slice holds, and what an access to a tensor
address counts in its slice and in its stack. The values that an access reads or writes are those of `State.mem`: every
address has one home, so that no line holds anything else. -/

namespace Sys2Proof.Machine

/-- How an access reaches its home slice. -/
inductive AccKind where
  | read | write | atomic
deriving DecidableEq, Repr

/-- Lines of 128 bytes, 16 ways, and the sets of a slice of 64 MiB (R206). -/
def lineBytes : Nat := 128
def cacheWays : Nat := 16
def cacheSetCount : Nat := 32768

/-- The slice of tile `t`. -/
def sliceGet (s : State) (t : Nat) : Slice := aget (fun _ => {}) s.msc t

/-- Number of line `l` of a physical page. -/
def lineNo (stack phys l : Nat) : Nat := (stack * 2 ^ 16 + phys) * 2 ^ 14 + l

/-- The set of a line: the low bits of its number, where the unit has no other (assumption 96). -/
def lineSet (f : Fitted) (n : Nat) : Nat := aget (fun n => n % cacheSetCount) f.cacheSets n % cacheSetCount

/-- What the accesses of a run of lines gave: the sets, hits, misses, write-backs, and the bytes that the stack of the run
delivered. -/
structure LineAcc where
  sets : AMap (List (Nat × Bool))
  hit : Nat := 0
  miss : Nat := 0
  wb : Nat := 0
  bytes : Nat := 0
  /-- Stacks of the dirty lines that were replaced. -/
  out : List Nat := []

/-- The stack of a line. -/
def lineStack (n : Nat) : Nat := n / 2 ^ 30

/-- One access to `n` bytes from `lo` within a line: least recently used replacement, and what goes to the stack: the
bursts of 32 bytes that a stream access covers, or a whole line that is not wholly written (assumption 97). -/
def lineAccess (f : Fitted) (k : AccKind) (alloc : Bool) (no lo n : Nat) (a : LineAcc) : LineAcc :=
  let set := lineSet f no
  let ls := aget (fun _ => []) a.sets set
  let dirty := k != .read
  match ls.find? (fun e => e.1 == no) with
  | some e => { a with sets := aset (fun _ => []) a.sets set ((no, e.2 || dirty) :: ls.filter (fun e => e.1 != no)), hit := a.hit + 1 }
  | none =>
    let a := { a with miss := a.miss + 1 }
    if alloc then
      let keep := ls.take (cacheWays - 1)
      let gone := (ls.drop (cacheWays - 1)).filter (·.2)
      { a with sets := aset (fun _ => []) a.sets set ((no, dirty) :: keep), wb := a.wb + gone.length, out := a.out ++ gone.map (fun e => lineStack e.1)
               bytes := a.bytes + (if k == .write && n == lineBytes then 0 else lineBytes) }
    else { a with bytes := a.bytes + ((lo + n - 1) / 32 - lo / 32 + 1) * 32 }

/-- Bytes that stack `k` delivers to priority class `c` (Table 8.11). -/
def hbmBytes (s : State) (k c n : Nat) : State := bump s .hbm k (0xc00 + 8 * (c % 4)) n

/-- Errors that TST_ECC_INJ puts into the data of a read of `n` bytes of a stack: one in every PERIOD bursts of one
pseudo-channel, of the read's bursts of 32 bytes. They are corrected and go no further; which bursts the pseudo-channel gives
is free (R476, assumption 131). -/
def injectErrs (stack n : Nat) (s : State) : State :=
  let w := (pgGet s .hbm stack 0x088).toNat
  if w % 2 = 0 ∨ n = 0 then s
  else
    let x := draw s
    let k := (Config.freeWord x.1).toNat % (n / 32 / (w / 2 ^ 16) + 2)
    bump (tstCount x.2 .hbm stack 0x08c k) .hbm stack 0xc28 k

/-- The accesses to bytes `lo` to `lo + n - 1` of a physical page, for priority class `prio` (R206 to R210). Those of a
stream class to an empty slice are misses, one for each line. -/
def runAccess (prio : Nat) (k : AccKind) (alloc : Bool) (stack phys lo n : Nat) (s : State) : State :=
  if n = 0 then s
  else if !alloc && (sliceGet s (stack / 3)).sets.isEmpty then
    let bs := ((lo + n - 1) / 32 - lo / 32 + 1) * 32
    injectErrs stack (if k = .write then 0 else bs)
      (hbmBytes (bump s .msc (stack / 3) 0xc08 ((lo + n - 1) / lineBytes - lo / lineBytes + 1)) stack prio bs)
  else
    let t := stack / 3
    let one (a : LineAcc) (l : Nat) : LineAcc :=
      let b := max lo (l * lineBytes)
      lineAccess s.fit k alloc (lineNo stack phys l) (b - l * lineBytes) (min (lo + n) ((l + 1) * lineBytes) - b) a
    let a := ((List.range ((lo + n - 1) / lineBytes - lo / lineBytes + 1)).map (· + lo / lineBytes)).foldl one { sets := (sliceGet s t).sets }
    let s := { s with msc := aset (fun _ => {}) s.msc t { sliceGet s t with sets := a.sets } }
    let s := bump (bump (bump s .msc t 0xc00 a.hit) .msc t 0xc08 a.miss) .msc t 0xc10 a.wb
    injectErrs stack (if k = .write then 0 else a.bytes) (a.out.foldl (fun s j => hbmBytes s j prio lineBytes) (hbmBytes s stack prio a.bytes))

/-- Pages that `n` bytes from `off` cover, with the bytes in each. -/
def pageParts (off n : Nat) : List (Nat × Nat) :=
  if n = 0 then []
  else (List.range ((off + n - 1) / pageSize - off / pageSize + 1)).map (fun j =>
    let p := off / pageSize + j
    (p, min (off + n) ((p + 1) * pageSize) - max off (p * pageSize)))

/-- An access to `n` bytes from `off` of tensor `h` for a priority class (Table 8.3): `work` names the working version of a
STATE page, and `bypass` is an access that never allocates (R209). -/
def memAccess (prio : Nat) (k : AccKind) (bypass work : Bool) (h off n : Nat) (s : State) : State :=
  match tensorOf s h with
  | none => s
  | some t =>
    (pageParts off n).foldl (fun s p =>
      let pg := t.pages.getD p.1 {}
      let alloc := k == .atomic || (!bypass && (sliceGet s (pg.stack / 3)).policy.getLsbD t.cls)
      runAccess prio k alloc pg.stack (if work then pg.widx else pg.idx) (max off (p.1 * pageSize) - p.1 * pageSize) p.2 s) s

/-- The priority classes of Table 8.3. -/
def prioCfl : Nat := 0
def prioUpd : Nat := 1
def prioDma : Nat := 2
def prioHost : Nat := 3

/-- A unit reads or writes tensor bytes (the committed or the one version). -/
def memReads (prio h off n : Nat) (s : State) : State := memAccess prio .read false false h off n s
def memWrites (prio h off n : Nat) (s : State) : State := memAccess prio .write false false h off n s

/-- A sequencer fetches `n` bytes of the image, or the root sequencer reads or writes a record; Table 8.3 gives no class for
either (assumption 98). -/
def seqReads (h off n : Nat) (s : State) : State := memAccess (Config.fetchClass % 4) .read false false h off n s
def seqWrites (h off n : Nat) (s : State) : State := memAccess (Config.fetchClass % 4) .write false false h off n s

/-- The lines of a physical page leave the slice; dirty ones are written back (R204, R206). -/
def dropPage (prio stack phys : Nat) (wb : Bool) (s : State) : State :=
  let t := stack / 3
  let mine (e : Nat × Bool) : Bool := e.1 / 2 ^ 14 == stack * 2 ^ 16 + phys
  let sl := sliceGet s t
  let n := if wb then (sl.sets.map (fun e => e.2.countP (fun x => mine x && x.2))).sum else 0
  let sets := (sl.sets.map (fun e => (e.1, e.2.filter (fun x => !mine x)))).filter (fun e => !e.2.isEmpty)
  hbmBytes (bump { s with msc := aset (fun _ => {}) s.msc t { sl with sets := sets } } .msc t 0xc10 n) stack prio (n * lineBytes)

/-- Dirty lines that a slice holds (Table 8.7). -/
def dirtyLines (s : State) (t : Nat) : Nat := ((sliceGet s t).sets.map (fun e => e.2.countP (·.2))).sum

/-- MSC_CLASS_POLICY comes into force (R209). -/
def takePolicies (s : State) : State :=
  (List.range 4).foldl (fun s t => { s with msc := aset (fun _ => {}) s.msc t { sliceGet s t with policy := pgGet s .msc t 0x100 } }) s

end Sys2Proof.Machine
end

