-- ==== Sys2Proof/Machine/Operands.lean ====
section
/-! DEFINITION. Operand forms: the fields of array instructions, row descriptors, DMA descriptors, stream
instructions and ring records as the image stores them, and the checks that one item alone must pass
(Tables 2.9, 6.10, 7.5, 9.9). A check answers every status that applies; R18 picks one. -/

namespace Sys2Proof.Machine

/-! ### Status codes (Table 0.5) and precedence (R18) -/

def stOK : Half := 0x0000
def stState : Half := 0x0101
def stLen : Half := 0x0102
def stField : Half := 0x0103
def stCap : Half := 0x0104
def stAuth : Half := 0x0105
def stHandle : Half := 0x0106
def stFmt : Half := 0x0107

/-- Place of a status in the order of R18; codes outside the list come after it (R478). -/
def stRank (c : Half) : Nat :=
  if c = stAuth then 0 else if c = stCap then 1 else if c = stState then 2 else if c = stField then 3
  else if c = stFmt then 4 else if c = stHandle then 5 else if c = stLen then 6 else 7

/-- The one status returned of those that apply (R18, R478): the first of lowest rank, OK when none does. -/
def pickStatus (l : List Half) : Half :=
  l.foldl (fun a c => if c = stOK then a else if a = stOK then c else if stRank c < stRank a then c else a) stOK

/-- A status when a condition holds. -/
def chk (b : Bool) (c : Half) : List Half := if b then [c] else []

/-- Field `[lo + n - 1 : lo]` of a bit vector, as a number. -/
def fld (w : BitVec k) (lo n : Nat) : Nat := (w >>> lo).toNat % 2 ^ n

/-- 4 MiB, the size of a local store (Table 2.1). -/
def lsSize : Nat := 2 ^ 22

/-! ### Array instructions (Tables 2.7 to 2.9) -/

/-- An array instruction from its 128 bits (Table 2.7): the opcode, the fields, and that a reserved bit is
nonzero. -/
def arrParse (w : BitVec 128) : Nat × ArrInst × Bool :=
  (fld w 120 8,
   { plane := BitVec.ofNat 8 (fld w 112 8), fmt := BitVec.ofNat 4 (fld w 108 4), src := BitVec.ofNat 2 (fld w 106 2),
     ring := BitVec.ofNat 2 (fld w 104 2), rows := BitVec.ofNat 11 (fld w 93 11), acc := BitVec.ofNat 10 (fld w 83 10),
     accum := w.getLsbD 82, add := w.getLsbD 81, oslot := BitVec.ofNat 6 (fld w 75 6),
     addr := BitVec.ofNat 18 (fld w 46 18), pitch := BitVec.ofNat 14 (fld w 32 14),
     count := BitVec.ofNat 16 (fld w 16 16), lctr := BitVec.ofNat 2 (fld w 14 2), target := BitVec.ofNat 12 (fld w 0 12) },
   fld w 64 11 != 0 || fld w 12 2 != 0)

/-- The fields that an opcode does not use (Tables 2.7, 2.8; R44 and R174 for PITCH and ADDR). -/
def arrUnused (op : Nat) (i : ArrInst) : Bool :=
  let low := (fmtOfCode i.fmt.toNat).elim false Fmt.lowBit
  match op with
  | 1 => i.src != 0 || i.ring != 0 || i.rows != 0 || i.acc != 0 || i.accum || i.add || (i.oslot != 0 && !low)
      || i.pitch != 0 || i.count != 0 || i.lctr != 0 || i.target != 0
  | 2 | 3 => i.add || i.oslot != 0 || i.count != 0 || i.lctr != 0 || i.target != 0
      || (i.src != 1 && i.ring != 0) || (i.src == 1 && i.addr != 0) || (i.src != 2 && i.pitch != 0)
  | 4 => i.plane != 0 || i.src != 0 || i.ring != 0 || i.accum || i.oslot != 0 || i.pitch != 0 || i.lctr != 0 || i.target != 0
  | 5 => { i with count := 0 } != ({} : ArrInst)
  | 6 => { i with count := 0, lctr := 0, target := 0 } != ({} : ArrInst)
  | 7 => { i with lctr := 0, target := 0 } != ({} : ArrInst)
  | _ => i != ({} : ArrInst)

/-- Highest plane index of a format (Table 2.3). -/
def planeMax : Fmt → Nat
  | .t2 | .w2 => 251 | .f4 => 125 | .b16 => 30 | _ => 62

/-- The pairings of Table 2.2. -/
def pairOk (plane stream : Fmt) : Bool :=
  match plane with
  | .t2 | .w2 => stream.eight
  | .f4 => stream == .f4
  | .b16 => stream == .b16
  | .f32 => false
  | _ => stream.eight

/-- Stored size of a row of `n` elements that is a tensor of its own (R148). -/
def rowStored (f : Fmt) (n : Nat) : Nat := f.stored ((n + 31) / 32)

/-- Local-store extents of an array instruction, as start and length in bytes (R40, R44, R50, R148); a ring
read has none of its own. -/
def arrExtents (op : Nat) (i : ArrInst) : List (Nat × Nat) :=
  match fmtOfCode i.fmt.toNat with
  | none => []
  | some f =>
    let a := i.addr.toNat * 16
    let n := i.rows.toNat
    match op with
    | 1 => [(a, ldpExtent f)]
    | 2 | 3 =>
      if n = 0 then []
      else match i.src.toNat with
        | 0 => [(a, f.stored (3 * n))]
        | 2 => [(a, 95 * (i.pitch.toNat * 16) + rowStored f n)]
        | _ => []
    | 4 => if n = 0 then [] else [(a, f.stored (3 * n))]
    | _ => []

/-- Checks of Table 2.9, R133, R148 and R50 on one instruction; `layers` and `weirs` are those of the
program header. -/
def arrCheck (op : Nat) (i : ArrInst) (layers weirs : Nat) : List Half :=
  let f := fmtOfCode i.fmt.toNat
  let uf := chk (op = 0 || 8 < op || arrUnused op i || ((op = 2 || op = 3) && i.src == 3)) stField
  let ext := chk ((arrExtents op i).any (fun e => lsSize < e.1 + e.2)) stLen
  let acc := chk (((op = 2 || op = 3 || op = 4) && 1024 < i.acc.toNat + i.rows.toNat)) stLen
  let rest := match op with
    | 1 => match f with
      | none => [stFmt]
      | some g => chk (g == .f32) stFmt ++ chk (planeMax g < i.plane.toNat) stLen
    | 2 | 3 => match f with
      | none => [stFmt]
      | some g => chk (g.lowBit || g == .f32 || (i.src == 2 && g == .f4)) stFmt
          ++ chk (i.src == 2 && i.pitch.toNat * 16 < rowStored g i.rows.toNat) stLen
    | 4 => chk (!f.any (fun g => (g == .f32 || g == .b16 || g == .f8a || g == .f8as) && (!i.add || g == .f32))) stFmt
          ++ chk (i.count != 0xffff && 2 < i.count.toNat % 8) stField
          ++ chk (i.count != 0xffff && (0x4000 ≤ i.count.toNat || layers ≤ i.count.toNat / 8)) stLen
    | 5 => chk (i.count == 0 || weirs < i.count.toNat) stField
    | _ => []
  uf ++ ext ++ acc ++ rest

/-! ### Row descriptors (Tables 6.8 to 6.10) -/

/-- A row descriptor from its 64 bytes: the opcode, the fields, and that a reserved bit or byte is
nonzero. -/
def rowParse (w : Cmd) : Nat × RowDesc × Bool :=
  let u32 (b : Nat) : Word := BitVec.ofNat 32 (fld w (8 * b) 32)
  (fld w 0 8,
   { recomp := w.getLsbD 8, causal := w.getLsbD 9, noAffine := w.getLsbD 10, accInit := w.getLsbD 11,
     xf := BitVec.ofNat 4 (fld w 16 4), yf := BitVec.ofNat 4 (fld w 20 4), pos := BitVec.ofNat 12 (fld w 32 12),
     moff := BitVec.ofNat 16 (fld w 48 16), n := u32 8, rows := u32 12, stat := u32 16, eps := u32 20,
     xAddr := u32 24, xPitch := u32 28, yAddr := u32 32, yPitch := u32 36, oAddr := u32 40, oPitch := u32 44,
     gAddr := u32 48, bAddr := u32 52 },
   fld w 12 4 != 0 || fld w 24 8 != 0 || fld w 44 4 != 0 || fld w 448 64 != 0)

/-- Opcode classes of Table 6.9. -/
def rowIsF (op : Nat) : Bool := op = 1 || op = 2 || op = 3
def rowIsB (op : Nat) : Bool := op = 0x11 || op = 0x12 || op = 0x13
def rowIsSmax (op : Nat) : Bool := op = 3 || op = 0x13
def rowIsNorm (op : Nat) : Bool := op = 1 || op = 0x11

/-- Bytes of the γ, and of the β or dγ/dβ vectors that the opcode uses. -/
def rowGBytes (op : Nat) (d : RowDesc) : Nat := if rowIsSmax op || d.noAffine then 0 else 4 * d.n.toNat
def rowBBytes (op : Nat) (d : RowDesc) : Nat :=
  if d.noAffine then 0 else if op = 1 then 4 * d.n.toNat else if op = 0x11 then 8 * d.n.toNat
  else if op = 0x12 then 4 * d.n.toNat else 0

/-- Format of the output rows: YF forward, F32 backward (Table 6.8). -/
def rowOFmt (op : Nat) (d : RowDesc) : Fmt := if rowIsF op then (fmtOfCode d.yf.toNat).getD .f32 else .f32

/-- Extent of `rows` rows of `n` elements at a pitch in words. -/
def rowsExtent (f : Fmt) (addr pitch : Word) (n rows : Nat) : List (Nat × Nat) :=
  if n = 0 ∨ rows = 0 then [] else [(addr.toNat * 16, (rows - 1) * (pitch.toNat * 16) + rowStored f n)]

/-- Local-store extents of a row descriptor. -/
def rowExtents (op : Nat) (d : RowDesc) : List (Nat × Nat) :=
  if d.n = 0 ∨ d.rows = 0 then [] else
  rowsExtent ((fmtOfCode d.xf.toNat).getD .f32) d.xAddr d.xPitch d.n.toNat d.rows.toNat
  ++ (if rowIsB op then rowsExtent ((fmtOfCode d.yf.toNat).getD .f32) d.yAddr d.yPitch d.n.toNat d.rows.toNat else [])
  ++ rowsExtent (rowOFmt op d) d.oAddr d.oPitch d.n.toNat d.rows.toNat
  ++ (if rowGBytes op d = 0 then [] else [(d.gAddr.toNat * 16, rowGBytes op d)])
  ++ (if rowBBytes op d = 0 then [] else [(d.bAddr.toNat * 16, rowBBytes op d)])

/-- The checks of Table 6.10 on one descriptor. With NO_AFFINE the γ, β and dγ vectors are not used. -/
def rowCheck (op : Nat) (d : RowDesc) : List Half :=
  let n := d.n.toNat
  let smax := rowIsSmax op
  let statUsed := rowIsB op || !d.recomp
  let epsUsed := if op = 1 || op = 2 then true else if op = 0x11 || op = 0x12 then d.recomp else false
  let xf := fmtOfCode d.xf.toNat
  let yf := fmtOfCode d.yf.toNat
  let xok := match xf with
    | some f => f == .f8a || f == .f8as || f == .b16 || f == .f32
    | none => false
  let yok := match yf with
    | some f => if rowIsF op then f == .f8a || f == .f8as || f == .b16 || f == .f32
      else f == .f8g || f == .f8gs || f == .b16 || f == .f32
    | none => false
  let small (f : Option Fmt) (p : Word) : Bool := match f with
    | some g => p.toNat * 16 < rowStored g n
    | none => false
  chk (!(rowIsF op || rowIsB op)
    || (d.causal && !smax) || (d.noAffine && smax)
    || (d.accInit && (d.noAffine || !(op = 0x11 || op = 0x12)))
    || (d.moff != 0 && !smax)
    || (d.stat != 0 && rowIsF op && d.recomp)
    || (d.eps != 0 && !epsUsed)
    || (epsUsed && (d.eps.getLsbD 31 || 0x7f800000 ≤ d.eps.toNat))
    || (rowIsF op && (d.yAddr != 0 || d.yPitch != 0))
    || (d.gAddr != 0 && (smax || d.noAffine))
    || (d.bAddr != 0 && (smax || d.noAffine || op = 2))) stField
  ++ chk (!xok || !yok) stFmt
  ++ chk (16384 < n || (statUsed && 16384 < d.stat.toNat + d.rows.toNat)
    || small xf d.xPitch || (rowIsB op && small yf d.yPitch) || small (some (rowOFmt op d)) d.oPitch
    || (rowExtents op d).any (fun e => lsSize < e.1 + e.2)) stLen

/-! ### DMA descriptors (Tables 7.2 to 7.5) -/

/-- An endpoint from its 16 bytes. -/
def endpointOf (w : BitVec k) (b : Nat) : Endpoint :=
  { space := BitVec.ofNat 32 (fld w (8 * b) 32), offset := BitVec.ofNat 64 (fld w (8 * b + 32) 64),
    pitch := BitVec.ofNat 32 (fld w (8 * b + 96) 32) }

/-- A DMA descriptor from its 64 bytes: the opcode, the fields, and that a reserved bit or byte is nonzero. -/
def dmaParse (w : Cmd) : Nat × DmaDesc × Bool :=
  (fld w 0 8,
   { order := w.getLsbD 8, raw := w.getLsbD 9, probe := w.getLsbD 10, cid := BitVec.ofNat 8 (fld w 16 8),
     length := BitVec.ofNat 32 (fld w 32 32), rows := BitVec.ofNat 32 (fld w 64 32), fmtw := BitVec.ofNat 32 (fld w 96 32),
     src := endpointOf w 16, dst := endpointOf w 32, ebase := BitVec.ofNat 64 (fld w 384 64) },
   fld w 11 5 != 0 || fld w 24 8 != 0 || fld w 448 64 != 0)

/-- KIND, HANDLE, SLOT and RING of an endpoint (Table 7.3). -/
def epKind (e : Endpoint) : Nat := fld e.space 0 2
def epHandle (e : Endpoint) : Nat := fld e.space 8 24
def epSlot (e : Endpoint) : Nat := fld e.space 8 8
def epRing (e : Endpoint) : Nat := fld e.space 16 2
/-- OFFSET, 40 bits. -/
def epOff (e : Endpoint) : Nat := fld e.offset 0 40

/-- Reserved bits of an endpoint, and the rules of OFFSET and PITCH by KIND that give FIELD_RESERVED. -/
def epReserved (e : Endpoint) : Bool :=
  fld e.offset 40 24 != 0 ||
  match epKind e with
  | 0 => fld e.space 2 6 != 0
  | 1 => fld e.space 2 6 != 0 || fld e.space 16 16 != 0 || epOff e % 16 != 0 || e.pitch.toNat % 16 != 0
  | 2 => fld e.space 2 6 != 0 || fld e.space 18 14 != 0 || e.offset != 0 || e.pitch != 0
  | _ => true

/-- Formats of a transfer that is not RAW. -/
def dmaFmts (d : DmaDesc) : Option (Fmt × Fmt) :=
  match fmtOfCode (fwSrc d.fmtw), fmtOfCode (fwDst d.fmtw) with
  | some a, some b => some (a, b)
  | _, _ => none

/-- Whether the transfer converts (R182, R183): not RAW and not a byte copy. -/
def dmaConverts (d : DmaDesc) : Bool :=
  !d.raw && match dmaFmts d with
    | some (a, b) => a != b || fwTscale d.fmtw
    | none => false

/-- Blocks in `len` bytes of stored rows: the number `n` whose stored size is `len`, if there is one. -/
def blocksIn (f : Fmt) (len : Nat) : Option Nat :=
  -- a group of 16 blocks takes 16 + 16 * blockBytes bytes
  let g := 16 + 16 * f.blockBytes
  let n := if f.scaleWord then len / g * 16 + (len % g - 16) / f.blockBytes else len / f.blockBytes
  if f.stored n = len then some n else none

/-- Size of a destination row (R182): LENGTH, or the stored size of the source's blocks in DST_FMT. -/
def dmaDstRow (d : DmaDesc) : Nat :=
  if dmaConverts d then
    match dmaFmts d with
    | some (a, b) => match blocksIn a d.length.toNat with
      | some n => b.stored n
      | none => 0
    | none => 0
  else d.length.toNat

/-- Bytes of an extent: `(ROWS − 1) × PITCH + row`; nothing when the descriptor moves nothing. -/
def dmaExtent (d : DmaDesc) (e : Endpoint) (row : Nat) : Nat :=
  if d.rows = 0 ∨ d.length = 0 then 0 else (d.rows.toNat - 1) * e.pitch.toNat + row

/-- Element size of an atomic opcode. -/
def dmaElem (op : Nat) : Nat := if op = 5 then 8 else 4

/-- Whether PROBE must be 1 (R184). -/
def dmaProbeReq (d : DmaDesc) : Bool :=
  !d.raw && fwTscale d.fmtw && match dmaFmts d with
    | some (_, b) => b.eight
    | none => false

/-- The checks of Table 7.5 that need no tensor and no ring record. -/
def dmaCheck (op : Nat) (d : DmaDesc) : List Half :=
  let sk := epKind d.src
  let dk := epKind d.dst
  let el := dmaElem op
  let atomic := op != 1
  let int := op = 3 || op = 4 || op = 5
  let moves := d.rows != 0 && d.length != 0
  let conv := dmaConverts d
  let f := dmaFmts d
  chk (op = 0 || 5 < op || epReserved d.src || epReserved d.dst || sk == 2 || (dk == 2 && op != 1)
    || (d.raw && (d.fmtw != 0 || d.ebase != 0)) || (!d.raw && int)
    || (d.ebase != 0 && (d.raw || !fwGrad d.fmtw))
    || (d.probe != dmaProbeReq d)) stField
  ++ (if d.raw then [] else fwCheck d.fmtw)
  ++ chk (op = 2 && (d.raw || fwDst d.fmtw != 9 || (f.elim true (fun p => p.1.lowBit)) || fwGrad d.fmtw || fwTscale d.fmtw)) stFmt
  ++ chk ((sk == 1 && 183 < epSlot d.src) || ((dk == 1 || dk == 2) && 183 < epSlot d.dst)
    || (sk == 1 && lsSize < epOff d.src + dmaExtent d d.src d.length.toNat)
    || (sk == 1 && lsSize ≤ epOff d.src)
    || (dk == 1 && (lsSize < epOff d.dst + dmaExtent d d.dst (dmaDstRow d) || lsSize ≤ epOff d.dst))
    || (moves && dk != 2 && 1 < d.rows.toNat && d.dst.pitch.toNat < dmaDstRow d)
    || (conv && match f with
        | some (a, _) => (blocksIn a d.length.toNat).isNone
        | none => false)
    || (atomic && (epOff d.dst % el != 0 || d.dst.pitch.toNat % el != 0))
    || (int && (d.length.toNat % el != 0 || epOff d.src % el != 0 || d.src.pitch.toNat % el != 0))
    || (op = 2 && !conv && d.length.toNat % 4 != 0)
    || (fwGrad d.fmtw && 2 ^ 43 ≤ d.ebase.toNat + d.rows.toNat *
        (match f with
          | some (a, _) => (blocksIn a d.length.toNat).getD 0
          | none => 0))) stLen

/-! ### Ring records (Table 7.1) -/

/-- A ring record from its 16 bytes, and the statuses of R172 that apply. -/
def ringParse (w : BitVec k) (b : Nat) : Ring × List Half :=
  let f (lo n : Nat) : Nat := fld w (8 * b + lo) n
  let en := f 0 1 == 1
  let r : Ring := { en := en, slots := f 8 8, uses := f 16 8, base := f 32 18, slotRows := f 64 16, rowWords := f 80 16,
                    st := List.replicate (f 8 8) .free }
  if en then
    (r, chk (f 1 7 != 0 || f 24 8 != 0 || f 50 14 != 0 || f 96 32 != 0) stField
      ++ chk (r.slots < 3 || 16 < r.slots || r.uses < 1 || 16 < r.uses || r.slotRows < 1 || 4096 < r.slotRows
        || r.rowWords < 1 || 64 < r.rowWords
        || lsSize < (r.base + r.slots * r.slotRows * r.rowWords) * 16) stLen)
  else ({}, chk (f 0 128 != 0) stField)

/-- Start and length in bytes of a configured ring's region (R173). -/
def ringRegion (r : Ring) : Nat × Nat := (r.base * 16, r.slots * r.slotRows * r.rowWords * 16)

/-- Two extents share a byte. -/
def overlap (a b : Nat × Nat) : Bool := a.1 < b.1 + b.2 && b.1 < a.1 + a.2 && a.2 != 0 && b.2 != 0

/-! ### Stream instructions (Tables 9.7, 9.8) -/

/-- A stream instruction from its 16 bytes: the opcode, the fields, and that a reserved bit or byte is
nonzero. -/
def streamParse (w : BitVec 128) : Nat × StreamInst × Bool :=
  (fld w 0 8,
   { vguard := w.getLsbD 8, variant := w.getLsbD 9, dwguard := w.getLsbD 10, layer := BitVec.ofNat 16 (fld w 16 16),
     name := BitVec.ofNat 16 (fld w 32 16), a := BitVec.ofNat 32 (fld w 64 32), b := BitVec.ofNat 32 (fld w 96 32) },
   fld w 11 5 != 0 || fld w 48 16 != 0)

/-- Unit codes of Table 9.6. -/
def unitOk (u : Nat) : Bool := u < 24 || (32 ≤ u && u < 35) || u = 48 || (56 ≤ u && u < 62)

/-- The checks of Table 9.9 on one instruction of stream `st` (0 root, t + 1 tile t): reserved and unused
fields, counters and weirs out of range. END elsewhere and counts over paths are checked over the stream. -/
def streamCheck (st op : Nat) (i : StreamInst) (layers weirs : Nat) : List Half :=
  let a := i.a
  let lo8 := fld a 0 8
  chk (op = 0 || 7 < op
    || (!i.vguard && i.variant) || (!i.vguard && !i.dwguard && i.layer != 0)
    || (match op with
        | 1 => !unitOk lo8 || (st = 0 && lo8 < 48) || (st != 0 && 48 ≤ lo8)
        | 2 => fld a 8 24 != 0 || st = 0 || lo8 = 255
        | 3 => fld a 6 26 != 0
        | 4 => fld a 12 20 != 0 || fld a 0 12 = 0 || weirs < fld a 0 12
        | 5 => fld a 12 20 != 0 || fld a 0 12 = 0 || weirs < fld a 0 12 || i.b != 0
        | 6 => fld a 6 26 != 0 || fld a 0 6 < 32
        | 7 => a != 0 || i.b != 0
        | _ => false)) stField
  ++ chk ((i.vguard || i.dwguard) && layers ≤ i.layer.toNat) stLen

end Sys2Proof.Machine
end

