-- ==== Sys2Proof/Machine/Program.lean ====
section
/-! DEFINITION. The schedule program in its image (R230 to R236): headers, sections, segments, descriptors,
and the assembly of slot programs under the layers' modes. -/

namespace Sys2Proof.Machine

/-! ### Image access (R230) -/

/-- `n` bytes at an image offset, as a number. -/
def imgNat (s : State) (p : Prog) (off n : Nat) : Nat := memNat s p.handle (p.off + off) n
/-- A 64-byte item of the image. -/
def imgCmd (s : State) (p : Prog) (off : Nat) : Cmd := BitVec.ofNat 512 (imgNat s p off 64)
/-- A 16-byte item of the image. -/
def img128 (s : State) (p : Prog) (off : Nat) : BitVec 128 := BitVec.ofNat 128 (imgNat s p off 16)

/-- The program that the header at handle:off describes (Table 9.2), with the FROZEN bits of its layer table. -/
def progOf (s : State) (handle off len : Nat) : Prog :=
  let b (o n : Nat) : Nat := memNat s handle (off + o) n
  { frozen := (List.range (min 2048 (b 4 2))).filter (fun l => b (b 0x24 4 + 16 * l) 1 % 2 == 1),
    handle := handle, off := off, len := len, shape := b 1 1, reach := b 2 1, layers := b 4 2, weirs := b 6 2,
    seed := BitVec.ofNat 64 (b 8 8), stepLimit := b 0x14 4, runRec := b 0x18 4 % 2 ^ 24, layerRec := b 0x1c 4 % 2 ^ 24,
    wideRes := b 0x20 4 % 2 ^ 24, scaleRec := b 0x40 4 % 2 ^ 24, layerOff := b 0x24 4, weirOff := b 0x28 4,
    rootOff := b 0x2c 4, tileOff := [b 0x30 4, b 0x34 4, b 0x38 4, b 0x3c 4] }

/-- Dimensions X, Y and Z of the program's shape (Table 9.2). -/
def shapeX (p : Prog) : Nat := 2 ^ (p.shape % 4)
def shapeY (p : Prog) : Nat := 2 ^ (p.shape / 4 % 4)
def shapeZ (p : Prog) : Nat := 2 ^ (p.shape / 16 % 4)
/-- Devices of the reach. -/
def shapeD (p : Prog) : Nat := shapeX p * shapeY p * shapeZ p
/-- DOUBLED. -/
def shapeDoubled (p : Prog) : Bool := p.shape / 64 % 2 == 1

/-- Ports that the shape uses (Table 1.7). -/
def shapePorts (p : Prog) : List Nat :=
  (if 1 < shapeX p then [0, 1] else []) ++ (if 1 < shapeY p then [2, 3] else [])
    ++ (if 1 < shapeZ p || shapeDoubled p then [4, 5] else [])

/-! ### Layers and weirs (R232, R233) -/

/-- FLAGS of a layer entry: FROZEN, which is taken when the program is loaded (R154), and ADAPTER. -/
def layerFrozen (p : Prog) (l : Nat) : Bool := p.frozen.contains l
def layerAdapter (s : State) (p : Prog) (l : Nat) : Bool := imgNat s p (p.layerOff + 16 * l) 1 / 2 % 2 == 1

/-- SCOPE of weir `w`: reach (weir 0 always). -/
def weirReach (s : State) (p : Prog) (w : Nat) : Bool :=
  w = 0 || imgNat s p (p.weirOff + 4 * (w - 1)) 4 % 2 == 1

/-- Byte `o` of layer `l`'s record in the committed version (Table 5.5). -/
def layerKey (p : Prog) (l o : Nat) : Nat := tkey p.layerRec (96 * l + o)
def layerByte (s : State) (p : Prog) (l o : Nat) : Byte := memByte s (layerKey p l o)
def layerNat (s : State) (p : Prog) (l o n : Nat) : Nat := memNat s p.layerRec (96 * l + o) n
/-- MODE of a layer (Table 5.5, FLAGS [2]). -/
def layerWide (s : State) (p : Prog) (l : Nat) : Bool := (layerByte s p l 7).getLsbD 2

/-- The boundary sets which layers run their wide variant in the next step, and the reserve base of each: the WIDE_PAGES of
the lower layers with MODE = 1, in bytes (R141, Table 5.5). -/
def setWide (s : State) (p : Prog) : State :=
  let w := ((List.range p.layers).filter (layerWide s p)).foldl
    (fun (a : List (Nat × Nat) × Nat) l => (a.1 ++ [(l, a.2)], a.2 + layerNat s p l 0x0c 4 * 4096)) ([], 0)
  { s with seq := { s.seq with wide := w.1 } }

/-- Layer `l` runs its wide variant in this step. -/
def runsWide (s : State) (l : Nat) : Bool := s.seq.wide.any (fun e => e.1 == l)

/-! ### Sections, units and streams (R234, R237, R238) -/

/-- Offset of the section of stream `st`: 0 root, t + 1 tile t. -/
def secOff (p : Prog) (st : Nat) : Nat := if st = 0 then p.rootOff else p.tileOff.getD (st - 1) 0
/-- STREAM_OFF and STREAM_LEN. -/
def streamOff (s : State) (p : Prog) (st : Nat) : Nat := imgNat s p (secOff p st) 4
def streamLen (s : State) (p : Prog) (st : Nat) : Nat := imgNat s p (secOff p st + 4) 4
/-- UNIT_OFF. -/
def unitTab (s : State) (p : Prog) (st : Nat) : Nat := imgNat s p (secOff p st + (if st = 0 then 8 else 12)) 4
/-- SLOT_OFF of a tile section. -/
def slotTab (s : State) (p : Prog) (t : Nat) : Nat := imgNat s p (secOff p (t + 1) + 8) 4
/-- List offset and length of unit `u` as stream `st` names it. -/
def unitOff (s : State) (p : Prog) (st u : Nat) : Nat := imgNat s p (unitTab s p st + 8 * (if st = 0 then u - 48 else u)) 4
def unitLen (s : State) (p : Prog) (st u : Nat) : Nat := imgNat s p (unitTab s p st + 8 * (if st = 0 then u - 48 else u) + 4) 4
/-- Descriptor `i` of unit `u`. -/
def unitDesc (s : State) (p : Prog) (st u i : Nat) : Cmd := imgCmd s p (unitOff s p st u + 64 * i)
/-- Stream instruction `i`. -/
def streamInst (s : State) (p : Prog) (st i : Nat) : BitVec 128 := img128 s p (streamOff s p st + 16 * i)

/-! ### Slots and segments (R235, R236) -/

/-- Offset of slot `k`'s entry on tile `t`. -/
def slotEnt (s : State) (p : Prog) (t k : Nat) : Nat := slotTab s p t + 128 * k
/-- The four ring records and the statuses of R172. -/
def slotRings (s : State) (p : Prog) (t k : Nat) : List (Ring × List Half) :=
  (List.range 4).map (fun r => ringParse (img128 s p (slotEnt s p t k + 16 * r)) 0)
/-- SEG_OFF and SEGS. -/
def segOff (s : State) (p : Prog) (t k : Nat) : Nat := imgNat s p (slotEnt s p t k + 64) 4
def segCount (s : State) (p : Prog) (t k : Nat) : Nat := imgNat s p (slotEnt s p t k + 68) 4

/-- A segment header (R236). -/
structure Seg where
  layer : Nat := 0
  var : Nat := 0
  dw : Bool := false
  rsvd : Bool := false
  ninstr : Nat := 0
  ndesc : Nat := 0
  off : Nat := 0
deriving DecidableEq, Repr

/-- Segment `j` of a slot. -/
def segAt (s : State) (p : Prog) (t k j : Nat) : Seg :=
  let w := img128 s p (segOff s p t k + 16 * j)
  { layer := fld w 0 16, var := fld w 16 2, dw := w.getLsbD 18, rsvd := fld w 19 5 != 0 || fld w 24 8 != 0,
    ninstr := fld w 32 32, ndesc := fld w 64 32, off := fld w 96 32 }

/-- The segments of a slot in list order. -/
def segs (s : State) (p : Prog) (t k : Nat) : List Seg := (List.range (segCount s p t k)).map (segAt s p t k)

/-- Whether a segment belongs to the assembled program (R236): `wide l` is the layer's MODE. -/
def segIn (p : Prog) (wide : Nat → Bool) (g : Seg) : Bool :=
  !(g.var = 1 && wide g.layer) && !(g.var = 2 && !wide g.layer) && !(g.dw && layerFrozen p g.layer)

/-- Array instructions of a segment, TARGET relative to the segment. -/
def segInstrs (s : State) (p : Prog) (g : Seg) : List (Nat × ArrInst × Bool) :=
  (List.range g.ninstr).map (fun i => arrParse (img128 s p (g.off + 16 * i)))
/-- Row descriptors of a segment, POS relative to the segment. -/
def segRows (s : State) (p : Prog) (g : Seg) : List (Nat × RowDesc × Bool) :=
  (List.range g.ndesc).map (fun i => rowParse (imgCmd s p (g.off + 16 * g.ninstr + 64 * i)))

/-- An instruction of a segment that begins at `base` of the assembled program. -/
def rebase (base : Nat) (x : Nat × ArrInst × Bool) : ArrOp :=
  { op := x.1, i := if x.1 = 6 || x.1 = 7 then { x.2.1 with target := x.2.1.target + BitVec.ofNat 12 base } else x.2.1 }

/-- A row descriptor of such a segment. -/
def rebaseRow (base : Nat) (x : Nat × RowDesc × Bool) : RowOp :=
  { op := x.1, d := { x.2.1 with pos := x.2.1.pos + BitVec.ofNat 12 base } }

/-- The assembled array program and row program of a slot (R236). -/
def assemble (s : State) (p : Prog) (wide : Nat → Bool) (t k : Nat) : List ArrOp × List RowOp :=
  ((segs s p t k).filter (segIn p wide)).foldl (fun acc g =>
    (acc.1 ++ (segInstrs s p g).map (rebase acc.1.length), acc.2 ++ (segRows s p g).map (rebaseRow acc.1.length))) ([], [])

/-- Writes slot `k` of tile `t` into array `a`: the program, the ring records, the counters at the start of a
step. -/
def slotWrite (s : State) (p : Prog) (wide : Nat → Bool) (t k a : Nat) : State :=
  let pr := assemble s p wide t k
  let rg := (slotRings s p t k).map (·.1)
  arrMod s a (fun r =>
    { r with prog := pr.1, rprog := pr.2, rings := rg, slot := some k, pc := 0, mrow := 0, waitRing := none, weir := none,
             lctr := [0, 0, 0, 0], dpc := 0 })

/-! ### Usable arrays and the array map (R65) -/

/-- BLK_CAP USABLE: none while the identity record's signature fails (R418). -/
def arrUsable (s : State) (a : Nat) : Bool := s.fit.idSigOk && !s.fit.badArrays.contains a
/-- Usable for scheduling: USABLE, not excluded and not dark (R65). -/
def arrAvail (s : State) (a : Nat) : Bool :=
  arrUsable s a && (arrGet s a).st != .dark && (arrGet s a).st != .excluded && !(stageGet s (tileOf a)).fault
/-- The usable arrays of a tile, in increasing physical index. -/
def tileArrays (s : State) (t : Nat) : List Nat := ((List.range 192).map (fun k => t * 192 + k)).filter (arrAvail s)

/-- Forgets the slots of every array. -/
def clearSlots (s : State) : State :=
  { s with arr := s.arr.filterMap (fun e =>
      let r : Arr :=
        { e.2 with slot := none, prog := [], rprog := [], rings := [{}, {}, {}, {}], pc := 0, mrow := 0,
                   waitRing := none, weir := none, dpc := 0, lctr := [0, 0, 0, 0] }
      if r = ({} : Arr) then none else some (e.1, r)) }

/-- Assigns slots 0 to 183 of each tile and writes their programs (R65, R55). -/
def assignSlots (s : State) (p : Prog) (wide : Nat → Bool) : State :=
  let s := clearSlots s
  (List.range 4).foldl (fun s t =>
    let av := tileArrays s t
    (List.range 184).foldl (fun s k => slotWrite s p wide t k (av.getD k 0)) s) s

/-- Assembles again the program of every slot, for boundaries at which modes changed (Table 9.1). -/
def reassemble (s : State) (p : Prog) (wide : Nat → Bool) : State :=
  (List.range 768).foldl (fun s a =>
    match (arrGet s a).slot with
    | some k =>
      let pr := assemble s p wide (tileOf a) k
      if pr.1 = (arrGet s a).prog ∧ pr.2 = (arrGet s a).rprog then s
      else bump (arrMod s a (fun r => { r with prog := pr.1, rprog := pr.2 })) .seqT (tileOf a) 0xc20 1
    | none => s) s

end Sys2Proof.Machine
end

