-- ==== Sys2Proof/Machine/Arrays.lean ====
section
/-! DEFINITION. The array instructions (R38 to R60): plane loads, product passes, drains, weir arrivals and
loops. -/

namespace Sys2Proof.Machine

/-- An array executes while it runs in a running step (R60, R252). -/
def arrRuns (s : State) (a : Nat) : Bool := (arrGet s a).st == .running && s.seq.dev == .running

/-- Layer and weir counts of the loaded program; none loaded allows any number that the field holds. -/
def progLayers (s : State) : Nat := match s.seq.prog with
  | some p => p.layers
  | none => 2048
def progWeirs (s : State) : Nat := match s.seq.prog with
  | some p => p.weirs
  | none => 4095

/-- The first row descriptor that is not placed before instruction `n` (R160). -/
def rowFrom (rp : List RowOp) (n : Nat) : Nat := rp.findIdx (fun o => decide (n ≤ o.d.pos.toNat))

/-- The array program goes on at instruction `n`, before which the row descriptors of that POS run (R58, R160). -/
def arrGoto (r : Arr) (n : Nat) : Arr := { r with pc := n, mrow := 0, waitRing := none, dpc := rowFrom r.rprog n }

/-- The instruction has completed; the next one in program order follows (R58). -/
def arrNext (r : Arr) : Arr := arrGoto r (r.pc + 1)

/-- The row descriptor that runs next, immediately before the instruction at the program counter (R160). -/
def rowDue (r : Arr) : Option RowOp := r.rprog[r.dpc]?.filter (fun o => o.d.pos.toNat == r.pc)

/-- Array `a` executes instruction `i` next: it runs, the instruction is the one in program order, and every row
descriptor placed before it has run (R58, R160). -/
def arrAt (s : State) (a op : Nat) (i : ArrInst) : Bool :=
  arrRuns s a && (arrGet s a).prog[(arrGet s a).pc]? == some { op := op, i := i } && (rowDue (arrGet s a)).isNone

/-! ### LDP (R40 to R42) -/

/-- Bits `[lo + w - 1 : lo]` of a cell replaced by a code. -/
def cellPut (c : BitVec 512) (lo w code : Nat) : BitVec 512 :=
  let m : BitVec 512 := BitVec.ofNat 512 (2 ^ w - 1) <<< lo
  (c &&& ~~~m) ||| (BitVec.ofNat 512 (code % 2 ^ w) <<< lo)

/-- Scale-store position of a plane: its first two-bit plane position (Table 2.1). -/
def scalePos (f : Fmt) (p : Nat) : Nat := p * f.bits / 2

/-- Cell (k, n) after a plane load: its narrow code, and its byte of the wide region when the image has wide
blocks (R39 to R41). -/
def ldpCell (f : Fmt) (p : Nat) (img : PImg) (anyWide : Bool) (k n : Nat) (c : BitVec 512) : BitVec 512 :=
  let b := img.blocks.getD (3 * n + k / 32) {}
  let c := cellPut c (p * f.bits) f.bits (if b.wide then 0 else b.codes.getD (k % 32) 0)
  if anyWide then cellPut c 504 8 (if b.wide then b.codes.getD (k % 32) 0 else 0) else c

/-- The plane load of R40 to R42 on the array's stores. -/
def ldpPlane (r : Arr) (f : Fmt) (code p oslot : Nat) (img : PImg) : Arr :=
  let w := img.blocks.any (·.wide)
  let sp := scalePos f p * 288
  { r with
    cells := asetR (fun _ => 0) r.cells 0 9216 (fun key => ldpCell f p img w (key / 96) (key % 96) (aget (fun _ => 0) r.cells key))
    scales := if f.scaled then asetR (fun _ => 0) r.scales sp 288 (fun key => (img.blocks.getD (key - sp) {}).scale) else r.scales
    wides := asetR (fun _ => false) r.wides sp 288 (fun key => (img.blocks.getD (key - sp) {}).wide)
    oslots := if f.lowBit then aset (fun _ => []) r.oslots oslot img.entries else r.oslots
    planes := aset (fun _ => ({} : PlaneInfo)) r.planes p { fmt := code, oslot := oslot, nan := img.bad } }

/-- Effect of LDP. -/
def ldpEffect (a : Nat) (i : ArrInst) (f : Fmt) (s : State) : State :=
  let r := arrGet s a
  let img := readPlane f (lsRead r (i.addr.toNat * 16) (ldpExtent f))
  let r := ldpPlane r f i.fmt.toNat i.plane.toNat i.oslot.toNat img
  let s := arrSet s a (arrNext r)
  if img.bad then setInt (bump s .arr a 0xc48 1) .arr a 8 else s

/-! ### Product passes (R41, R43 to R47) -/

/-- One streamed row: 96 element values without their block scale, and the three scale codes (R44, R149). -/
structure SRow where
  el : List Num := []
  sx : List Byte := []
deriving DecidableEq, Repr

/-- Elements and scale code of block `b` of the stored tensor at byte `base` of the local store. -/
def lsBlock (r : Arr) (f : Fmt) (base b : Nat) : List Num × Byte :=
  ((f.codes (lsRead r (base + f.blockOff b) f.blockBytes)).map f.ff.dec,
   if f.scaled then lsByte r (base + f.scaleOff b) else 0x78)

/-- Three consecutive blocks as a streamed row. -/
def lsRow (r : Arr) (f : Fmt) (base b : Nat) : SRow :=
  let x0 := lsBlock r f base b
  let x1 := lsBlock r f base (b + 1)
  let x2 := lsBlock r f base (b + 2)
  { el := x0.1 ++ x1.1 ++ x2.1, sx := [x0.2, x1.2, x2.2] }

/-- Element `j` of the stored row at byte `base`, times its own block scale (R149). -/
def portElem (r : Arr) (f : Fmt) (base j : Nat) : Num :=
  let x := lsBlock r f base (j / 32)
  let v := x.1.getD (j % 32) .nan
  if f.scaled then (if x.2 = 0xff then .nan else v.mul (s8V x.2)) else v

/-- Streamed row `m` of an instruction whose source is not a ring (R44, R148). -/
def streamRow (r : Arr) (i : ArrInst) (f : Fmt) (m : Nat) : SRow :=
  let base := i.addr.toNat * 16
  if i.src = 2 then
    { el := (List.range 96).map (fun q => portElem r f (base + q * (i.pitch.toNat * 16)) m), sx := [0x78, 0x78, 0x78] }
  else lsRow r f base (3 * m)

/-- The row at a ring's read position (R173, R176). -/
def ringRow (r : Arr) (g : Ring) (f : Fmt) : SRow :=
  lsRow r f ((g.base + (g.head * g.slotRows + g.rpos) * g.rowWords) * 16) 0

/-- The ring after one row read (R176). -/
def ringAdvance (g : Ring) : Ring :=
  if g.rpos + 1 < g.slotRows then { g with rpos := g.rpos + 1 }
  else if g.ucnt + 1 < g.uses then { g with rpos := 0, ucnt := g.ucnt + 1 }
  else { g with rpos := 0, ucnt := 0, st := g.st.set g.head .free, head := (g.head + 1) % g.slots }

/-- A run: its value, that a product lost bits in alignment, that it is NaN or infinite (R45, R46). -/
structure RunOut where
  v : Num := .fin false 0 0
  loss : Bool := false
deriving DecidableEq, Repr

/-- `⌊log2 |p|⌋` of a nonzero finite product. -/
def numExp : Num → Int
  | .fin _ m e => (m.log2 : Int) + e
  | _ => 0

/-- The narrow run of R45 and R46. -/
def runOf (ps : List Num) : RunOut :=
  if ps.any Num.isNaN then { v := .nan }
  else if ps.any (· == .inf true) && ps.any (· == .inf false) then { v := .nan }
  else if ps.any Num.isInf then { v := .inf (ps.any (· == .inf true)) }
  else
    match ps.filter (fun p => !p.isZero) with
    | [] => {}
    | p :: r =>
      let em := r.foldl (fun a q => max a (numExp q)) (numExp p)
      let q (x : Num) : Int := match x with
        | .fin s m e => rneInt s m (e + 16 - em)
        | _ => 0
      let exact (x : Num) : Bool := match x with
        | .fin _ m e => (scaleRat m 1 (e + 16 - em)).2.1 == 0
        | _ => true
      let sum := (p :: r).foldl (fun a x => a + q x) 0
      { v := .fin (decide (sum < 0)) sum.natAbs (em - 16), loss := (p :: r).any (fun x => !exact x) }

/-- What a product pass reads of a resident plane: code and wide byte of cell (k, n), scale code and wide
flag of block 3n + b, the entries, the format, and that the image had an error. -/
structure PlaneView where
  fmt : Fmt
  pos : Nat
  lo : Nat
  r : Arr
  entries : List Word
  nan : Bool

/-- Value of cell (k, n) in the pass over the narrow blocks: zero in a wide block (R41). -/
def PlaneView.w (v : PlaneView) (k n : Nat) : Num :=
  if aget (fun _ => false) v.r.wides (v.pos * 288 + 3 * n + k / 32) then .fin false 0 0
  else planeCodeV v.fmt (fld (aget (fun _ => 0) v.r.cells (k * 96 + n)) v.lo v.fmt.bits)

/-- F8A value of cell (k, n) in the pass over the wide region: zero in a narrow block (R41). -/
def PlaneView.wideW (v : PlaneView) (k n : Nat) : Num :=
  if aget (fun _ => false) v.r.wides (v.pos * 288 + 3 * n + k / 32) then
    fF8A.dec (fld (aget (fun _ => 0) v.r.cells (k * 96 + n)) 504 8)
  else .fin false 0 0

/-- Wide flag of block `3n + b`. -/
def PlaneView.isWide (v : PlaneView) (n b : Nat) : Bool := aget (fun _ => false) v.r.wides (v.pos * 288 + 3 * n + b)

/-- Scale of block `3n + b`: 1.0 in a format without scales, NaN where the block is invalid. -/
def PlaneView.sc (v : PlaneView) (n b : Nat) : Num :=
  if v.fmt.scaled then
    let c := aget (fun _ => 0) v.r.scales (v.pos * 288 + 3 * n + b)
    if c = 0xff then .nan else s8V c
  else .fin false 1 0

/-- Counts of one product pass: alignment losses, NaN runs and infinite runs. -/
structure PassCnt where
  loss : Nat := 0
  nan : Nat := 0
  inf : Nat := 0
deriving DecidableEq, Repr

def PassCnt.add (a b : PassCnt) : PassCnt := ⟨a.loss + b.loss, a.nan + b.nan, a.inf + b.inf⟩

/-- Scale of streamed block `b`, NaN where invalid. -/
def SRow.s (x : SRow) (b : Nat) : Num :=
  let c := x.sx.getD b 0x78
  if c = 0xff then .nan else s8V c

/-- The promoted value u of a run with scale product `t` (R46, R47), and the counts. An infinite run with a NaN scale counts as
a NaN run only (assumption 114). -/
def promote (ro : RunOut) (t : Num) : F32 × PassCnt :=
  let u := ((f32V ro.v.toF32).mul t).toF32
  (u, { loss := if ro.loss then 1 else 0, nan := if ro.v.isNaN || t.isNaN then 1 else 0,
        inf := if ro.v.isInf && !t.isNaN then 1 else 0 })

/-- Run, scale product and outliers of segment `b` of output `j` in MMF (`fwd`) or MMT (R43, R45). A wide block's own scale
does not enter the two-bit pass (assumption 112). -/
def segRun (v : PlaneView) (x : SRow) (fwd : Bool) (j b : Nat) : RunOut × Num :=
  let idx := List.range 32
  if fwd then
    (runOf (idx.map (fun i => (v.w (32 * b + i) j).mul (x.el.getD (32 * b + i) .nan))),
     (if v.isWide j b then .fin false 1 0 else v.sc j b).mul (x.s b))
  else
    (runOf (idx.map (fun i =>
      let n := 32 * b + i
      let w := v.w j n
      ((if v.isWide n (j / 32) then w else w.mul (v.sc n (j / 32)))).mul (x.el.getD n .nan))),
     x.s b)

/-- Entries of segment `b` of output `j`, in increasing index (R47). -/
def segOutliers (v : PlaneView) (fwd : Bool) (j b : Nat) : List Word :=
  if fwd then v.entries.filter (fun e => entCol e == j && entBlk e == b)
  else v.entries.filter (fun e => entBlk e * 32 + entIdx e == j && entCol e / 32 == b)

/-- Position of an entry's streamed value. -/
def outlierPos (fwd : Bool) (e : Word) : Nat := if fwd then entBlk e * 32 + entIdx e else entCol e

/-- The promotion loop of R47 over the three segments. -/
def promoteLoop (v : PlaneView) (x : SRow) (fwd accum : Bool) (j : Nat) (acc0 : F32) : F32 × PassCnt :=
  (List.range 3).foldl (fun st b =>
    let (ro, t) := segRun v x fwd j b
    let (u, c) := promote ro t
    let acc := if b = 0 ∧ accum = false then u else fadd st.1 u
    let acc := (segOutliers v fwd j b).foldl (fun acc e =>
      fadd acc (((b16V (entVal e)).mul ((x.el.getD (outlierPos fwd e) .nan).mul (x.s b))).toF32)) acc
    (acc, st.2.add c)) (acc0, {})

/-- The pass over the wide region (R41): segments with a wide weight, added in order. -/
def wideLoop (v : PlaneView) (x : SRow) (fwd : Bool) (j : Nat) (st0 : F32 × PassCnt) : F32 × PassCnt :=
  (List.range 3).foldl (fun st b =>
    let has := if fwd then v.isWide j b else (List.range 32).any (fun i => v.isWide (32 * b + i) (j / 32))
    if has then
      let ro := if fwd then runOf ((List.range 32).map (fun i => (v.wideW (32 * b + i) j).mul (x.el.getD (32 * b + i) .nan)))
        else runOf ((List.range 32).map (fun i =>
          let n := 32 * b + i
          let w := v.wideW j n
          (if v.isWide n (j / 32) then w.mul (v.sc n (j / 32)) else w).mul (x.el.getD n .nan)))
      let t := if fwd then (v.sc j b).mul (x.s b) else x.s b
      let (u, c) := promote ro t
      (fadd st.1 u, st.2.add c)
    else st) st0

/-- One output element of a pass; over a plane whose image had too many entries it is NaN, and no run counts (R42,
assumption 113). -/
def passElem (v : PlaneView) (anyWide : Bool) (x : SRow) (fwd accum : Bool) (j : Nat) (acc0 : F32) : F32 × PassCnt :=
  if v.nan then (f32NaN, {})
  else
    let st := promoteLoop v x fwd accum j acc0
    if anyWide then wideLoop v x fwd j st else st

/-- The plane that PLANE names: the latest LDP's format and slot (R481). -/
def planeView (r : Arr) (p : Nat) : PlaneView :=
  let q := aget (fun _ => {}) r.planes p
  let f := (fmtOfCode q.fmt).getD .t2
  { fmt := f, pos := scalePos f p, lo := p * f.bits, r := r, nan := q.nan,
    entries := if f.lowBit then aget (fun _ => []) r.oslots q.oslot else [] }

/-- One row of a pass into accumulator row `row`. -/
def passRow (r : Arr) (v : PlaneView) (anyWide : Bool) (x : SRow) (fwd accum : Bool) (row : Nat) : Arr × PassCnt :=
  let outs := (List.range 96).map (fun j => passElem v anyWide x fwd accum j (aget (fun _ => 0) r.acc (row * 96 + j)))
  ({ r with acc := asetR (fun _ => 0) r.acc (row * 96) 96 (fun k => (outs.getD (k - row * 96) (0, {})).1) },
   outs.foldl (fun c o => c.add o.2) {})

/-- The rows of a pass from row `m` on, as far as a ring's slots allow (R44, R176): the array, the counts,
and the row reached. -/
def passRows (v : PlaneView) (anyWide : Bool) (i : ArrInst) (f : Fmt) (fwd : Bool) : Nat → Nat → Arr → PassCnt → Arr × PassCnt × Nat
  | 0, m, r, c => (r, c, m)
  | k + 1, m, r, c =>
    if i.src = 1 then
      let g := r.rings.getD i.ring.toNat {}
      if g.st.getD g.head .free == .full then
        let (r, c2) := passRow r v anyWide (ringRow r g f) fwd i.accum (i.acc.toNat + m)
        passRows v anyWide i f fwd k (m + 1) { r with rings := r.rings.set i.ring.toNat (ringAdvance g) } (c.add c2)
      else (r, c, m)
    else
      let (r, c2) := passRow r v anyWide (streamRow r i f m) fwd i.accum (i.acc.toNat + m)
      passRows v anyWide i f fwd k (m + 1) r (c.add c2)

/-- Effect of MMF (`fwd`) and MMT: the rows that can be read are passed; the instruction completes when all
have been, and otherwise waits at its ring (R176). -/
def mmEffect (fwd : Bool) (a : Nat) (i : ArrInst) (f : Fmt) (s : State) : State :=
  let r := arrGet s a
  let v := planeView r i.plane.toNat
  let anyWide := (List.range 288).any (fun b => aget (fun _ => false) r.wides (v.pos * 288 + b)) && v.fmt.lowBit
  let n := i.rows.toNat
  let (r2, c, m) := passRows v anyWide i f fwd (n - r.mrow) r.mrow r {}
  let did := m - r.mrow
  let r3 := if m < n then { r2 with mrow := m, waitRing := some i.ring.toNat } else arrNext r2
  let prods := did * 9216 * (if anyWide then 2 else 1)
  let r3 := { r3 with nanSeen := r.nanSeen || decide (0 < c.nan), products := r.products + prods }
  let s := arrSet s a r3
  let s := bump s .arr a 0xc08 prods
  let s := if anyWide && !(m < n) && n != 0 then bump s .arr a 0xc28 1 else s
  let s := bump (bump (bump s .arr a 0xc30 c.loss) .arr a 0xc38 c.nan) .arr a 0xc40 c.inf
  let s := if i.src = 1 then bump s .grg a (0xc08 + i.ring.toNat * 0x20) did else s
  if c.nan != 0 && !r.nanSeen then setInt s .arr a 2 else s

/-! ### DRN (R50) -/

/-- A value contributes to a norm monitor (R134). -/
def monAdd (m : Monitor) (x : Num) : Monitor :=
  let q := sqF32 x
  { sum := m.sum + BitVec.ofNat 320 (fixed149 q), nan := m.nan || x.isNaN,
    inf := m.inf || x.isInf || (f32V q).isInf, seen := true }

/-- Contributions to monitor `id`. -/
def monFeed (s : State) (id : Nat) (xs : List Num) : State :=
  if xs.isEmpty then s
  else
    let m := xs.foldl monAdd (aget (fun _ => {}) s.seq.monitors id)
    { s with seq := { s.seq with monitors := aset (fun _ => {}) s.seq.monitors id m } }

/-- ADD_F32 of values into consecutive elements of the local store (Table 2.6). -/
def lsAddF32 (r : Arr) (k : Nat) (vs : List F32) : Arr :=
  lsWrite r k ((vs.mapIdx (fun j v => leBytes 4 (fadd (BitVec.ofNat 32 (leNat (lsRead r (k + 4 * j) 4))) v).toNat)).flatten)

/-- Atomic operations on a local store: how many the banks executed, and how many ADD_F32 found one of another source
still queued for their word (R54, Table 2.13). -/
def lsAtomics (s : State) (a n amb : Nat) : State :=
  let s := bump (bump s .arr a 0xc60 n) .arr a 0xc58 (min amb n)
  if min amb n = 0 then s else setInt s .arr a 4

/-- Effect of DRN; `amb` of its atomic adds find an ADD_F32 of another source queued (R54). -/
def drnEffect (a : Nat) (i : ArrInst) (amb : Nat) (f : Fmt) (s : State) : State :=
  let r := arrGet s a
  let n := i.rows.toNat
  let vals := (List.range (n * 96)).map (fun j => aget (fun _ => 0) r.acc (i.acc.toNat * 96 + j))
  let base := i.addr.toNat * 16
  if f = .f32 then
    let r2 := if i.add then lsAddF32 r base vals else lsWrite r base (vals.flatMap (fun v => leBytes 4 v.toNat))
    let s := arrSet s a (arrNext r2)
    let s := if i.add then lsAtomics s a (n * 96) amb else s
    if i.count = 0xffff then s else monFeed s i.count.toNat (vals.map f32V)
  else
    let blocks := (List.range (3 * n)).map (fun b => cnvBlock f ((vals.drop (32 * b)).take 32 |>.map f32V) (fun _ => none))
    let s := arrSet s a (arrNext (lsWrite r base (asmStored f blocks)))
    if i.count = 0xffff then s
    else monFeed s i.count.toNat (blocks.flatMap (fun o => f.decBlock o.scale o.codes))

/-! ### SYN, END, LOOP and NEXT (R55, R60) -/

/-- Slot number l = t * 184 + s of array `a`, if it holds one. -/
def arrSlot (s : State) (a : Nat) : Option Nat := (arrGet s a).slot.map (fun k => tileOf a * 184 + k)

/-- Participant `p` makes one arrival at weir `w` (R243). -/
def arriveAt (s : State) (w p : Nat) : State :=
  let k := w * 1024 + p
  { s with seq := { s.seq with arrived := aset (fun _ => 0) s.seq.arrived k (aget (fun _ => 0) s.seq.arrived k + 1) } }

/-- Eddy level L0 of an array that issued `p` products in the 2048 array clocks before its arrival (R246). -/
def eddyLevel (p : Nat) : Nat := min 64 ((p + 1179647) / 1179648)

/-- An array arrives at weir `w` and waits (R60); the products of its last 2048 clocks are no more than it has issued. -/
def arrArrive (a w p : Nat) (s : State) : State :=
  let s := arrMod s a (fun r => { r with st := .atWeir, weir := some w, eddy := eddyLevel (min p r.products) })
  -- it waits at no more than 1.6 GHz, and rises from there once it runs again (R381, R383)
  let s := reguMod s a (fun r => { r with boost := 0 })
  match arrSlot s a with
  -- the crossings of the array and its row engine up to here, and that of its arrival (R473)
  | some p => crossing .seqT (tileOf a) (crossings .row a (crossings .arr a (arriveAt s w p)))
  | none => s

/-- LOOP (Table 2.8). -/
def loopEffect (a : Nat) (i : ArrInst) (s : State) : State :=
  arrMod s a (fun r =>
    let r := { r with lctr := r.lctr.set i.lctr.toNat i.count.toNat }
    if i.count = 0 then arrGoto r i.target.toNat else arrNext r)

/-- NEXT (Table 2.8): a counter that is idle at 0 stays there, which is the model's choice (assumption 139). -/
def nextEffect (a : Nat) (i : ArrInst) (s : State) : State :=
  arrMod s a (fun r =>
    let c := r.lctr.getD i.lctr.toNat 0 - 1
    let r := { r with lctr := r.lctr.set i.lctr.toNat c }
    if c = 0 then arrNext r else arrGoto r i.target.toNat)

/-! ### Meanings -/

/-- The frame of every array instruction: an operand form that Table 2.9 rejects never runs; an array executes the
instruction that its program holds next, and no other (R58). -/
def arrExec (op a : Nat) (i : ArrInst) (eff : Fmt → State → State) (s : State) : Host.Outcome State Fault Refusal :=
  match pickStatus (arrCheck op i (progLayers s) (progWeirs s)) with
  | 0 => if arrAt s a op i then .next (eff ((fmtOfCode i.fmt.toNat).getD .f32) s) else .next s
  | st => .refused (.rejectedAtLoad st)

/-- LDP (R40 to R42). -/
def execLdp (a : Fin 768) (i : ArrInst) (s : State) : Host.Outcome State Fault Refusal := arrExec 1 a i (ldpEffect a i) s

/-- The plane that a product instruction names and its streamed format are a pair of Table 2.2 (R38, R481). -/
def mmPairs (s : State) (a : Nat) (i : ArrInst) : Bool :=
  match fmtOfCode (aget (fun _ => ({} : PlaneInfo)) (arrGet s a).planes i.plane.toNat).fmt, fmtOfCode i.fmt.toNat with
  | some p, some f => pairOk p f && i.plane.toNat ≤ planeMax p
  | _, _ => false

/-- The checks of a product instruction: those of Table 2.9, and on an array that runs its pairing. -/
def mmCheck (op a : Nat) (i : ArrInst) (s : State) : List Half :=
  arrCheck op i (progLayers s) (progWeirs s) ++ chk (arrRuns s a && !mmPairs s a i) stFmt

/-- A product instruction; one whose pairing Table 2.2 does not give is rejected at load (R38, R481). -/
def mmExec (op : Nat) (fwd : Bool) (a : Nat) (i : ArrInst) (s : State) : Host.Outcome State Fault Refusal :=
  match pickStatus (mmCheck op a i s) with
  | 0 => if arrAt s a op i then .next (mmEffect fwd a i ((fmtOfCode i.fmt.toNat).getD .f32) s) else .next s
  | st => .refused (.rejectedAtLoad st)

/-- MMF (R43 to R47). -/
def execMmf (a : Fin 768) (i : ArrInst) (s : State) : Host.Outcome State Fault Refusal := mmExec 2 true a i s
/-- MMT (R43 to R47). -/
def execMmt (a : Fin 768) (i : ArrInst) (s : State) : Host.Outcome State Fault Refusal := mmExec 3 false a i s
/-- DRN (R50). -/
def execDrn (a : Fin 768) (i : DrnInst) (s : State) : Host.Outcome State Fault Refusal := arrExec 4 a i.toArrInst (drnEffect a i.toArrInst i.amb) s
/-- SYN (R60). -/
def execSyn (a : Fin 768) (i : WeirInst) (s : State) : Host.Outcome State Fault Refusal :=
  arrExec 5 a i.toArrInst (fun _ => arrArrive a i.count.toNat i.p) s
/-- END (R60). -/
def execEndA (a : Fin 768) (i : WeirInst) (s : State) : Host.Outcome State Fault Refusal :=
  arrExec 8 a i.toArrInst (fun _ => arrArrive a 0 i.p) s
/-- LOOP (Table 2.8). -/
def execLoop (a : Fin 768) (i : ArrInst) (s : State) : Host.Outcome State Fault Refusal :=
  arrExec 6 a i (fun _ => loopEffect a i) s
/-- NEXT (Table 2.8). -/
def execNext (a : Fin 768) (i : ArrInst) (s : State) : Host.Outcome State Fault Refusal :=
  arrExec 7 a i (fun _ => nextEffect a i) s

end Sys2Proof.Machine
end

