-- ==== Sys2Proof/Machine/RowEngine.lean ====
section
/-! DEFINITION. The row engine (R158 to R168): normalisation and soft-maximum, forward and backward. -/

namespace Sys2Proof.Machine

/-! ### Sums over a row (R163, R168) -/

/-- Sum of a part in increasing index; an empty part is +0. -/
def fsumL : List F32 → F32
  | [] => 0
  | a :: r => r.foldl fadd a

/-- Part `l` of `k`: elements `l, l + k, …`. -/
def lanePart (v : List F32) (k l : Nat) : List F32 :=
  (List.range ((v.length + k - 1 - l) / k)).map (fun j => v.getD (l + j * k) 0)

/-- lane_sum of R163: 144 parts, combined in the tree of R88. -/
def laneSum (v : List F32) : F32 := sumTree ((List.range 144).map (fun l => fsumL (lanePart v 144 l)))
/-- lane_sum64 of R168: 64 parts, added left to right. -/
def laneSum64 (v : List F32) : F32 := fsumL ((List.range 64).map (fun l => fsumL (lanePart v 64 l)))
/-- The sum of a mode. -/
def rowSum (recomp : Bool) (v : List F32) : F32 := if recomp then laneSum64 v else laneSum v

/-- Maximum of two F32: NaN when either is, +0 above −0. -/
def fmax (a b : F32) : F32 :=
  match f32V a, f32V b with
  | .nan, _ => f32NaN
  | _, .nan => f32NaN
  | x, y => if x.lt y then b else if y.lt x then a else if x.isZero then (if x.sign then b else a) else a

/-! ### Statistics (R163, R166, R168) -/

/-- μ and rstd of NORM. -/
def normStat (recomp : Bool) (x : List F32) (eps : F32) : F32 × F32 :=
  let n := f32OfNat x.length
  if recomp then
    let mu := fdiv (laneSum64 x) n
    let var := fmax (fsub (fdiv (laneSum64 (x.map (fun v => fmul v v))) n) (fmul mu mu)) 0
    (mu, frsqrt (fadd var eps))
  else
    let mu := fdiv (laneSum x) n
    let var := fdiv (laneSum (x.map (fun v => fmul (fsub v mu) (fsub v mu)))) n
    (mu, frsqrt (fadd var eps))

/-- +0 and rstd of RMS; an infinite input gives a NaN rstd, as a NaN input does (R159, R166). -/
def rmsStat (recomp : Bool) (x : List F32) (eps : F32) : F32 × F32 :=
  if x.any (fun v => (f32V v).isInf) then (0, f32NaN)
  else (0, frsqrt (fadd (fdiv (rowSum recomp (x.map (fun v => fmul v v))) (f32OfNat x.length)) eps))

/-- Element `c` of row `r` is unmasked (Table 6.8, MOFF). -/
def unmasked (d : RowDesc) (r c : Nat) : Bool := !d.causal || decide ((c : Int) ≤ (r : Int) + d.moff.toInt)

/-- mx and L of SMAX; an empty row gives −∞ and +0 (R166). -/
def smaxStat (d : RowDesc) (r : Nat) (x : List F32) : F32 × F32 :=
  let u := (x.mapIdx (fun c v => (c, v))).filter (fun p => unmasked d r p.1)
  match u with
  | [] => (f32Inf true, 0)
  | p :: t =>
    let mx := t.foldl (fun a q => fmax a q.2) (fmax p.2 p.2)
    if mx = f32Inf true then (f32Inf true, 0)
    else (mx, flog (rowSum d.recomp (x.mapIdx (fun c v => if unmasked d r c then fexp (fsub v mx) else 0))))

/-- The y of SMAX (R163, R164). -/
def smaxY (d : RowDesc) (r : Nat) (x : List F32) (st : F32 × F32) : List F32 :=
  if st.1 = f32Inf true then x.map (fun _ => 0)
  else x.mapIdx (fun c v => if unmasked d r c then fexp (fsub (fsub v st.1) st.2) else 0)

/-! ### Rows in and out -/

/-- Row `r` at an address and pitch in words, decoded to F32 (R161), and the subnormals flushed. -/
def rowLoad (a : Arr) (f : Fmt) (addr pitch : Word) (r n : Nat) : List F32 × Nat :=
  let nb := (n + 31) / 32
  let bs := lsRead a (addr.toNat * 16 + r * (pitch.toNat * 16)) (f.stored nb)
  let blk := (List.range nb).map (fun b => storedBlock f bs b)
  ((blk.flatMap (fun p => (f.decBlock p.1 p.2).map Num.toF32)).take n,
   if f = .b16 then (blk.map (fun p => p.2.countP f.ff.isSub)).foldl (· + ·) 0 else 0)

/-- `n` F32 elements from a word address. -/
def vecLoad (a : Arr) (addr : Word) (n : Nat) : List F32 :=
  (List.range n).map (fun j => BitVec.ofNat 32 (leNat (lsRead a (addr.toNat * 16 + 4 * j) 4)))

/-- Stored bytes and counts of an output row: padded with +0 to whole blocks (R76), converted with RNE (R161),
or copied when the format is F32. -/
def rowStore (f : Fmt) (y : List F32) : List Byte × CnvCnt :=
  let nb := (y.length + 31) / 32
  let y := y ++ List.replicate (nb * 32 - y.length) 0
  if f = .f32 then (y.flatMap (fun v => leBytes 4 v.toNat), {})
  else
    let outs := (List.range nb).map (fun b => cnvBlock f ((y.drop (32 * b)).take 32 |>.map f32V) (fun _ => none))
    (asmStored f outs, outs.foldl (fun c o => c.add o.cnt) {})

/-! ### One row -/

/-- What one row gives: outputs, statistics, the terms of dγ and dβ, and the side-memory buffers. -/
structure RowRes where
  y : List F32 := []
  stat : F32 × F32 := (0, 0)
  dg : List F32 := []
  db : List F32 := []
  empty : Bool := false
  bufA : List F32 := []
  bufB : List F32 := []
deriving DecidableEq, Repr

/-- Forward row (R163, R166). -/
def rowFwd (op : Nat) (d : RowDesc) (r : Nat) (x gam bet : List F32) : RowRes :=
  if op = 3 then
    let st := smaxStat d r x
    { y := smaxY d r x st, stat := st, empty := st.1 == f32Inf true, bufA := x }
  else
    let st := if op = 1 then normStat d.recomp x d.eps else rmsStat d.recomp x d.eps
    let xh := x.map (fun v => if op = 1 then fmul (fsub v st.1) st.2 else fmul v st.2)
    let y := xh.mapIdx (fun j v =>
      let z := fmul v (gam.getD j 0x3f800000)
      if op = 1 then fadd z (bet.getD j 0) else z)
    { y := y, stat := st, bufA := x }

/-- Backward row (R164 to R166, R168): `st` is the saved or recomputed statistic. An empty row of SMAX_B gives zeros and is not
counted again (assumption 135). -/
def rowBwd (op : Nat) (d : RowDesc) (r : Nat) (x dy gam : List F32) (st : F32 × F32) : RowRes :=
  if op = 0x13 then
    let y := smaxY d r x st
    let c := rowSum d.recomp (List.zipWith fmul dy y)
    { y := if st.1 = f32Inf true then x.map (fun _ => 0) else List.zipWith (fun a b => fmul a (fsub b c)) y dy, bufA := y }
  else
    let n := f32OfNat x.length
    let xh := x.map (fun v => if op = 0x11 then fmul (fsub v st.1) st.2 else fmul v st.2)
    let g := dy.mapIdx (fun j v => fmul v (gam.getD j 0x3f800000))
    let a := fdiv (rowSum d.recomp g) n
    let b := fdiv (rowSum d.recomp (List.zipWith fmul g xh)) n
    let dx := List.zipWith (fun gi xi => fmul st.2 (fsub (if op = 0x11 then fsub gi a else gi) (fmul xi b))) g xh
    { y := dx, dg := if d.noAffine then [] else List.zipWith fmul dy xh,
      db := if d.noAffine || op != 0x11 then [] else dy, bufA := x }

/-- Counts of one descriptor. -/
structure RowCnt where
  rows : Nat := 0
  nan : Nat := 0
  empty : Nat := 0
  atomic : Nat := 0
  cnv : CnvCnt := {}
  firstNan : Option Nat := none
deriving DecidableEq, Repr

/-- Statistics entry of the side memory (R159). -/
def statGet (a : Arr) (k : Nat) : F32 × F32 :=
  let v := aget (fun _ => 0) a.stats k
  (v.setWidth 32, (v >>> 32).setWidth 32)

/-- Terms into the dγ and dβ vectors (R165): written by the first row under ACC_INIT, else added. -/
def rowGrad (a : Arr) (d : RowDesc) (first : Bool) (k : Nat) (vs : List F32) : Arr × Nat :=
  if vs.isEmpty then (a, 0)
  else if first && d.accInit then (lsWrite a k (vs.flatMap (fun v => leBytes 4 v.toNat)), 0)
  else (lsAddF32 a k vs, vs.length)

/-- What row `r` of a descriptor gives, from what its array holds, and the subnormals that its reads flush (R161 to R168). -/
def rowRes (op : Nat) (d : RowDesc) (xf yf : Fmt) (r : Nat) (a : Arr) : RowRes × Nat :=
  let n := d.n.toNat
  let (x, f1) := rowLoad a xf d.xAddr d.xPitch r n
  let gam := if rowIsSmax op || d.noAffine then [] else vecLoad a d.gAddr n
  let bet := if op = 1 && !d.noAffine then vecLoad a d.bAddr n else []
  let (dy, f2) := if rowIsB op then rowLoad a yf d.yAddr d.yPitch r n else ([], 0)
  let saved := statGet a (d.stat.toNat + r)
  let bst := if d.recomp then (if op = 0x11 then normStat true x d.eps else if op = 0x12 then rmsStat true x d.eps else smaxStat d r x) else saved
  ({ (if rowIsF op then rowFwd op d r x gam bet else rowBwd op d r x dy gam bst) with bufB := dy }, f1 + f2)

/-- One row of a descriptor on the array. Whether the row holds a NaN is judged on its F32 results, before they are stored
(assumption 134). -/
def rowOne (op : Nat) (d : RowDesc) (xf yf : Fmt) (r : Nat) (st : Arr × RowCnt) : Arr × RowCnt :=
  let a := st.1
  let c := st.2
  let n := d.n.toNat
  let (res, fl) := rowRes op d xf yf r a
  let (bs, cnv) := rowStore (rowOFmt op d) res.y
  let a := lsWrite a (d.oAddr.toNat * 16 + r * (d.oPitch.toNat * 16)) bs
  let (a, n1) := rowGrad a d (r == 0) (d.bAddr.toNat * 16) res.dg
  let (a, n2) := rowGrad a d (r == 0) (d.bAddr.toNat * 16 + 4 * n) res.db
  let k := d.stat.toNat + r
  let a := if rowIsF op && !d.recomp then
      { a with stats := aset (fun _ => 0) a.stats k ((res.stat.2.setWidth 64 <<< 32) ||| res.stat.1.setWidth 64),
               statHigh := max a.statHigh (k + 1) } else a
  let nan := res.y.any (fun v => (f32V v).isNaN)
  ({ a with bufA := res.bufA, bufB := if rowIsB op then res.bufB else a.bufB },
   { rows := c.rows + 1, nan := c.nan + (if nan then 1 else 0), empty := c.empty + (if res.empty then 1 else 0),
     atomic := c.atomic + n1 + n2, cnv := (c.cnv.add cnv).add { flush := fl },
     firstNan := if nan && c.firstNan.isNone then some r else c.firstNan })

/-- Effect of a row descriptor on the device: the rows in order, the counters of Table 6.15, and the next
descriptor; `amb` of its atomic adds find an ADD_F32 of another source queued (R54). -/
def rowEffect (op a : Nat) (d : RowDesc) (amb : Nat) (s : State) : State :=
  let r := arrGet s a
  let xf := (fmtOfCode d.xf.toNat).getD .f32
  let yf := (fmtOfCode d.yf.toNat).getD .f32
  let rows := if d.n = 0 then 0 else d.rows.toNat
  let (r2, c) := (List.range rows).foldl (fun st k => rowOne op d xf yf k st) (r, {})
  let first := c.firstNan.isSome && r.nanRow.isNone
  let r3 := { r2 with dpc := r.dpc + 1, nanRow := if first then c.firstNan.map (fun k => (r.dpc, k)) else r.nanRow }
  let s := arrSet s a r3
  let s := bump s .row a (if rowIsF op then 0xc08 else 0xc10) c.rows
  let s := if d.recomp then bump s .row a 0xc18 c.rows else s
  let s := bump s .row a 0xc20 (c.rows * d.n.toNat)
  let s := bump (bump s .row a 0xc28 c.nan) .row a 0xc30 c.empty
  let s := lsAtomics (bump s .row a 0xc40 c.atomic) a c.atomic amb
  let s := bumpCnv s .row a 0xc48 c.cnv
  if first then setInt s .row a 1 else s

/-- The row engine of array `a` runs descriptor `d` next: it is the oldest of the row program not yet completed, and its
POS is the instruction that follows (R160). -/
def rowAt (s : State) (a op : Nat) (d : RowDesc) : Bool := arrRuns s a && rowDue (arrGet s a) == some { op := op, d := d }

/-- The frame of every row descriptor: a form that Table 6.10 rejects never runs; a row engine runs the descriptor that is
due, and no other (R160). -/
def rowExec (op a : Nat) (d : RowDesc) (amb : Nat) (s : State) : Host.Outcome State Fault Refusal :=
  match pickStatus (rowCheck op d) with
  | 0 => if rowAt s a op d then .next (rowEffect op a d amb s) else .next s
  | st => .refused (.rejectedAtLoad st)

/-- NORM_F (R163, R168). -/
def execNormF (a : Fin 768) (d : RowDesc) (s : State) : Host.Outcome State Fault Refusal := rowExec 0x01 a d 0 s
/-- RMS_F (R163, R168). -/
def execRmsF (a : Fin 768) (d : RowDesc) (s : State) : Host.Outcome State Fault Refusal := rowExec 0x02 a d 0 s
/-- SMAX_F (R163, R166). -/
def execSmaxF (a : Fin 768) (d : RowDesc) (s : State) : Host.Outcome State Fault Refusal := rowExec 0x03 a d 0 s
/-- NORM_B (R164, R165). -/
def execNormB (a : Fin 768) (d : RowSum) (s : State) : Host.Outcome State Fault Refusal := rowExec 0x11 a d.toRowDesc d.amb s
/-- RMS_B (R164, R165). -/
def execRmsB (a : Fin 768) (d : RowSum) (s : State) : Host.Outcome State Fault Refusal := rowExec 0x12 a d.toRowDesc d.amb s
/-- SMAX_B (R164, R166). -/
def execSmaxB (a : Fin 768) (d : RowDesc) (s : State) : Host.Outcome State Fault Refusal := rowExec 0x13 a d 0 s

end Sys2Proof.Machine
end

