-- ==== Sys2Proof/Machine/Dma.lean ====
section
/-! DEFINITION. Tile DMA engines, gather-ring fills and probe passes (R176 to R197, R242), and the delayed
scaling that conversions with TSCALE use (R102 to R109). -/

namespace Sys2Proof.Machine

/-! ### Scale records (Table 4.3) -/

/-- Byte offset of record `n` in the scale-record tensor (R102). -/
def recOff (n : Nat) : Nat := 80 * n

/-- What the root sequencer holds on chip for record `n`. -/
def scaleGet (s : State) (n : Nat) : ScaleRun := aget (fun _ => {}) s.seq.scales n
/-- Changes what is held for record `n`. -/
def scaleMod (s : State) (n : Nat) (f : ScaleRun → ScaleRun) : State :=
  { s with seq := { s.seq with scales := aset (fun _ => {}) s.seq.scales n (f (scaleGet s n)) } }

/-- Handle of the scale-record tensor, 0 for none. -/
def scaleH (s : State) : Nat := match s.seq.prog with
  | some p => p.scaleRec
  | none => 0

/-- Byte `o` of record `n` in the committed version. -/
def recByte (s : State) (n o : Nat) : Byte := memByte s (tkey (scaleH s) (recOff n + o))
/-- MARGIN and M of a record (Table 4.3, CTRL). -/
def recMargin (s : State) (n : Nat) : Nat := (recByte s n 0x43).toNat / 2 % 8
def recMax (s : State) (n : Nat) : Num := if (recByte s n 0x43).getLsbD 0 then fF8G.dec 0x7b else fF8A.dec 0x7e

/-- A record is allocated when it lies wholly within the tensor (R102). -/
def recAllocated (s : State) (sid : Nat) : Bool :=
  sid != 0 && sid ≤ 0xfff && scaleH s != 0 &&
  match tensorOf s (scaleH s) with
  | some t => recOff sid + 80 ≤ t.size
  | none => false

/-- K in force for a record in this step: the one set by the probes of a cold step, else the record's
(R105, R108). -/
def recK (s : State) (n : Nat) : Int :=
  if (scaleGet s n).cold then (scaleGet s n).k else (recByte s n 0x42).toInt

/-! ### Keys of stochastic rounding (R93) -/

/-- contrib of this device (R93, R96): the reach index of the program and the coordinates of CFL_COORD. -/
def devContrib (s : State) (sid : Half) : Half :=
  let c := pgGet s .cfl 0 0x100
  let ri := match s.seq.prog with
    | some p => p.reach
    | none => 0
  contribOf sid ri (fld c 0 2) (fld c 2 2) (fld c 4 2)

/-- Seed of the program. -/
def progSeed (s : State) : DWord := match s.seq.prog with
  | some p => p.seed
  | none => 0

/-- Key of a conversion's draws. -/
def srKey (s : State) (sid : Half) : SrKey :=
  { seed := progSeed s, step := stepS s, sid := sid, contrib := devContrib s sid }

/-! ### Endpoints -/

/-- Start of row `r` of an endpoint in its tensor or local store. -/
def epRow (e : Endpoint) (r : Nat) : Nat := epOff e + r * e.pitch.toNat

/-- Bytes of a tensor as a unit reads them: poisoned bytes read as zero (R192, R224). -/
def tensorBytes (s : State) (h off n : Nat) : List Byte :=
  let k := tkey h off
  if poisoned s k n then (List.range n).map (fun j => if poisoned s (k + j) 1 then 0 else memByte s (k + j))
  else (List.range n).map (fun j => memByte s (k + j))

/-- The array that a local-store or ring endpoint names, on the engine's tile (R180). -/
def epArr (s : State) (t : Nat) (e : Endpoint) : Option Nat := slotArr s (t * 184 + epSlot e)

/-- `n` bytes from `off` at an endpoint of an engine of tile `t`. -/
def epRead (s : State) (t : Nat) (e : Endpoint) (off n : Nat) : List Byte :=
  if epKind e = 0 then tensorBytes s (epHandle e) off n
  else match epArr s t e with
    | some a => lsRead (arrGet s a) off n
    | none => List.replicate n 0

/-- Whether a read of `n` bytes at an endpoint meets a poison marker. -/
def epPoison (s : State) (e : Endpoint) (off n : Nat) : Bool := epKind e = 0 && poisoned s (tkey (epHandle e) off) n

/-- Accesses of an endpoint that is a tensor pass through the home slice (R206). -/
def epTouch (k : AccKind) (e : Endpoint) (off n : Nat) (s : State) : State :=
  if epKind e = 0 then memAccess prioDma k false false (epHandle e) off n s else s

/-- Writes bytes at an endpoint. -/
def epWrite (s : State) (t : Nat) (e : Endpoint) (off : Nat) (bs : List Byte) : State :=
  if epKind e = 0 then memWrite s (epHandle e) off bs
  else match epArr s t e with
    | some a => arrMod s a (fun r => lsWrite r off bs)
    | none => s

/-- The tile whose slice is the home of a tensor address (R206). -/
def homeTile (s : State) (h off : Nat) : Nat :=
  match tensorOf s h with
  | some t => (t.pages.getD (off / pageSize) {}).stack / 3
  | none => 0

/-- Atomic elements that a slice performs, and how many of them, as ADD_F32, arrive for a line on which an ADD_F32 of
another source is still queued (R207, R208). -/
def sliceAtomics (s : State) (tile n amb : Nat) : State :=
  let s := bump (bump s .msc tile 0xc18 n) .msc tile 0xc20 (min amb n)
  if min amb n = 0 then s else setInt s .msc tile 1

/-- Atomics performed at an endpoint are counted by the bank or slice that executes them (R191). -/
def epAtomic (s : State) (t : Nat) (e : Endpoint) (off n amb : Nat) : State :=
  if epKind e = 0 then sliceAtomics s (homeTile s (epHandle e) off) n amb
  else match epArr s t e with
    | some a => lsAtomics s a n amb
    | none => s

/-! ### Accesses without an order (R190 rule 5) -/

/-- Place of byte `off` of an endpoint: the key of a tensor byte, or one of its own for a byte of a local store. -/
def epPlace (s : State) (t : Nat) (e : Endpoint) (off : Nat) : Nat :=
  if epKind e = 0 then tkey (epHandle e) off else 2 ^ 72 + (epArr s t e).getD 0 * 2 ^ 22 + off

/-- Bytes at an endpoint as they are stored. -/
def epRaw (s : State) (t : Nat) (e : Endpoint) (off n : Nat) : List Byte :=
  if epKind e = 0 then memRead s (epHandle e) off n
  else match epArr s t e with
    | some a => lsRead (arrGet s a) off n
    | none => List.replicate n 0

/-- What the descriptors in progress, number `n` of engine `e` apart, have replaced at `len` bytes from place `k`. -/
def othersOlds (s : State) (e n k len : Nat) : List (Nat × List Byte) :=
  s.dma.flatMap (fun x => (x.2.busy.filter (fun b => !(x.1 == e && b.n == n))).flatMap (fun b =>
    b.olds.filter (fun o => o.1 < k + len && k < o.1 + o.2.length)))

/-- A read of a byte that an unordered descriptor writes: its old or its new value (assumption 11). -/
def eitherOld (k : Nat) (acc : Byte × Nat) (o : Nat × List Byte) : Byte × Nat :=
  if o.1 ≤ k ∧ k < o.1 + o.2.length then (if Config.freeBool acc.2 then o.2.getD (k - o.1) 0 else acc.1, acc.2 + 1) else acc

/-- Bytes read from place `k`, with the choices of rule 5. -/
def mixRead (e n k : Nat) (bs : List Byte) (s : State) : List Byte × State :=
  let os := othersOlds s e n k bs.length
  if os.isEmpty then (bs, s)
  else
    let r := bs.foldl (fun (acc : List Byte × Nat) b =>
      let x := os.foldl (eitherOld (k + acc.1.length)) (b, acc.2)
      (acc.1 ++ [x.1], x.2)) ([], s.drawn)
    (r.1, { s with drawn := r.2 })

/-- Bytes `new` written at place `k` over `old`: a byte that an unordered descriptor writes too ends with either
(assumption 11). -/
def mixWrite (e n k : Nat) (old new : List Byte) (s : State) : List Byte × State :=
  let os := othersOlds s e n k new.length
  if os.isEmpty then (new, s)
  else
    let r := new.foldl (fun (acc : List Byte × Nat) b =>
      let j := k + acc.1.length
      if os.any (fun o => decide (o.1 ≤ j) && decide (j < o.1 + o.2.length)) then
        (acc.1 ++ [if Config.freeBool acc.2 then old.getD acc.1.length 0 else b], acc.2 + 1)
      else (acc.1 ++ [b], acc.2)) ([], s.drawn)
    (r.1, { s with drawn := r.2 })

/-! ### Checks against tensors (Table 7.5) -/

/-- The HANDLE_INVALID and LENGTH_RANGE conditions of Table 7.5 that depend on tensors. -/
def dmaCheckMem (op : Nat) (d : DmaDesc) (s : State) : List Half :=
  let side (e : Endpoint) (row : Nat) (written : Bool) : List Half :=
    if epKind e = 0 then
      match tensorOf s (epHandle e) with
      | none => [stHandle]
      | some t => chk (written && t.cls == 0) stHandle ++ chk (t.size < epOff e + dmaExtent d e row) stLen
    else []
  side d.src d.length.toNat (op = 4 || op = 5) ++ side d.dst (dmaDstRow d) true
  ++ chk (!d.raw && fwTscale d.fmtw && !recAllocated s (fwSid d.fmtw).toNat) stHandle
  ++ chk ((op = 4 || op = 5) && d.src.space == d.dst.space
      && overlap (epOff d.src, dmaExtent d d.src d.length.toNat) (epOff d.dst, dmaExtent d d.dst d.length.toNat)) stLen

/-! ### Data movement -/

/-- What a transfer accumulates. -/
structure DmaAcc where
  s : State
  cnv : CnvCnt := {}
  amax : Num := .fin false 0 0
  poison : Bool := false
  /-- What the writes replaced (R190 rule 5). -/
  olds : List (Nat × List Byte) := []

/-- Start of destination row `r`: at the destination's pitch, or at the ring's row stride in `slot`
(R173, Table 7.3). -/
def dstRowOff (s : State) (t : Nat) (d : DmaDesc) (slot r : Nat) : Nat :=
  if epKind d.dst = 2 then
    match epArr s t d.dst with
    | some a =>
      let g := (arrGet s a).rings.getD (epRing d.dst) {}
      (g.base + (slot * g.slotRows + r) * g.rowWords) * 16
    | none => 0
  else epRow d.dst r

/-- One source row as the destination row (R182): copied, or converted (R84). -/
def dmaRow (d : DmaDesc) (s : State) (r : Nat) (bs : List Byte) : RowOut :=
  if dmaConverts d then
    match dmaFmts d with
    | some (a, b) =>
      let n := (blocksIn a bs.length).getD 0
      cnvRow a b (if fwTscale d.fmtw then some (recK s (fwSid d.fmtw).toNat) else none)
        (if fwGrad d.fmtw then some (srKey s (fwSid d.fmtw)) else none) (d.ebase.toNat + r * n) n bs
    | none => { bytes := bs }
  else { bytes := bs }

/-- One source row of a descriptor, number `n` of engine `e`: the bytes as read, the poison met, and the accesses. -/
def readRowOf (e n : Nat) (d : DmaDesc) (s : State) (r : Nat) : List Byte × Bool × State :=
  let t := e / 24
  let off := epRow d.src r
  let len := d.length.toNat
  let x := mixRead e n (epPlace s t d.src off) (epRead s t d.src off len) s
  (x.1, epPoison s d.src off len, epTouch .read d.src off len x.2)

/-- Destination row `off` of a descriptor written, with the choices of R190 rule 5. -/
def writeRowOf (e n : Nat) (d : DmaDesc) (off : Nat) (bs : List Byte) (acc : DmaAcc) : DmaAcc :=
  let t := e / 24
  let k := epPlace acc.s t d.dst off
  let old := epRaw acc.s t d.dst off bs.length
  let x := mixWrite e n k old bs acc.s
  { acc with s := epWrite (epTouch .write d.dst off bs.length x.2) t d.dst off x.1, olds := (k, old) :: acc.olds }

/-- The rows of a COPY: every source row is read before the first write (assumption 16), so that what an unordered descriptor
writes later is never read (assumption 136). -/
def copyRows (e n : Nat) (d : DmaDesc) (slot : Nat) (s : State) : DmaAcc :=
  let t := e / 24
  let rd := (List.range d.rows.toNat).foldl (fun (acc : List RowOut × DmaAcc) r =>
    let x := readRowOf e n d acc.2.s r
    let o := dmaRow d s r x.1
    (acc.1 ++ [o], { s := x.2.2, cnv := acc.2.cnv.add o.cnt, amax := maxFinite [acc.2.amax, o.amax], poison := acc.2.poison || x.2.1 }))
    ([], { s := s })
  (rd.1.zipIdx).foldl (fun acc o => writeRowOf e n d (dstRowOff acc.s t d slot o.2) o.1.bytes acc) rd.2

/-- An integer or exchange atomic on element `old` with operand `x` (Table 2.6). -/
def atomicOp (op : Nat) (old x : List Byte) : List Byte :=
  match op with
  | 2 => leBytes 4 (fadd (BitVec.ofNat 32 (leNat old)) (BitVec.ofNat 32 (leNat x))).toNat
  | 3 => leBytes 4 (leNat old + leNat x)
  | _ => x

/-- One atomic element: operand `x` into `doff`, and for a SWAP the old value back to `soff` (R191); `amb` says that an
ADD_F32 of another source is still queued there (R54, R208). It reads what stands there and its own write stays, also where an
unordered descriptor in progress has written (assumption 136). -/
def atomicElem (op t : Nat) (d : DmaDesc) (amb : Bool) (doff soff : Nat) (x : List Byte) (acc : DmaAcc) : DmaAcc :=
  let el := dmaElem op
  let old := epRead acc.s t d.dst doff el
  let bad := epPoison acc.s d.dst doff el
  -- a poisoned element is performed against zero (R224)
  let old := if bad then List.replicate el 0 else old
  let s := epWrite acc.s t d.dst doff (atomicOp op old x)
  let s := if op = 4 || op = 5 then epWrite s t d.src soff old else s
  { acc with s := epAtomic s t d.dst doff 1 (if amb then 1 else 0), poison := acc.poison || bad }

/-- The atomics of one row, in element order (R190 rule 3). -/
def atomicRow (op e n : Nat) (d : DmaDesc) (amb : List Nat) (acc : DmaAcc) (r : Nat) : DmaAcc :=
  let t := e / 24
  let el := dmaElem op
  let x := readRowOf e n d acc.s r
  let out := if op = 2 then dmaRow d x.2.2 r x.1 else { bytes := x.1 }
  let len := out.bytes.length
  let old (e : Endpoint) : Nat × List Byte := (epPlace acc.s t e (epRow e r), epRaw acc.s t e (epRow e r) len)
  let s := epTouch .atomic d.dst (epRow d.dst r) len x.2.2
  let s := if op = 4 || op = 5 then epTouch .write d.src (epRow d.src r) len s else s
  let acc := { acc with s := s, cnv := acc.cnv.add out.cnt, poison := acc.poison || x.2.1
                        olds := (if op = 4 || op = 5 then [old d.src] else []) ++ old d.dst :: acc.olds }
  (List.range (len / el)).foldl (fun acc j =>
    atomicElem op t d (amb.contains (r * (len / el) + j)) (epRow d.dst r + j * el) (epRow d.src r + j * el) ((out.bytes.drop (j * el)).take el) acc) acc

/-- Bursts of fewer than 2048 bytes on the wider side (R187). -/
def shortBursts (s : State) (t : Nat) (d : DmaDesc) : Nat :=
  let sr := d.length.toNat
  let dr := dmaDstRow d
  let stride := if epKind d.dst = 2 then dstRowOff s t d 0 1 - dstRowOff s t d 0 0 else d.dst.pitch.toNat
  let contig := d.rows.toNat == 1 || (d.src.pitch.toNat == sr && stride == dr)
  let w := max sr dr
  if contig then (if w * d.rows.toNat < 2048 then 1 else 0) else (if w < 2048 then d.rows.toNat else 0)

/-- Changes descriptor number `n` in progress on an engine. -/
def busyMod (s : State) (e n : Nat) (f : DmaBusy → DmaBusy) : State :=
  dmaMod s e (fun r => { r with busy := r.busy.map (fun b => if b.n = n then f b else b) })

/-- Descriptor number `n` of an engine, with list index `idx`, has read uncorrectable data; it counts once (R192). -/
def dmaPoisons (e n idx : Nat) (s : State) : State :=
  let s := if (dmaGet s e).busy.any (fun b => b.n == n && b.poison) then s else bump s .dma e 0xc40 1
  let s := busyMod s e n (fun b => { b with poison := true })
  let s := dmaMod s e (fun r => { r with poison := if r.poison.isNone then some idx else r.poison })
  setInt { s with seq := { s.seq with dmaPoison := true } } .dma e 1

/-- Counts of a transfer that has run (Table 7.12, R192). -/
def dmaCount (op e n idx : Nat) (d : DmaDesc) (acc : DmaAcc) : State :=
  let t := e / 24
  let s := acc.s
  let rd := d.rows.toNat * d.length.toNat
  let wr := d.rows.toNat * dmaDstRow d
  let s := bump s .dma e 0xc08 rd
  let s := bump s .dma e 0xc10 (wr + (if op = 4 || op = 5 then rd else 0))
  let s := bump s .dma e 0xc18 (shortBursts s t d)
  let s := if op = 1 then s else bump s .dma e 0xc30 (wr / dmaElem op)
  let s := bumpCnv s .dma e 0xc48 acc.cnv
  let s := busyMod s e n (fun b => { b with olds := acc.olds })
  if acc.poison then dmaPoisons e n idx s else s

/-- A conversion with TSCALE and an 8-bit destination folds its maximum into its record (R103); any
conversion with TSCALE marks a cold record as named by the step (R109). -/
def foldScale (d : DmaDesc) (amax : Num) (s : State) : State :=
  if !d.raw && fwTscale d.fmtw then
    let n := (fwSid d.fmtw).toNat
    scaleMod s n (fun r =>
      let r := { r with coldUsed := r.coldUsed || r.cold }
      if dmaProbeReq d then { r with used := true, amax := fmax r.amax amax.toF32 } else r)
  else s

/-- Reserve base of layer `l` in this step (R141). -/
def wideBase (s : State) (l : Nat) : Nat := (s.seq.wide.lookup l).getD 0

/-- An endpoint with the reserve base of layer `l` added when it names WIDE_RES (R239). -/
def rebaseEp (s : State) (p : Prog) (l : Nat) (e : Endpoint) : Endpoint :=
  if epKind e = 0 ∧ epHandle e = p.wideRes ∧ p.wideRes ≠ 0 then { e with offset := e.offset + BitVec.ofNat 64 (wideBase s l) } else e

/-- A descriptor that a wide-variant ISSUE of layer `l` issues (R239). -/
def rebaseDesc (s : State) (l : Option Nat) (d : DmaDesc) : DmaDesc :=
  match l, s.seq.prog with
  | some l, some p => { d with src := rebaseEp s p l d.src, dst := rebaseEp s p l d.dst }
  | _, _ => d

/-- The layer whose wide variant issued descriptor `idx`, when it stands at the front of issue queue `q`. -/
def issueWide (s : State) (q idx : Nat) : Option Nat :=
  match aget (fun _ => []) s.seq.issueQ q with
  | r :: _ => if r.first = idx ∧ r.count ≠ 0 then r.wide else none
  | [] => none

/-- The ISSUE that named the front of an issue queue. -/
def issueNoOf (s : State) (q : Nat) : Nat := ((aget (fun _ => []) s.seq.issueQ q).head?.map (·.no)).getD 0

/-- Descriptor `idx` stands at the front of an issue queue (R239). -/
def atFront (s : State) (q idx : Nat) : Bool :=
  match aget (fun _ => []) s.seq.issueQ q with
  | r :: _ => r.first == idx && r.count != 0
  | [] => false

/-- The first index from `i` on that is none of `fills`. -/
def pastFills (fills : List Nat) : Nat → Nat → Nat
  | 0, i => i
  | k + 1, i => if fills.contains i then pastFills fills k (i + 1) else i

/-- Takes descriptor `idx` from the front of an issue queue, when it stands there (R239). -/
def issuePop (s : State) (q idx : Nat) : State :=
  match aget (fun _ => []) s.seq.issueQ q with
  | [] => s
  | r :: rest =>
    if r.first = idx ∧ r.count ≠ 0 then
      let l := if r.count = 1 then rest else { r with first := pastFills r.fills r.fills.length (r.first + 1), count := r.count - 1 } :: rest
      { s with seq := { s.seq with issueQ := aset (fun _ => []) s.seq.issueQ q l } }
    else s

/-- Completion of a descriptor carrying CID `c` on tile `t` (R189, R240). -/
def cidBump (s : State) (t c : Nat) : State :=
  if c = 255 then s
  else { s with seq := { s.seq with cid := aset (fun _ => 0) s.seq.cid (t * 256 + c) (aget (fun _ => 0) s.seq.cid (t * 256 + c) + 1) } }

/-- A descriptor of an engine completes (R189). -/
def dmaDone (s : State) (e cid : Nat) : State :=
  let s := dmaMod s e (fun r => { r with done := r.done + 1, last := cid })
  let s := bump s .dma e 0xc00 1
  let s := { s with seq := { s.seq with done := s.seq.done + 1 } }
  crossing .seqT (e / 24) (cidBump s (e / 24) cid)

/-- A unit's descriptor is fetched from the image as it is issued. -/
def fetchDesc (s : State) (st u i : Nat) : State :=
  match s.seq.prog with
  | some p => seqReads p.handle (p.off + unitOff s p st u + 64 * i) 64 s
  | none => s

/-- The tile sequencer issues a descriptor to an engine, which gives it an entry (R186); a ring fill then waits there until
the engine starts it (R177). -/
def dmaIssue (s : State) (e idx no cid : Nat) (fill : Option (Nat × Nat × Nat)) : State :=
  let s := fetchDesc s (e / 24 + 1) (e % 24) idx
  let s := { s with seq := { s.seq with issued := s.seq.issued + 1 } }
  let s := bump s .seqT (e / 24) 0xc00 1
  dmaMod s e (fun r => { r with issued := r.issued + 1, busy := r.busy ++ [{ idx := idx, n := r.issued, no := no, cid := cid, fill := fill, waits := fill.isSome }] })

/-- The converting or moving pass of a descriptor, with its counts. -/
def dmaMove (op e n idx : Nat) (d : DmaDesc) (slot : Nat) (amb : List Nat) (s : State) : State :=
  let acc := if op = 1 then copyRows e n d slot s else (List.range d.rows.toNat).foldl (atomicRow op e n d amb) { s := s }
  foldScale d acc.amax (dmaCount op e n idx d acc)

/-- The probe pass of a cold record (R108, R242): the source extent is read and its maximum folded; the
descriptor keeps its entry and waits for K. Its short bursts are not counted (assumption 137). -/
def dmaProbe (e n idx : Nat) (d : DmaDesc) (s : State) : State :=
  let rd := (List.range d.rows.toNat).foldl (fun (acc : DmaAcc) r =>
    let x := readRowOf e n d acc.s r
    let m := match dmaFmts d with
      | some (a, _) => maxFinite ((List.range ((blocksIn a d.length.toNat).getD 0)).map (fun b => maxFinite (srcBlock a x.1 b).1))
      | none => .fin false 0 0
    { acc with s := x.2.2, amax := maxFinite [acc.amax, m], poison := acc.poison || x.2.1 }) { s := s }
  let s := bump (bump rd.s .dma e 0xc08 (d.rows.toNat * d.length.toNat)) .dma e 0xc38 1
  let s := if rd.poison then dmaPoisons e n idx s else s
  let s := foldScale d rd.amax s
  { s with seq := { s.seq with probes := s.seq.probes ++ [({ eng := e, idx := idx, n := n, d := d }, false)] } }

/-- Whether a conversion that reads the 8-bit side of a cold record is held until K is set (R242 step 5). -/
def heldForK (d : DmaDesc) (s : State) : Bool :=
  let r := scaleGet s (fwSid d.fmtw).toNat
  !d.raw && fwTscale d.fmtw && !dmaProbeReq d && r.cold && !r.kReady

/-- A ring's slot becomes FULL and its fill is forgotten (R177); a read that waits for slot HEAD goes on (R176). -/
def ringFull (s : State) (a ring slot : Nat) : State :=
  arrMod s a (fun r =>
    let g := r.rings.getD ring {}
    let free := r.waitRing = some ring ∧ g.head = slot
    let g := { g with st := g.st.set slot .full, fills := g.fills.filter (fun p => p.1 != slot) }
    { r with rings := r.rings.set ring g, waitRing := if free then none else r.waitRing })

/-- Whether TST_RING_CTRL and a nonzero TST_RING_FULL_DELAY delay a fill of the ring (R474). -/
def ringDelayed (s : State) (a ring : Nat) : Bool :=
  (pgGet s .grg a 0x080).getLsbD ring && pgGet s .grg a 0x084 != 0

/-- A descriptor leaves its engine (R189); a fill's slot becomes FULL, or waits for its delay under test (R474). -/
def dmaEnd (e : Nat) (b : DmaBusy) (s : State) : State :=
  let s := dmaMod s e (fun r => { r with busy := r.busy.filter (fun x => x.n != b.n) })
  let s := match b.fill with
    | some (a, ring, slot) =>
      let s := bump s .grg a (0xc00 + ring * 0x20) 1
      if ringDelayed s a ring then tstCount s .grg a 0x08c 1 else ringFull s a ring slot
    | none => s
  crossings .dma e (dmaDone s e b.cid)

/-- A descriptor in progress that may complete: it has started, and does not wait for K (R242). -/
def mayEnd (s : State) (e : Nat) (b : DmaBusy) : Bool :=
  !b.waits && !s.seq.probes.any (fun p => p.1.eng == e && p.1.n == b.n)

/-- DMA_COMPLETE (R189); in SAFE the work in progress is kept (R392). -/
def dmaCompleteEffect (e idx : Nat) (s : State) : State :=
  if unitsStopped s then s
  else match (dmaGet s e).busy.find? (fun b => b.idx == idx && mayEnd s e b) with
    | none => s
    | some b => dmaEnd e b s

/-! ### Probe ends (R242) -/

/-- K of a cold record is set from STEP_AMAX (R242 step 4). -/
def setK (s : State) (n : Nat) : State :=
  scaleMod s n (fun r => { r with kReady := true, k := scaleK (f32V r.amax) (recMax s n) (recMargin s n) })

/-- The converting pass of a waiting PROBE descriptor (R242 step 4); a fill's slot is the one it took. -/
def probeConvert (s : State) (p : DmaRef) : State :=
  let slot := (((dmaGet s p.eng).busy.find? (fun b => b.n == p.n)).bind (·.fill)).elim 0 (fun f => f.2.2)
  dmaMove 1 p.eng p.n p.idx p.d slot [] s

/-- The root sequencer takes a probe end of record `n`; with the last of P_r, K is set and the converting passes of the
record run (R242 step 4). -/
def probeCount (s : State) (n : Nat) : State :=
  let s := scaleMod s n (fun r => { r with ends := r.ends + 1 })
  if aget (fun _ => 0) s.seq.probeCnt n ≤ (scaleGet s n).ends then
    let s := setK s n
    let mine := s.seq.probes.filter (fun q => (fwSid q.1.d.fmtw).toNat == n)
    let s := { s with seq := { s.seq with probes := s.seq.probes.filter (fun q => (fwSid q.1.d.fmtw).toNat != n) } }
    mine.foldl (fun s q => probeConvert s q.1) s
  else s

/-- PROBE_END (R242): the report of the probe pass of a descriptor reaches the root sequencer; in SAFE none is made
(R392). -/
def probeEndEffect (e idx : Nat) (s : State) : State :=
  if unitsStopped s then s
  else match s.seq.probes.find? (fun p => p.1.eng == e && p.1.idx == idx && !p.2) with
    | none => s
    | some p => probeCount { s with seq := { s.seq with probes := s.seq.probes.replace p (p.1, true) } } (fwSid p.1.d.fmtw).toNat

def execProbeEnd (e : Fin 96) (idx : BitVec 24) (s : State) : Host.Outcome State Fault Refusal :=
  .next (probeEndEffect e idx.toNat s)

/-! ### Issue and start (R180, R186, R190, R239) -/

/-- The record of a descriptor is cold in the step, and its K not set yet. -/
def probesFirst (d : DmaDesc) (s : State) : Bool :=
  let r := scaleGet s (fwSid d.fmtw).toNat
  d.probe && r.cold && !r.kReady

/-- A descriptor that moves nothing (Table 7.2). -/
def dmaNoOp (d : DmaDesc) : Bool := d.rows == 0 || d.length == 0

/-- A no-op descriptor completes when it is issued (R189); one with PROBE is one of P_r, and its probe ends with it
(R242, assumption 99). -/
def noOpEnd (e n : Nat) (d : DmaDesc) (s : State) : State :=
  let s := match (dmaGet s e).busy.find? (fun b => b.n == n) with
    | some b => dmaEnd e b s
    | none => s
  if probesFirst d s then probeCount s (fwSid d.fmtw).toNat else s

/-- What a descriptor that starts does: the probe pass of a cold record, or the moving pass. -/
def dmaWork (op e n idx : Nat) (d : DmaDesc) (slot : Nat) (amb : List Nat) (s : State) : State :=
  if probesFirst d s then dmaProbe e n idx d s else dmaMove op e n idx d slot amb s

/-- Descriptor `idx` in the list of engine `e` of the loaded program is this one (R180). -/
def dmaIs (op e idx : Nat) (d : DmaDesc) (s : State) : Bool :=
  match s.seq.prog with
  | some p => decide (idx < unitLen s p (e / 24 + 1) (e % 24)) && dmaParse (unitDesc s p (e / 24 + 1) (e % 24) idx) == (op, d, false)
  | none => false

/-- The oldest fill that an engine has been issued and has not started. -/
def waitingFill (s : State) (e : Nat) : Option DmaBusy := (dmaGet s e).busy.find? (·.waits)

/-- A fill may start: it is the oldest of the engine that has not, and with ORDER the oldest in progress (R190). -/
def fillMayStart (e idx : Nat) (d : DmaDesc) (s : State) : Bool :=
  match waitingFill s e with
  | some b => b.idx == idx && (!d.order || (dmaGet s e).busy.head?.elim false (fun x => x.n == b.n))
  | none => false

/-- Any other descriptor may be issued and started: it stands at the front of the engine's issue queue (R239), the engine
has a free entry (R186) and no earlier descriptor to start (R190), with ORDER none in progress, and K does not hold it
(R242). -/
def copyMayStart (e idx : Nat) (d : DmaDesc) (s : State) : Bool :=
  let r := dmaGet s e
  atFront s (e / 24 * 64 + e % 24) idx && r.busy.length < 64 && !r.busy.any (·.waits)
    && (!d.order || dmaNoOp d || r.busy.isEmpty) && !heldForK d s

/-- What keeps a descriptor from starting. -/
def dmaBarred (op e idx : Nat) (d : DmaDesc) (s : State) : Bool :=
  s.seq.dev != .running || !dmaIs op e idx d s || !(if epKind d.dst = 2 then fillMayStart e idx d s else copyMayStart e idx d s)

/-- The fill that holds a ring's slot, as it was issued. -/
def fillHeld (s : State) (b : DmaBusy) (d : DmaDesc) : DmaDesc :=
  match b.fill with
  | some (a, ring, slot) =>
    match ((arrGet s a).rings.getD ring {}).fills.find? (fun p => p.1 == slot) with
    | some p => p.2.d
    | none => d
  | none => d

/-- Execution of a descriptor by engine `e` (R180 to R193); while something keeps it from starting nothing happens. -/
def dmaRun (op e idx : Nat) (d : DmaDesc) (amb : List Nat) (s : State) : State :=
  if dmaBarred op e idx d s then s
  else if epKind d.dst = 2 then
    match waitingFill s e with
    | none => s
    | some b => dmaWork op e b.n idx (fillHeld s b d) (b.fill.elim 0 (fun f => f.2.2)) amb (busyMod s e b.n (fun b => { b with waits := false }))
  else
    let q := e / 24 * 64 + e % 24
    let n := (dmaGet s e).issued
    let d := rebaseDesc s (issueWide s q idx) d
    let s := dmaIssue (issuePop s q idx) e idx (issueNoOf s q) d.cid.toNat none
    if dmaNoOp d then noOpEnd e n d s else dmaWork op e n idx d 0 amb s

/-- The frame of every DMA opcode: a form that Table 7.5 rejects never runs. -/
def dmaExec (op e : Nat) (idx : BitVec 24) (d : DmaDesc) (amb : List Nat) (s : State) : Host.Outcome State Fault Refusal :=
  match pickStatus (dmaCheck op d ++ dmaCheckMem op d s) with
  | 0 => .next (dmaRun op e idx.toNat d amb s)
  | st => .refused (.rejectedAtLoad st)

/-- ADD_F32 (Table 7.4). -/
def execDmaAddF32 (e : Fin 96) (idx : BitVec 24) (d : DmaAdd) (s : State) : Host.Outcome State Fault Refusal :=
  dmaExec 2 e idx d.toDmaDesc d.amb s
/-- ADD_S32 (Table 7.4). -/
def execDmaAddS32 (e : Fin 96) (idx : BitVec 24) (d : DmaDesc) (s : State) : Host.Outcome State Fault Refusal := dmaExec 3 e idx d [] s
/-- SWAP_32 (Table 7.4). -/
def execDmaSwap32 (e : Fin 96) (idx : BitVec 24) (d : DmaDesc) (s : State) : Host.Outcome State Fault Refusal := dmaExec 4 e idx d [] s
/-- SWAP_64 (Table 7.4). -/
def execDmaSwap64 (e : Fin 96) (idx : BitVec 24) (d : DmaDesc) (s : State) : Host.Outcome State Fault Refusal := dmaExec 5 e idx d [] s

/-- DMA_COMPLETE (R189). -/
def execDmaComplete (e : Fin 96) (idx : BitVec 24) (s : State) : Host.Outcome State Fault Refusal :=
  .next (dmaCompleteEffect e idx.toNat s)

/-! ### Ring fills -/

/-- RING_FULL_DELAY (R474): the delay of a completed fill ends and its slot becomes FULL. -/
def ringFullDelayEffect (a ring slot : Nat) (s : State) : State :=
  let g := (arrGet s a).rings.getD ring {}
  match g.fills.find? (fun p => p.1 == slot) with
  | none => s
  | some p =>
    -- not while the fill is still in progress on its engine
    if (dmaGet s p.2.eng).busy.any (fun b => b.fill == some (a, ring, slot)) then s
    else if g.st.getD slot .free == .filling then ringFull s a ring slot else s

def execRingFullDelay (a : Fin 768) (ring : Fin 4) (slot : Fin 16) (s : State) : Host.Outcome State Fault Refusal :=
  .next (ringFullDelayEffect a ring slot s)

/-- Slots that a ring may have FILLING or FULL at once (R474). -/
def ringLimit (s : State) (a ring : Nat) (g : Ring) : Nat :=
  if (pgGet s .grg a 0x080).getLsbD ring then min g.slots (pgGet s .grg a 0x088).toNat else g.slots

/-- The first fill of a ring's queue may be issued: slot TAIL is FREE, K does not hold it, and its engine has a free entry
(R177). -/
def fillMayIssue (s : State) (g : Ring) (f : DmaRef) : Bool :=
  s.seq.dev == .running && g.st.getD g.tail .full == .free && (dmaGet s f.eng).busy.length < 64 && !heldForK f.d s

/-- The test's limit holds a ring's next fill. -/
def ringHeld (a ring : Nat) (s : State) : State :=
  arrMod s a (fun r => { r with rings := r.rings.set ring { r.rings.getD ring {} with held := true } })

/-- RING_FILL_ISSUE (R177): the first fill of the queue takes slot TAIL and an entry of its engine; under test only within
the limit (R474). -/
def ringFillEffect (a ring : Nat) (s : State) : State :=
  let g := (arrGet s a).rings.getD ring {}
  match g.queue with
  | [] => s
  | f :: rest =>
    if s.seq.dev == .running && g.st.getD g.tail .full == .free && ringLimit s a ring g ≤ (g.st.countP (fun x => x != .free)) then
      (if (pgGet s .grg a 0x080).getLsbD ring && !g.held then tstCount (ringHeld a ring s) .grg a 0x08c 1 else s)
    else if !fillMayIssue s g f then s
    else
      let n := (dmaGet s f.eng).issued
      let s := arrMod s a (fun r =>
        { r with rings := r.rings.set ring (
            { g with st := g.st.set g.tail .filling, tail := (g.tail + 1) % g.slots, queue := rest, held := false, fills := g.fills ++ [(g.tail, { f with n := n })] }) })
      let s := dmaIssue s f.eng f.idx f.no f.d.cid.toNat (some (a, ring, g.tail))
      if dmaNoOp f.d then noOpEnd f.eng n f.d s else s

def execRingFillIssue (a : Fin 768) (ring : Fin 4) (s : State) : Host.Outcome State Fault Refusal :=
  .next (ringFillEffect a ring s)

end Sys2Proof.Machine
end

