-- ==== Sys2Proof/Machine/Memory.lean ====
section
/-! DEFINITION. The persistent log (R464 to R470), placement (R199 to R205), scrub, row failures and
migration (R218 to R224), margining results and update fences. -/

namespace Sys2Proof.Machine

/-! ### The persistent log -/

/-- BLK_ID of a page (R447). -/
def blkId (s : State) (p : Pg) (i : Nat) : Word :=
  if presentPage s.fit p i then BitVec.ofNat 32 (p.type * 65536 + p.inst i * 16 + 1) else 0

/-- Kinds that start-up reapplies, held in the record region (R464). -/
def logIsRecord (kind : Nat) : Bool := 2 ≤ kind && kind ≤ 7

/-- Entries of the record region and of the event ring (R464). -/
def recordMax : Nat := 65536
def eventMax : Nat := 131072

/-- An entry of the present moment. TIME_MS is not part of the state and is a free value (assumption 13). -/
def logEntry (s : State) (kind : Nat) (source : Word) (status : Half) (payload : List Byte) : LogEnt × State :=
  let (n, s) := draw s
  ({ seq := s.log.next, kind := kind, flags := if logIsRecord kind then 1 else 0, count := 1, source := source,
     status := status, boot := s.log.boot, ms := (Config.freeWord n).toNat, s := stepS s, payload := payload.take 28 }, s)

/-- A record entry joins its region; one that finds it full is kept on chip and sets LOG_FULL (R223). -/
def logRecord (e : LogEnt) (s : State) : State :=
  if s.log.records.length < recordMax ∧ s.log.kept = [] then { s with log := { s.log with records := s.log.records ++ [e] } }
  else setInt { s with log := { s.log with kept := s.log.kept ++ [e] } } .plc 0 4

/-- The record entries that verify in one copy at least; the others are skipped (R468, R470). -/
def logReadable (s : State) : List LogEnt := s.log.records.filter (fun e => !s.fit.logBad.contains e.seq)

/-- The newest `n` entries of a list whose newest stands last. -/
def newest {α : Type} (n : Nat) (l : List α) : List α := if l.length ≤ n then l else l.drop (l.length - n)

/-- An event entry joins its ring, which overwrites its oldest. -/
def logEvent (e : LogEnt) (s : State) : State :=
  { s with log := { s.log with events := newest eventMax (s.log.events ++ [e]) } }

/-- Writes an entry (R464, R465). -/
def logPut (s : State) (kind : Nat) (source : Word) (status : Half) (payload : List Byte) : State :=
  let x := logEntry s kind source status payload
  let s := { x.2 with log := { x.2.log with next := x.2.log.next + 1 } }
  if logIsRecord kind then logRecord x.1 s else logEvent x.1 s

/-- DELAYED_LOG_WRITE (R223): the oldest entry kept on chip is written once space exists, marked DELAYED. -/
def delayedLogEffect (s : State) : State :=
  match s.log.kept with
  | [] => s
  | e :: rest =>
    if s.log.records.length < recordMax then
      { s with log := { s.log with records := s.log.records ++ [{ e with flags := e.flags ||| 4 }], kept := rest } }
    else s

def execDelayedLogWrite (s : State) : Host.Outcome State Fault Refusal := .next (delayedLogEffect s)

/-- The logical row that a REMAP entry names: stack, pseudo-channel, bank and row (Table 18.4). -/
def remapRow (e : LogEnt) : List Byte := (e.payload.take 3) ++ ((e.payload.drop 4).take 4)

/-! ### The tasks of the management processor (R400, R465) -/

/-- The management processor runs firmware. -/
def mpRuns (s : State) : Bool := s.mp.started && s.seq.dev != .off
/-- The mailbox service has a request to serve (R400). -/
def mailWork (s : State) : Bool := s.mp.chans.any (fun e => e.2.inb == 2 && e.2.out.isEmpty && !e.2.waits)

/-- An event for the error-logging task, as it stands when it happens; none is noted while no firmware runs (R465). -/
def logTask (s : State) (kind : Nat) (p : Pg) (i : Nat) (status : Half) (payload : List Byte) : State :=
  if mpRuns s then
    let x := logEntry s kind (blkId s p i) status payload
    { x.2 with log := { x.2.log with todo := x.2.log.todo ++ [x.1] } }
  else s

/-- COMPACTION (R469): drops every REMAP that a later REMAP of the same row supersedes. Housekeeping runs when no other task
has work (R400). -/
def compactionEffect (s : State) : State :=
  if !mpRuns s || mailWork s || !s.log.todo.isEmpty then s
  else
    let rs := s.log.records
    let keep (e : LogEnt) : Bool := e.kind != 6 || !rs.any (fun f => f.kind == 6 && e.seq < f.seq && remapRow f == remapRow e)
    { s with log := { s.log with records := rs.filter keep } }

def execCompaction (s : State) : Host.Outcome State Fault Refusal := .next (compactionEffect s)

/-- An entry of the present window that a new one coalesces with while the MP is overloaded (R402). -/
def coalesces (s : State) (e f : LogEnt) : Bool :=
  s.mp.overloaded && decide (s.mp.winSeq ≤ f.seq) && f.kind == e.kind && f.source == e.source && f.status == e.status

/-- An event entry is written: it coalesces with one of its window, or joins the ring with the next SEQ (R402, R466). -/
def writeEvent (e : LogEnt) (s : State) : State :=
  if s.log.events.any (coalesces s e) then
    let one (f : LogEnt) : LogEnt := if coalesces s e f then { f with count := min 65535 (f.count + 1), flags := f.flags ||| 2 } else f
    bump { s with log := { s.log with events := s.log.events.map one } } .mbx 0 0xc30 1
  else logEvent { e with seq := s.log.next } { s with log := { s.log with next := s.log.next + 1 } }

/-- The event that a LOG_WRITE names. -/
def logNamed (e : LogEnt) (kind : Byte) (page : Word) (status : Half) (payload : List Byte) : Bool :=
  e.kind == kind.toNat && e.source == page && e.status == status && e.payload == payload

/-- The page whose INT_RAW the error-logging task observes: it is present, INT_RAW holds a bit, and the INT entry named tells
its offset and its INT_RAW (R457, Table 18.4). -/
def intSeen (s : State) (kind : Byte) (page : Word) (status : Half) (payload : List Byte) : Bool :=
  kind == 0x0b && status == 0 && pageKinds.any (fun p => (List.range p.count).any (fun i =>
    presentPage s.fit p i && blkId s p i == page && pgGet s p i 0x10 != 0
      && payload == leBytes 4 (pageBase p i) ++ leBytes 4 (pgGet s p i 0x10).toNat))

/-- LOG_WRITE (R465): the error-logging task writes the event named, the oldest that waits, or an INT entry of a page whose
INT_RAW it observes (R457, assumption 126), when the mailbox service has no work (R400). -/
def logWriteEffect (kind : Byte) (page : Word) (status : Half) (payload : List Byte) (s : State) : State :=
  if !mpRuns s || mailWork s then s
  else match s.log.todo.head?.filter (fun e => logNamed e kind page status payload) with
    | some e => writeEvent e { s with log := { s.log with todo := s.log.todo.tail } }
    | none =>
      if intSeen s kind page status payload then
        let x := logEntry s kind.toNat page status payload
        writeEvent x.1 x.2
      else s

def execLogWrite (kind : Byte) (page : Word) (status : Half) (payload : List Byte) (s : State) : Host.Outcome State Fault Refusal :=
  .next (logWriteEffect kind page status payload s)

/-! ### Placement (R200 to R205) -/

/-- Pages of one stack (R198). -/
def stackPages : Nat := 24576
/-- Key of a physical page. -/
def pkey (stack i : Nat) : Nat := stack * 2 ^ 16 + i
/-- Physical page in use or retired. -/
def pageUsed (m : AMap Bool) (stack i : Nat) : Bool := aget (fun _ => false) m (pkey stack i)
/-- Entries of a page table on a stack. -/
def pagesOn (m : AMap Bool) (stack : Nat) : Nat := m.countP (fun p => p.1 / 2 ^ 16 == stack)
/-- Free pages of a stack, the migration reserve included. -/
def freeRaw (s : State) (stack : Nat) : Nat := stackPages - pagesOn s.mem.used stack
/-- MIG_RESERVE (Table 8.12). -/
def migReserve (s : State) : Nat := fld (pgGet s .plc 0 8) 8 8
/-- Free pages of a stack that an allocation may take (R200, R205). -/
def freePages (s : State) (stack : Nat) : Nat := freeRaw s stack - migReserve s

/-- The free page of lowest index from `i` on (R202). -/
def lowestFree (m : AMap Bool) (stack : Nat) : Nat → Nat → Nat
  | 0, i => i
  | k + 1, i => if pageUsed m stack i then lowestFree m stack k (i + 1) else i

/-- Takes the free page of lowest index of a stack. -/
def takePage (m : AMap Bool) (stack : Nat) : Nat × AMap Bool :=
  let i := lowestFree m stack stackPages 0
  (i, aset (fun _ => false) m (pkey stack i) true)

/-- The stacks of a stripe: 0xff is ALL, t is TILE(t) (R200). -/
def stripeStacks (s : State) (stripe : Nat) : List Nat :=
  if stripe = 0xff then s.fit.hbmFitted else s.fit.hbmFitted.filter (fun k => k / 3 == stripe)

/-- The stack with the fewest allocated pages, lowest number on ties (R202); retired pages are not
allocated. -/
def firstStack (s : State) (ks : List Nat) : Nat :=
  let load (k : Nat) : Nat := pagesOn s.mem.used k - pagesOn s.mem.retired k
  match ks with
  | [] => 0
  | k :: r => r.foldl (fun a b => if load b < load a then b else a) k

/-- The first stack from the head of a rotation with `need` allocatable pages, and the rotation after it. -/
def rotate (avail : Nat → Nat) (need : Nat) : Nat → List Nat → Option (Nat × List Nat)
  | 0, _ => none
  | _ + 1, [] => none
  | n + 1, k :: r => if need ≤ avail k then some (k, r ++ [k]) else rotate avail need n (r ++ [k])

/-- Places `n` pages round-robin (R202); a STATE page takes two physical pages of one stack (R203, R213), so that a stack with
one free page is passed over (assumption 138). -/
def placePages (state : Bool) (avail : Nat → Nat) : Nat → List Nat → AMap Bool → Option (List Page × AMap Bool)
  | 0, _, m => some ([], m)
  | n + 1, rot, m =>
    match rotate avail (if state then 2 else 1) rot.length rot with
    | none => none
    | some (k, rot) =>
      let (i, m) := takePage m k
      let (w, m) := if state then takePage m k else (0, m)
      let used := if state then 2 else 1
      match placePages state (fun j => if j = k then avail j - used else avail j) n rot m with
      | none => none
      | some (ps, m) => some ({ stack := k, idx := i, widx := w } :: ps, m)

/-- A list turned so that `k` stands first. -/
def turnTo (k : Nat) (l : List Nat) : List Nat := l.dropWhile (· != k) ++ l.takeWhile (· != k)

/-- The pages of an allocation, or `none` when it is rejected with PLACEMENT_FULL (R200, R202). -/
def placeTensor (s : State) (size cls stripe : Nat) : Option (List Page × AMap Bool) :=
  let n := (size + pageSize - 1) / pageSize
  let ks := stripeStacks s stripe
  let need := if cls = 0 then 2 * n else n
  if (ks.map (freePages s)).sum < need then none
  else placePages (cls == 0) (freePages s) n (turnTo (firstStack s ks) ks) s.mem.used

/-- The first handle from `h` on that is neither reserved nor allocated (R199). -/
def pickHandle (s : State) : Nat → Nat → Nat
  | 0, h => h
  | k + 1, h =>
    let h := h % 2 ^ 24
    if h = 0 ∨ h = 0xffffff ∨ (tensorOf s h).isSome then pickHandle s k (h + 1) else h

/-- Physical pages of a tensor. -/
def tensorPhys (t : Tensor) : List Nat :=
  t.pages.flatMap (fun p => if t.cls = 0 then [pkey p.stack p.idx, pkey p.stack p.widx] else [pkey p.stack p.idx])

/-! ### Rows of a stack (Table 8.1) -/

/-- The controller of stack `k`. -/
def hbmGet (s : State) (k : Nat) : Hbm := s.mem.hbm.getD k {}
/-- Changes the controller of stack `k`. -/
def hbmMod (s : State) (k : Nat) (f : Hbm → Hbm) : State :=
  let l := s.mem.hbm ++ List.replicate (12 - s.mem.hbm.length) ({} : Hbm)
  { s with mem := { s.mem with hbm := l.set k (f (l.getD k {})) } }

/-- Rows of the two pools of a pseudo-channel, bytes of a row, and rows of a page in each pseudo-channel. -/
def primRows : Nat := 64
def cullRows : Nat := 32
def rowBytes : Nat := 1024
def pageRows : Nat := 64

/-- Key of a logical row, and its pseudo-channel, bank and row address. -/
def rowKey (pch bank row : Nat) : Nat := pch * 2 ^ 40 + bank * 2 ^ 32 + row
def keyPch (k : Nat) : Nat := k / 2 ^ 40
def keyBank (k : Nat) : Nat := k / 2 ^ 32 % 256
def keyRow (k : Nat) : Nat := k % 2 ^ 32

/-- Number of a row among the data rows of its pseudo-channel. -/
def rowIndex (s : State) (bank row : Nat) : Nat := bank * s.fit.bankRows + row
/-- The row belongs to the data capacity, of which every row belongs to exactly one page. -/
def rowData (s : State) (bank row : Nat) : Bool := decide (row < s.fit.bankRows) && decide (rowIndex s bank row < stackPages * pageRows)
/-- The page that a data row belongs to: 64 rows of it in each pseudo-channel (Table 8.1; assumption 12). -/
def rowPage (s : State) (stack pch bank row : Nat) : Nat :=
  (rowIndex s bank row / pageRows + Config.pageShift stack pch) % stackPages

/-- Rows of a page that have been remapped. -/
def remappedIn (s : State) (stack i : Nat) : Nat :=
  (hbmGet s stack).rows.countP (fun e => 0 < e.2.pool && rowPage s stack (keyPch e.1) (keyBank e.1) (keyRow e.1) == i)

/-! ### Migrations (R204, R205) -/

/-- Destination stack of a migration (R205): the same stack, then the same tile, then any. A STATE page that
leaves its stack takes both versions along (R203) and needs two free pages. -/
def migDest (s : State) (stack : Nat) (state : Bool) : Option Nat :=
  let try_ (l : List Nat) : Option Nat := l.find? (fun k => (if state && k != stack then 2 else 1) ≤ freeRaw s k)
  (try_ [stack]).or ((try_ (s.fit.hbmFitted.filter (fun k => k / 3 == stack / 3))).or (try_ s.fit.hbmFitted))

/-- The stack that holds a version of a page. -/
def migStack (s : State) (g : Mig) : Nat := match tensorOf s g.handle with
  | some t => (t.pages.getD g.page {}).stack
  | none => 0

/-- Two migrations of one version of one page. -/
def sameMig (x g : Mig) : Bool := x.handle == g.handle && x.page == g.page && x.ver == g.ver

/-- A destination on stack `k`: the free page of lowest index, of those with fewer than two remapped rows while there is one
(assumption 100). -/
def takeDest (s : State) (m : AMap Bool) (k : Nat) : Nat × AMap Bool :=
  let i := lowestFree m k stackPages 0
  if remappedIn s k i < 2 then (i, aset (fun _ => false) m (pkey k i) true)
  else
    let bad := ((hbmGet s k).rows.filter (fun e => 0 < e.2.pool)).map (fun e => pkey k (rowPage s k (keyPch e.1) (keyBank e.1) (keyRow e.1)))
    let j := lowestFree (bad.foldl (fun m p => aset (fun _ => false) m p true) m) k stackPages 0
    let i := if j < stackPages then j else i
    (i, aset (fun _ => false) m (pkey k i) true)

/-- Two migrations of one page, and one that takes both versions of the page of another along. -/
def samePage (x g : Mig) : Bool := x.handle == g.handle && x.page == g.page
def takesBoth (x g : Mig) : Bool := samePage x g && x.dst2.isSome

/-- A migration due a second time, of the same version or of one that goes along: it retires that page at the switch when
that is now due. -/
def dueAgain (g x : Mig) : Mig :=
  if !g.retire then x
  else if sameMig x g then { x with retire := true, row := g.row }
  else if takesBoth x g then { x with retire2 := true, row2 := g.row } else x

/-- A physical page, by its key, returns to the free list: its lines go, and it is written to zero in class 3 (R201). -/
def freePhys (s : State) (k : Nat) : State :=
  let s := dropPage prioHost (k / 2 ^ 16) (k % 2 ^ 16) false s
  let s := hbmBytes s (k / 2 ^ 16) prioHost pageSize
  { s with mem := { s.mem with used := aset (fun _ => false) s.mem.used k false } }

/-- Destination pages of a migration. -/
def migPages (g : Mig) : List Nat := pkey g.dstStack g.dst :: (g.dst2.map (pkey g.dstStack)).toList

/-- A migration that takes both versions to another stack takes the place of that of the other version (R203). -/
def joinMigs (s : State) (g : Mig) : State :=
  let os := (s.mem.migs ++ s.mem.migWait).filter (fun x => samePage x g)
  let g := match os.find? (·.retire) with
    | some x => { g with retire2 := true, row2 := x.row }
    | none => g
  let s := ((s.mem.migs.filter (fun x => samePage x g)).flatMap migPages).foldl freePhys s
  { s with mem := { s.mem with migs := s.mem.migs.filter (fun x => !samePage x g) ++ [g], migWait := s.mem.migWait.filter (fun x => !samePage x g) } }

/-- Starts a migration (R204, R205): takes the destination page, or waits and reports exhaustion. One that has started, or
waits, stays as it is. -/
def startMig (s : State) (g : Mig) : State :=
  if (s.mem.migs ++ s.mem.migWait).any (fun x => sameMig x g || takesBoth x g) then
    { s with mem := { s.mem with migs := s.mem.migs.map (dueAgain g), migWait := s.mem.migWait.map (dueAgain g) } }
  else match migDest s (migStack s g) (isState s g.handle) with
  | some k =>
    let (i, m) := takeDest s s.mem.used k
    if isState s g.handle && k != migStack s g then
      let (j, m) := takeDest s m k
      joinMigs { s with mem := { s.mem with used := m } } { g with dstStack := k, dst := i, dst2 := some j }
    else { s with mem := { s.mem with used := m, migs := s.mem.migs ++ [{ g with dstStack := k, dst := i, dst2 := none }] } }
  | none =>
    setInt { s with mem := { s.mem with migWait := s.mem.migWait ++ [g], exhausted := true } } .plc 0 2

/-- Migrations that found no page start again (R205). -/
def retryMigs (s : State) : State :=
  s.mem.migWait.foldl startMig { s with mem := { s.mem with migWait := [], exhausted := false } }

/-- The tensor page and version on a physical page. -/
def pageOwner (s : State) (stack i : Nat) : Option (Nat × Nat × Bool) :=
  s.mem.tensors.findSome? (fun e => match e.2 with
    | none => none
    | some t =>
      match t.pages.findIdx? (fun p => p.stack == stack && (p.idx == i || (t.cls == 0 && p.widx == i))) with
      | some n => some (e.1, n, t.cls == 0 && (t.pages.getD n {}).widx == i)
      | none => none)

/-- A page in use that holds two or more remapped rows migrates while MIG_EN is 1 (R204). -/
def checkPage (s : State) (stack i : Nat) : State :=
  if (pgGet s .plc 0 8).getLsbD 0 && decide (2 ≤ remappedIn s stack i) then
    match pageOwner s stack i with
    | some (h, n, v) => startMig s { handle := h, page := n, ver := v }
    | none => s
  else s

/-- The same for every page with a remapped row: after a change of MIG_EN, of the remaps or of the pages in use. -/
def checkMigs (s : State) : State :=
  (List.range 12).foldl (fun s k =>
    ((hbmGet s k).rows.filter (fun e => 0 < e.2.pool)).foldl (fun s e => checkPage s k (rowPage s k (keyPch e.1) (keyBank e.1) (keyRow e.1))) s) s

/-- Marks a page retired (R222). -/
def retirePage (s : State) (stack i handle page : Nat) (payload : List Byte) : State :=
  let s := { s with mem := { s.mem with
      used := aset (fun _ => false) s.mem.used (pkey stack i) true
      retired := aset (fun _ => false) s.mem.retired (pkey stack i) true, lastRetire := (handle, page) } }
  let s := logPut s 7 (blkId s .plc 0) 0 (payload ++ leBytes 4 i ++ leBytes 3 handle)
  setInt (bump s .plc 0 0xc18 1) .plc 0 1

/-- Creates a tensor on the pages found (R200). Which unused handle it takes is free (assumption 9). -/
def allocTensor (s : State) (size cls : Nat) (pages : List Page) (used : AMap Bool) : Nat × State :=
  let (n, s) := draw s
  let h := pickHandle s 262147 (Config.allocHandle n).toNat
  let s := { s with mem := { s.mem with
      tensors := aset (fun _ => none) s.mem.tensors h (some { size := size, cls := cls, pages := pages }), used := used } }
  (h, checkMigs (bump s .plc 0 0xc00 1))

/-- The physical page of a version of a tensor page. -/
def verPage (t : Tensor) (page : Nat) (ver : Bool) : Nat × Nat :=
  let p := t.pages.getD page {}
  (p.stack, if ver then p.widx else p.idx)

/-- Frees a tensor (R201): its pages, and those that migrations of it had taken, return to the free lists, its data reads
zero, and a page of it that was to retire does (R222). -/
def freeTensor (s : State) (h : Nat) : State :=
  match tensorOf s h with
  | none => s
  | some t =>
    let k := tkey h 0
    let span := 2 ^ 40
    let mine := s.mem.migs.filter (fun g => g.handle == h)
    let due := (mine ++ s.mem.migWait.filter (fun g => g.handle == h)).filter (·.retire)
    let s := (tensorPhys t ++ mine.flatMap migPages).foldl freePhys s
    let s := { s with mem := { s.mem with
        tensors := aset (fun _ => none) s.mem.tensors h none
        bytes := aclr s.mem.bytes k span, work := aclr s.mem.work k span
        poison := aclr s.mem.poison (k / 32) (span / 32), wpoison := aclr s.mem.wpoison (k / 32) (span / 32)
        written := aclr s.mem.written (h * 2 ^ 20) (2 ^ 20), swapped := aclr s.mem.swapped (h * 2 ^ 20) (2 ^ 20)
        migs := s.mem.migs.filter (fun g => g.handle != h), migWait := s.mem.migWait.filter (fun g => g.handle != h)
        restored := s.mem.restored.filter (· != h) } }
    let s := { s with seq := { s.seq with projFmt := aclr s.seq.projFmt (h * 2 ^ 16) (2 ^ 16) } }
    let retire (s : State) (page : Nat) (ver : Bool) (row : List Byte) : State :=
      retirePage s (verPage t page ver).1 (verPage t page ver).2 h page row
    let s := due.foldl (fun s g => retire s g.page g.ver g.row) s
    let s := (mine.filter (·.retire2)).foldl (fun s g => retire s g.page (!g.ver) g.row2) s
    retryMigs (bump s .plc 0 0xc08 1)

/-! ### Row failures and scrub (R218 to R223) -/

/-- Bytes of a REMAP payload (Table 18.4). -/
def remapPayload (stack pch bank pool row count spare : Nat) : List Byte :=
  leBytes 1 stack ++ leBytes 1 pch ++ leBytes 1 bank ++ leBytes 1 pool ++ leBytes 4 row ++ leBytes 1 count
    ++ leBytes 3 0 ++ leBytes 4 spare

/-- The migration that copies to a physical page. -/
def migOnto (s : State) (stack i : Nat) : Option Mig := s.mem.migs.find? (fun g => (migPages g).contains (pkey stack i))

/-- Retirement of the page that holds a row (R222): a page in use migrates first; a migration that copies to it takes
another destination (assumption 100). -/
def retireRow (s : State) (stack pch bank row : Nat) : State :=
  let i := rowPage s stack pch bank row
  let payload := leBytes 1 stack ++ leBytes 1 pch ++ leBytes 2 bank ++ leBytes 4 row
  if aget (fun _ => false) s.mem.retired (pkey stack i) then s
  else match pageOwner s stack i with
    | some (h, n, v) => startMig s { handle := h, page := n, ver := v, retire := true, row := payload }
    | none =>
      match migOnto s stack i with
      | some g =>
        let s := (migPages g).foldl freePhys { s with mem := { s.mem with migs := s.mem.migs.erase g } }
        let s := startMig (retirePage s stack i g.handle g.page payload) { g with retire2 := false, row2 := [] }
        if g.retire2 then startMig s { handle := g.handle, page := g.page, ver := !g.ver, retire := true, row := g.row2 } else s
      | none => retirePage s stack i 0 0 payload

/-- Bank of row `i` of a pool, and bank group of a bank (R220, R221). -/
def poolBank (s : State) (pool i : Nat) : Nat := if pool = 1 then aget id s.fit.primBanks i else aget id s.fit.cullBanks i
def bankGroup (s : State) (b : Nat) : Nat := aget (fun b => b / 4) s.fit.bankGroups b
/-- Rows of a pool that a pseudo-channel has used. -/
def poolUsed (b : Hbm) (pool pch : Nat) : List Nat := if pool = 1 then aget (fun _ => []) b.prim pch else aget (fun _ => []) b.cull pch
/-- Rows of a pool that are free. -/
def poolFree (b : Hbm) (pool pch : Nat) : List Nat :=
  (List.range (if pool = 1 then primRows else cullRows)).filter (fun i => !(poolUsed b pool pch).contains i)

/-- The spare that a row of `bank` takes: of the primary pool one of its bank, else of its bank group (R220); of the cullet
pool one of another bank group (R221). The first that is free, where several are (assumption 100). -/
def pickSpare (s : State) (stack pch bank pool : Nat) : Option Nat :=
  let free := poolFree (hbmGet s stack) pool pch
  let same (i : Nat) : Bool := bankGroup s (poolBank s pool i) == bankGroup s bank
  if pool = 1 then (free.find? (fun i => poolBank s pool i == bank)).or (free.find? same) else free.find? (fun i => !same i)

/-- Remap of a row to row `n` of a pool (R220, R221). -/
def remapTo (s : State) (stack pch bank row pool count n : Nat) : State :=
  let s := hbmMod s stack (fun b => { b with
      rows := aset (fun _ => {}) b.rows (rowKey pch bank row) { count := count, pool := pool, spare := n, ce := 0 }
      prim := if pool = 1 then aset (fun _ => []) b.prim pch (poolUsed b 1 pch ++ [n]) else b.prim
      cull := if pool = 1 then b.cull else aset (fun _ => []) b.cull pch (poolUsed b 2 pch ++ [n]) })
  let s := bump s .hbm stack (if pool = 1 then 0xc40 else 0xc48) 1
  let s := logPut s 6 (blkId s .hbm stack) 0 (remapPayload stack pch bank pool row count n)
  let s := if (poolFree (hbmGet s stack) pool pch).length < 8 then setInt s .hbm stack 4 else s
  checkPage s stack (rowPage s stack pch bank row)

/-- Failure of a logical row (R219 to R222): a first failure takes a primary spare, a second, or a first that finds none, a
cullet row, and any other retires the page. -/
def rowFail (s : State) (stack pch bank row : Nat) : State :=
  let b := hbmGet s stack
  let r := aget (fun _ => {}) b.rows (rowKey pch bank row)
  let c := r.count + 1
  let s := hbmMod s stack (fun b => { b with rows := aset (fun _ => {}) b.rows (rowKey pch bank row) { r with count := c, ce := 0 } })
  let s := setInt (bump s .hbm stack 0xc38 1) .hbm stack 1
  match (if c = 1 then pickSpare s stack pch bank 1 else none), (if c ≤ 2 then pickSpare s stack pch bank 2 else none) with
  | some n, _ => remapTo s stack pch bank row 1 c n
  | none, some n => remapTo s stack pch bank row 2 c n
  | none, none => retireRow s stack pch bank row

/-- Poison marker on the line of a row that could not be corrected (R220, R224). -/
def poisonRow (s : State) (stack pch bank row : Nat) : State :=
  match pageOwner s stack (rowPage s stack pch bank row) with
  | none => s
  | some (h, n, v) =>
    let g := (tkey h (n * pageSize)) / 32 + Config.granuleOfRow stack pch bank row % (pageSize / 32)
    if v then { s with mem := { s.mem with wpoison := aset (fun _ => 0) s.mem.wpoison g (BitVec.allOnes 32) } }
    else { s with mem := { s.mem with poison := aset (fun _ => 0) s.mem.poison g (BitVec.allOnes 32) } }

/-- A read of a row meets errors (R218, R219): those corrected are counted, one that could not be corrected leaves a
poison marker. A row that does not fail is left with `ce` corrected errors in its scrub period. -/
def rowErrors (stack pch bank row corrected : Nat) (ue : Bool) (ce : Nat → Nat) (s : State) : State :=
  let s := bump s .hbm stack 0xc28 corrected
  let r := aget (fun _ => {}) (hbmGet s stack).rows (rowKey pch bank row)
  let fails := ue || 2 ≤ r.ce + corrected
  let s := if ue then setInt (bump (poisonRow s stack pch bank row) .hbm stack 0xc30 1) .hbm stack 2 else s
  if fails then rowFail s stack pch bank row
  else hbmMod s stack (fun b => { b with rows := aset (fun _ => {}) b.rows (rowKey pch bank row) { r with ce := ce (r.ce + corrected) } })

/-- Extra refreshes of a stack that TST_REF_CTRL has asked for since its latest scrub: their number is a matter of time, and
free (R476, assumption 131). -/
def extraRefreshes (stack : Nat) (s : State) : State :=
  if (pgGet s .hbm stack 0x080).toNat % 8 = 0 then s
  else
    let x := draw s
    tstCount x.2 .hbm stack 0x08c (Config.freeWord x.1).toNat

/-- SCRUB of one data row in class 3 (R218, R219), with the corrected errors it found and whether one was uncorrectable.
The row's scrub period ends with it (assumption 17). -/
def scrubEffect (stack pch bank row corrected : Nat) (ue : Bool) (s : State) : State :=
  if !(pgGet s .hbm stack 8).getLsbD 0 || !s.fit.hbmFitted.contains stack || (hbmGet s stack).st != .operating || !rowData s bank row then s
  else
    let s := hbmBytes (bump s .hbm stack 0xc50 1) stack prioHost rowBytes
    let s := if (pgGet s .hbm stack 0x088).toNat / 2 % 32 = pch then injectErrs stack rowBytes s else s
    let s := extraRefreshes stack s
    rowErrors stack pch bank row corrected ue (fun _ => 0) s

def execScrub (stack : Fin 12) (pch : Fin 32) (bank : Byte) (row : Word) (corrected : Nat) (ue : Bool) (s : State) :
    Host.Outcome State Fault Refusal :=
  .next (scrubEffect stack pch bank.toNat row.toNat corrected ue s)

/-! ### Reads of a COPY (R192, R219) -/

/-- A row holds bytes of the committed version of tensor `h` (assumption 12), on a stack in operation. -/
def rowRead (s : State) (h : Nat) (x : RowErr) : Bool :=
  s.fit.hbmFitted.contains x.stack.val && (hbmGet s x.stack).st == .operating && rowData s x.bank.toNat x.row.toNat
  && match pageOwner s x.stack (rowPage s x.stack x.pch x.bank.toNat x.row.toNat) with
    | some (k, _, v) => k == h && !v
    | none => false

/-- The read of tensor `h` meets errors in a row of it; a row of another tensor is not read. -/
def readRow (h : Nat) (s : State) (x : RowErr) : State :=
  if rowRead s h x then rowErrors x.stack x.pch x.bank.toNat x.row.toNat x.corrected x.uncorrectable id s else s

/-- The errors that a descriptor's read of its source meets; a descriptor without bytes reads nothing. -/
def readErrs (d : DmaDesc) (errs : List RowErr) (s : State) : State :=
  if epKind d.src = 0 ∧ d.rows ≠ 0 ∧ d.length ≠ 0 then errs.foldl (readRow (epHandle d.src)) s else s

/-- COPY (Table 7.4), with the errors that its read meets. -/
def execDmaCopy (e : Fin 96) (idx : BitVec 24) (d : DmaDesc) (errs : List RowErr) (s : State) : Host.Outcome State Fault Refusal :=
  match pickStatus (dmaCheck 1 d ++ dmaCheckMem 1 d s) with
  | 0 => .next (dmaRun 1 e idx.toNat d [] (if dmaBarred 1 e idx.toNat d s then s else readErrs d errs s))
  | st => .refused (.rejectedAtLoad st)

/-- The page after a switch; a STATE page that has changed stack keeps its update unit until the next boundary (R205). -/
def pageAfter (t : Tensor) (p : Page) (g : Mig) : Page :=
  { stack := g.dstStack, idx := if g.ver then g.dst2.getD p.idx else g.dst, widx := if g.ver then g.dst else g.dst2.getD p.widx,
    unit := if t.cls = 0 ∧ g.dstStack ≠ p.stack then some (p.unit.getD p.stack) else p.unit }

/-- A physical page has been copied in class 3, and its slice writes back and drops its lines (R204). -/
def leavePage (stack phys dstStack : Nat) (s : State) : State :=
  dropPage prioHost stack phys true (hbmBytes (hbmBytes s stack prioHost pageSize) dstStack prioHost pageSize)

/-- MIGRATION_SWITCH (R204, R222): the map switches to the copy; the old page returns to the free list, or
retires. -/
def migrationSwitchEffect (h page : Nat) (ver : Bool) (s : State) : State :=
  match s.mem.migs.find? (fun g => g.handle == h && g.page == page && g.ver == ver), tensorOf s h with
  | some g, some t =>
    let p := t.pages.getD page {}
    let old := if ver then p.widx else p.idx
    let other := if ver then p.idx else p.widx
    let s := leavePage p.stack old g.dstStack s
    let s := if g.dst2.isSome then leavePage p.stack other g.dstStack s else s
    let used := if g.retire then s.mem.used else aset (fun _ => false) s.mem.used (pkey p.stack old) false
    let used := if g.dst2.isSome ∧ g.retire2 = false then aset (fun _ => false) used (pkey p.stack other) false else used
    let s := { s with mem := { s.mem with
        tensors := aset (fun _ => none) s.mem.tensors h (some { t with pages := t.pages.set page (pageAfter t p g) })
        migs := s.mem.migs.erase g, used := used } }
    let s := bump s .plc 0 0xc10 1
    let s := if g.retire then retirePage s p.stack old h page g.row else s
    checkMigs (if g.retire2 then retirePage s p.stack other h page g.row2 else s)
  | _, _ => s

def execMigrationSwitch (h : BitVec 24) (page : Nat) (ver : Bool) (s : State) : Host.Outcome State Fault Refusal :=
  .next (migrationSwitchEffect h.toNat page ver s)

/-! ### Margining results (R225) -/

/-- MARGIN_DONE: bit errors, saturating, DONE and the interrupt; the trained settings return. -/
def marginDoneEffect (stack errors : Nat) (s : State) : State :=
  if (hbmGet s stack).st == .margining then
    setInt (hbmMod s stack (fun b => { b with st := .operating, marginErr := min errors 0xffff, marginDone := true })) .hbm stack 8
  else s

def execMarginDone (stack : Fin 12) (errors : Nat) (s : State) : Host.Outcome State Fault Refusal :=
  .next (marginDoneEffect stack errors s)

end Sys2Proof.Machine
end

