-- ==== Sys2Proof/Machine/Projection.lean ====
section
/-! DEFINITION. Projection of master values into a forward copy (R121 to R131). -/

namespace Sys2Proof.Machine

/-- A block as projected: the block, its spillway values by position, the values it decodes to, and whether
it was written invalid under R126. -/
structure ProjBlk where
  b : PBlk := {}
  outs : List (Nat × B16) := []
  dec : List Num := []
  invalid : Bool := false

/-- Candidates of a block (R122), by position. -/
def projCands (outK : Nat) (x : List F32) : List Nat :=
  let a0 := fdiv (match x.map fabs with
    | [] => 0
    | a :: r => r.foldl fadd a) (f32OfNat 32)
  if outK = 0 then []
  else (List.range x.length).filter (fun i =>
    let lim := ((Num.fin false outK (-2)).mul (f32V a0))
    lim.lt (f32V (fabs (x.getD i 0))))

/-- The invalid form of a block (R126): narrow, scale 0xff, digit 1 or code 0, no entries. -/
def projInvalid (f : Fmt) : PBlk :=
  { scale := 0xff, wide := false, codes := List.replicate 32 (if f == .t2 then 1 else 0) }

/-- A wide block (R126): the F8A.S conversion of the values. -/
def projWide (x : List F32) : ProjBlk :=
  let o := cnvBlock .f8as (x.map f32V) (fun _ => none)
  { b := { scale := o.scale, wide := true, codes := o.codes }, dec := Fmt.decBlock .f8as o.scale o.codes }

/-- A narrow T2 block with its outliers (R123). -/
def projT2 (x : List F32) (c : List Nat) : ProjBlk :=
  let non := (List.range 32).filter (fun i => !c.contains i)
  let sum := match non.map (fun i => fabs (x.getD i 0)) with
    | [] => 0
    | a :: r => r.foldl fadd a
  let mean := fdiv sum (f32OfNat non.length)
  let code := if (f32V mean).isZero then 0x78 else encS8 mean
  let s := s8V code
  let digit (i : Nat) : Nat :=
    let v := f32V (x.getD i 0)
    if c.contains i then 1 else if (s.shift (-1)).lt v then 2 else if v.lt (s.shift (-1)).neg then 0 else 1
  let ds := (List.range 32).map digit
  let outs := c.map (fun i => (i, rneB16 (f32V (x.getD i 0))))
  let dec := (List.range 32).map (fun i =>
    match outs.find? (fun o => o.1 == i) with
    | some o => b16V o.2
    | none => (planeCodeV .t2 (ds.getD i 1)).mul s)
  { b := { scale := code, codes := ds }, outs := outs, dec := dec }

/-- The smallest code with `2 v ≥ a`, from code `n` on (R124). -/
def w2Scale (a : Num) : Nat → Nat → Byte
  | 0, _ => 0xfe
  | k + 1, n => if a.le ((s8V (BitVec.ofNat 8 n)).shift 1) then BitVec.ofNat 8 n else w2Scale a k (n + 1)

/-- A narrow W2 block with its outliers (R124). -/
def projW2 (x : List F32) (c : List Nat) : ProjBlk :=
  let non := (List.range 32).filter (fun i => !c.contains i)
  let a := maxFinite (non.map (fun i => f32V (x.getD i 0)))
  let code := if a.isZero then 0x78 else w2Scale a 255 0
  let v := s8V code
  let level (i : Nat) : Nat :=
    let y := f32V (x.getD i 0)
    let small := y.abs.lt v
    if y.lt (.fin false 0 0) then (if small then 1 else 0) else (if small then 2 else 3)
  let ls := (List.range 32).map level
  let lv (i : Nat) : Num := (planeCodeV .w2 (ls.getD i 2)).mul v
  let outs := c.map (fun i => (i, rneB16 (f32V ((f32V (x.getD i 0)).add (lv i).neg).toF32)))
  let dec := (List.range 32).map (fun i =>
    match outs.find? (fun o => o.1 == i) with
    | some o => (lv i).add (b16V o.2)
    | none => lv i)
  { b := { scale := code, codes := ls }, outs := outs, dec := dec }

/-- One block of a T2 or W2 forward copy, with `room` entries left in its spillway group (R122, R126,
R130). -/
def projBlock (f : Fmt) (outK room : Nat) (x : List F32) : ProjBlk :=
  if x.any (fun v => (f32V v).nonfinite) then { b := projInvalid f, invalid := true, dec := List.replicate 32 .nan }
  else
    let c := projCands outK x
    if 3 ≤ c.length || room < c.length then projWide x
    else if f == .t2 then projT2 x c else projW2 x c

/-- The blocks of a plane in order; `n` is the block number and `used` the entries of its group so far. -/
def projBlocks (f : Fmt) (outK : Nat) : Nat → Nat → Nat → List F32 → List ProjBlk
  | 0, _, _, _ => []
  | k + 1, n, used, x =>
    let used := if n % 32 = 0 then 0 else used
    let p := projBlock f outK (64 - used) (x.take 32)
    p :: projBlocks f outK k (n + 1) (used + p.outs.length) (x.drop 32)

/-- Wide blocks beyond the first `w` are written invalid (R131). -/
def cutWide (f : Fmt) : Nat → List ProjBlk → List ProjBlk
  | _, [] => []
  | w, p :: r =>
    if p.b.wide then
      match w with
      | 0 => { b := projInvalid f, dec := List.replicate 32 .nan } :: cutWide f 0 r
      | w + 1 => p :: cutWide f w r
    else p :: cutWide f w r

/-- The projection of one plane or row: the stored bytes, the decoded values, and what R126 and R131 count. -/
structure Proj where
  bytes : List Byte := []
  dec : List Num := []
  spill : Nat := 0
  wide : Nat := 0
  invalid : Nat := 0
  cut : Nat := 0
  fmtEvent : Bool := false

/-- A spillway entry (Table 5.1) of block `n` of a plane. -/
def spillWord (n i : Nat) (o : B16) : Word :=
  BitVec.ofNat 32 (o.toNat + i * 2 ^ 16 + n % 3 * 2 ^ 21 + n / 3 * 2 ^ 23)

/-- WMAX of R129. -/
def wMax (wideNum : Nat) : Nat := 288 * wideNum / 256

/-- SLOT of a plane in a forward-copy tensor (R129, Table 10.2). -/
def slotSize (f : Fmt) (wideNum : Nat) : Nat :=
  match f with
  | .t2 => (288 * 8 + 32 * wMax wideNum + 4 + 2304 + 15) / 16 * 16
  | .w2 => (288 * 10 + 32 * wMax wideNum + 4 + 2304 + 15) / 16 * 16
  | g => g.stored 288

/-- Zero bytes up to a multiple of 16. -/
def pad16 (bs : List Byte) : List Byte := bs ++ List.replicate ((16 - bs.length % 16) % 16) 0

/-- Projection of a T2 or W2 plane of 9216 values in element order (R122 to R131). The wide blocks counted are those written,
after the cut (assumption 122). -/
def projPlane (f : Fmt) (outK wideNum : Nat) (x : List F32) : Proj :=
  let ps := projBlocks f outK 288 0 0 x
  let wides := ps.countP (fun p => p.b.wide)
  let qs := cutWide f (wMax wideNum) ps
  let ents := (qs.mapIdx (fun n p => p.outs.map (fun o => spillWord n o.1 o.2))).flatten
  { bytes := pad16 (qs.flatMap (fun p => lowBytes f p.b) ++ leBytes 4 ents.length ++ ents.flatMap (fun w => leBytes 4 w.toNat))
    dec := qs.flatMap (·.dec), spill := ents.length, wide := min wides (wMax wideNum),
    invalid := qs.countP (·.invalid), cut := wides - wMax wideNum, fmtEvent := decide (wMax wideNum < wides) }

/-- One block of an F8A.S forward copy; one that holds a NaN or an infinite value is written invalid (R126). -/
def projF8Block (x : List F32) : BlkOut :=
  if x.any (fun v => (f32V v).nonfinite) then { scale := 0xff, codes := x.map (fun _ => 0) }
  else cnvBlock .f8as (x.map f32V) (fun _ => none)

/-- The blocks of an F8A.S forward copy (R126). -/
def projF8 (x : List F32) : List BlkOut × Proj :=
  let outs := (List.range (x.length / 32)).map (fun b => projF8Block ((x.drop (32 * b)).take 32))
  (outs, { bytes := asmStored .f8as outs, dec := outs.flatMap (fun o => Fmt.decBlock .f8as o.scale o.codes),
           invalid := outs.countP (fun o => o.scale == 0xff) })

/-- The new residue of one element (R127): +0 in an invalid block, whose elements alone decode to NaN. -/
def residue (x : F32) (d : Num) : B16 :=
  if d.isNaN then 0 else rneB16 (f32V ((f32V x).add d.neg).toF32)

end Sys2Proof.Machine
end

