-- ==== Sys2Proof/Machine/Update.lean ====
section
/-! DEFINITION. The parameter update (R264 to R288): update descriptors and rule records, the update rule,
the writes of working versions with update fences (R213 to R216, R277, R278), and FENCE_LIFT. -/

namespace Sys2Proof.Machine

/-! ### Units -/

/-- The unit beside stack `u`. -/
def updGet (s : State) (u : Nat) : Upd := aget (fun _ => {}) s.upd u
/-- Changes the record of unit `u`. -/
def updMod (s : State) (u : Nat) (f : Upd → Upd) : State := { s with upd := aset (fun _ => {}) s.upd u (f (updGet s u)) }

/-! ### Descriptors (Table 10.1) -/

/-- An update descriptor from its 64 bytes: the opcode, the fields, and that a reserved bit or byte is
nonzero. -/
def updParse (w : Cmd) : Nat × UpdDesc × Bool :=
  let u32 (b : Nat) : Word := BitVec.ofNat 32 (fld w (8 * b) 32)
  (fld w 0 8,
   { clip := w.getLsbD 8, nfHold := w.getLsbD 9, fcf := BitVec.ofNat 4 (fld w 16 4), gf := BitVec.ofNat 4 (fld w 20 4),
     cid := BitVec.ofNat 8 (fld w 24 8), layer := BitVec.ofNat 16 (fld w 32 16), first := u32 8, count := u32 12,
     gH := u32 16, wH := u32 20, cH := u32 24, m1H := u32 28, m2H := u32 32, fcH := u32 36, eH := u32 40, nH := u32 44,
     rowElems := u32 48, ruleOff := u32 52, tH := u32 56, kH := u32 60 },
   fld w 10 6 != 0 || fld w 48 16 != 0)

/-- Handle fields of a descriptor. -/
def updHandles (d : UpdDesc) : List Word := [d.gH, d.wH, d.cH, d.m1H, d.m2H, d.fcH, d.eH, d.nH, d.tH, d.kH]

/-- A rule record (Table 10.3). -/
structure Rule where
  beta1 : F32 := 0
  beta2 : F32 := 0
  eps : F32 := 0
  clip : F32 := 0
  mform : Nat := 0
  k1 : Int := 0
  k2 : Int := 0
  normEv : Nat := 0xff
  t0 : Nat := 0
  tabOff : Nat := 0
  tabLen : Nat := 0
  tabBase : Nat := 0
deriving DecidableEq, Repr

/-- The rule record at an image offset. -/
def ruleAt (s : State) (p : Prog) (off : Nat) : Rule :=
  let n (o k : Nat) : Nat := imgNat s p (off + o) k
  { beta1 := BitVec.ofNat 32 (n 0 4), beta2 := BitVec.ofNat 32 (n 4 4), eps := BitVec.ofNat 32 (n 8 4),
    clip := BitVec.ofNat 32 (n 12 4), mform := n 0x10 1, k1 := (BitVec.ofNat 8 (n 0x11 1)).toInt,
    k2 := (BitVec.ofNat 8 (n 0x12 1)).toInt, normEv := n 0x13 1, t0 := n 0x18 8, tabOff := n 0x20 4, tabLen := n 0x24 4,
    tabBase := n 0x28 8 }

/-- LR and WD of entry `i` of the step-constant table (R270). -/
def ruleEntry (s : State) (p : Prog) (r : Rule) (i : Nat) : F32 × F32 :=
  (BitVec.ofNat 32 (imgNat s p (r.tabOff + 8 * i) 4), BitVec.ofNat 32 (imgNat s p (r.tabOff + 8 * i + 4) 4))

/-- Format of the stored moments (R272). -/
def momFmt (r : Rule) : Fmt := if r.mform = 0 then .f8as else .b16

/-- Whether an F32 is finite and at or above zero. -/
def finNonneg (x : F32) : Bool := match f32V x with
  | .fin s m _ => !s || m == 0
  | _ => false

/-- Checks of Table 10.7 on a rule record and its table. -/
def ruleCheck (s : State) (p : Prog) (off : Nat) : List Half :=
  if off % 64 != 0 then [stField]
  else if p.len < off + 64 then [stLen]
  else
    let r := ruleAt s p off
    let lt1 (x : F32) : Bool := finNonneg x && (f32V x).lt (.fin false 1 0)
    let kOk (k : Int) : Bool := if r.mform = 0 then decide (-32 ≤ k ∧ k ≤ 32) else k == 0
    let bad := !lt1 r.beta1 || !lt1 r.beta2
      || !((f32V r.eps).isInf == false && (Num.fin false 1 (-126)).le (f32V r.eps))
      || !(finNonneg r.clip && !(f32V r.clip).isZero)
      || 1 < r.mform || !kOk r.k1 || !kOk r.k2
      || !(r.normEv = 0xff || (32 ≤ r.normEv && r.normEv < 64))
      || imgNat s p (off + 0x14) 4 != 0 || imgNat s p (off + 0x30) 16 != 0
      || r.tabOff % 64 != 0 || r.tabLen < 1 || 2 ^ 24 < r.tabLen
    let tab := decide (p.len < r.tabOff + 8 * r.tabLen)
    chk bad stField ++ chk tab stLen
    ++ (if bad || tab then [] else chk ((List.range r.tabLen).any (fun i =>
          let e := ruleEntry s p r i
          !finNonneg e.1 || !finNonneg e.2)) stField)

/-- Checks of Table 10.7 on one descriptor alone. -/
def updCheck (op : Nat) (d : UpdDesc) (layers : Nat) : List Half :=
  let lazy := op = 2
  let fcf := fmtOfCode d.fcf.toNat
  let gf := fmtOfCode d.gf.toNat
  let fcOk := if lazy then fcf == some .f8as else fcf == some .t2 || fcf == some .w2 || fcf == some .f8as
  let gOk := gf == some .f8g || gf == some .f8gs || gf == some .b16 || gf == some .f32
  chk (op = 0 || 2 < op || (updHandles d).any (fun h => 2 ^ 24 ≤ h.toNat)
    || (!lazy && (d.rowElems != 0 || d.tH != 0 || d.kH != 0))
    || (d.clip && d.nH == 0) || (!d.clip && d.nH != 0) || d.ruleOff.toNat % 64 != 0) stField
  ++ chk (!fcOk || !gOk) stFmt
  ++ chk (layers ≤ d.layer.toNat
    || (lazy && (d.first == 0 || d.count == 0 || 2 ^ 24 ≤ d.count.toNat || d.rowElems.toNat % 32 != 0
      || d.rowElems.toNat < 32 || 65536 < d.rowElems.toNat))) stLen

/-- Extents in bytes by tensor (Table 10.2): input, then output handles. -/
def updExtents (op : Nat) (d : UpdDesc) (r : Rule) (wideNum : Nat) : List (Word × Nat × Bool) :=
  let fc := (fmtOfCode d.fcf.toNat).getD .f8as
  let gf := (fmtOfCode d.gf.toNat).getD .f32
  if op = 2 then
    let n := d.first.toNat * d.rowElems.toNat / 32
    let g := d.count.toNat * d.rowElems.toNat / 32
    [(d.gH, gf.stored g, false), (d.wH, 64 * n, true), (d.cH, 32 * n, true), (d.m1H, (momFmt r).stored n, true),
     (d.m2H, (momFmt r).stored n, true), (d.fcH, fc.stored n, true), (d.kH, 4 * d.first.toNat, true),
     (d.tH, 4 * (d.count.toNat + 1), false)]
    ++ (if d.eH = 0 then [] else [(d.eH, 64 * n, true)]) ++ (if d.nH = 0 then [] else [(d.nH, 4, false)])
  else
    let n := d.first.toNat + d.count.toNat
    [(d.gH, n * gf.stored 288, false), (d.wH, n * 18432, true), (d.cH, n * 9216, true), (d.m1H, n * (momFmt r).stored 288, true),
     (d.m2H, n * (momFmt r).stored 288, true), (d.fcH, n * slotSize fc wideNum, true)]
    ++ (if d.eH = 0 then [] else [(d.eH, n * 18432, true)]) ++ (if d.nH = 0 then [] else [(d.nH, 4, false)])

/-- The descriptors in the lists of the update units of a program, with their opcodes. -/
def updList (s : State) (p : Prog) : List (Nat × UpdDesc) :=
  (List.range 4).flatMap (fun t => [32, 33, 34].flatMap (fun u => (List.range (unitLen s p (t + 1) u)).map (fun k =>
    let x := updParse (unitDesc s p (t + 1) u k)
    (x.1, x.2.1))))

/-- First byte and bytes of a descriptor's carries in its carry tensor (Table 10.2). -/
def carrySpan (op : Nat) (d : UpdDesc) : Nat × Nat :=
  if op = 2 then (0, 32 * (d.first.toNat * d.rowElems.toNat / 32)) else (d.first.toNat * 9216, d.count.toNat * 9216)

/-- A restore that gave the master weights of a descriptor without their carries leaves every carry at 0 (R101). What the
host wrote since the latest START or RESUME is one restore (assumption 95). -/
def dropCarries (s : State) : State :=
  let lost (d : UpdDesc) : Bool := s.mem.restored.contains d.wH.toNat && !s.mem.restored.contains d.cH.toNat
  let zero (s : State) (x : Nat × UpdDesc) : State :=
    memWrite s x.2.cH.toNat (carrySpan x.1 x.2).1 (List.replicate (carrySpan x.1 x.2).2 0)
  let s := match s.seq.prog with
    | none => s
    | some p => ((updList s p).filter (fun (x : Nat × UpdDesc) => lost x.2)).foldl zero s
  { s with mem := { s.mem with restored := [] } }

/-- Checks of Table 10.7 against tensors. -/
def updCheckMem (s : State) (op : Nat) (d : UpdDesc) (r : Rule) (wideNum : Nat) : List Half :=
  (updExtents op d r wideNum).flatMap (fun e =>
    match tensorOf s e.1.toNat with
    | none => [stHandle]
    | some t => chk (e.2.2 && t.cls != 0) stHandle ++ chk (t.size < e.2.1) stLen)

/-! ### The rule (R270 to R275) -/

/-- powt of R271. -/
def powt (b : F32) (t : Nat) : F32 :=
  (List.range 32).foldl (fun r j =>
    let r := fmul r r
    if t.testBit (31 - j) then fmul r b else r) 0x3f800000

/-- Constants of one descriptor. -/
structure UpdK where
  r : Rule := {}
  lr : F32 := 0
  wd : F32 := 0
  cf : F32 := 0x3f800000
deriving DecidableEq, Repr

/-- New values of one element. -/
structure ElemOut where
  w : B16 := 0
  c : Byte := 0
  sat : Nat := 0
  m1 : F32 := 0
  m2 : F32 := 0
  /-- m' and rne_f32(m' − m). -/
  m : F32 := 0
  delta : F32 := 0
deriving DecidableEq, Repr

/-- The update of one element (R271): `bc` holds bc1 and bc2. -/
def updElem (k : UpdK) (bc : F32 × F32) (grad m m1 m2 : F32) : ElemOut :=
  let one : F32 := 0x3f800000
  let ob1 := fsub one k.r.beta1
  let ob2 := fsub one k.r.beta2
  let g := fmul grad k.cf
  let m1n := fadd (fmul k.r.beta1 m1) (fmul ob1 g)
  let m2n := fadd (fmul k.r.beta2 m2) (fmul ob2 (fmul g g))
  let h1 := fdiv m1n bc.1
  let h2 := fdiv m2n bc.2
  let den := fadd (fsqrt h2) k.r.eps
  let q := fdiv h1 den
  let st := fadd q (fmul k.wd m)
  let tgt := fsub m (fmul k.lr st)
  let (w, c, sat) := masterSplit tgt
  let mv := masterValue w c
  { w := w, c := c, sat := sat, m1 := m1n, m2 := m2n, m := mv, delta := fsub mv m }

/-- bc1 and bc2 for a bias count (R271). -/
def biasOf (r : Rule) (t : Nat) : F32 × F32 :=
  (fsub 0x3f800000 (powt r.beta1 t), fsub 0x3f800000 (powt r.beta2 t))

/-- Decoded moments (R272). -/
def momDec (r : Rule) (second : Bool) (v : Num) : F32 :=
  if r.mform = 0 then
    (if second then
      let u := (v.shift (-r.k2)).toF32
      fmul u u
    else (v.shift (-r.k1)).toF32)
  else v.toF32

/-- What is stored for a moment, before conversion (R272). -/
def momEnc (r : Rule) (second : Bool) (x : F32) : F32 :=
  if r.mform = 0 then
    (if second then ((f32V (fsqrt x)).shift r.k2).toF32 else ((f32V x).shift r.k1).toF32)
  else x

/-! ### Reads, spans and working pages (R224, R276, R277) -/

/-- An extent of a tensor: handle, offset and length. -/
abbrev Ext := Nat × Nat × Nat

/-- Extents of `nb` blocks from block `b` of a stored tensor. -/
def blockExts (h : Nat) (f : Fmt) (b nb : Nat) : List Ext :=
  (List.range nb).flatMap (fun j => (h, f.blockOff (b + j), f.blockBytes) :: (if f.scaleWord then [(h, f.scaleOff (b + j), 1)] else []))

/-- Decoded elements of `nb` blocks from block `b` (R75), as a unit reads them. -/
def tensorBlocks (s : State) (h : Nat) (f : Fmt) (b nb : Nat) : List Num :=
  (List.range nb).flatMap (fun j =>
    f.decBlock (if f.scaleWord then (tensorBytes s h (f.scaleOff (b + j)) 1).headD 0 else 0x78)
      (f.codes (tensorBytes s h (f.blockOff (b + j)) f.blockBytes)))

/-- Subnormal elements of those blocks that decoding into F32 flushes, where the stored format is B16 (R84, R87). -/
def tensorFlush (s : State) (h : Nat) (f : Fmt) (b nb : Nat) : Nat :=
  if f = .b16 then ((List.range nb).map (fun j => (f.codes (tensorBytes s h (f.blockOff (b + j)) f.blockBytes)).countP f.ff.isSub)).sum else 0

/-- Writes of converted blocks from block `b` on. -/
def blockWrites (h : Nat) (f : Fmt) (b : Nat) (outs : List BlkOut) : List (Nat × Nat × List Byte) :=
  (outs.mapIdx (fun j o =>
    (h, f.blockOff (b + j), f.bytesOf o.codes) :: (if f.scaleWord then [(h, f.scaleOff (b + j), [o.scale])] else []))).flatten

/-- The stack of page `k` of a tensor. -/
def pageStack (s : State) (h k : Nat) : Nat := match tensorOf s h with
  | some t => (t.pages.getD k {}).stack
  | none => 0

/-- The stack whose update unit writes page `k` of a tensor: the page's own, or until the next boundary the one that it
had before a migration (R203, R205). -/
def pageUnit (s : State) (h k : Nat) : Nat := match tensorOf s h with
  | some t => let p := t.pages.getD k {}; p.unit.getD p.stack
  | none => 0

/-- Adds to a counter of the unit beside each page of an extent (R265). -/
def bumpPages (s : State) (o : Nat) (e : Ext) : State :=
  (pageParts e.2.1 e.2.2).foldl (fun s p => bump s .upd (pageUnit s e.1 p.1) o p.2) s

/-- The length of page `k` of a tensor, to the allocated size (R277). -/
def pageLen (s : State) (h k : Nat) : Nat := match tensorOf s h with
  | some t => min pageSize (t.size - k * pageSize)
  | none => 0

/-- Poisoned granules of committed data that some extents cover. -/
def poisonHits (s : State) (es : List Ext) : List Nat :=
  (s.mem.poison.filter (fun p => p.2 != 0 && es.any (fun e => decide (p.1 * 32 < tkey e.1 e.2.1 + e.2.2 ∧ tkey e.1 e.2.1 < p.1 * 32 + 32)
    && e.2.2 != 0))).map (·.1)

/-- A read of poisoned data by a unit other than a tile DMA engine (R224): counted on the page's stack, and
the weir closes without commit. -/
def unitPoison (s : State) (es : List Ext) : State :=
  (poisonHits s es).foldl (fun s g =>
    let h := g * 32 / 2 ^ 40
    let k := pageStack s h (g * 32 % 2 ^ 40 / pageSize)
    setInt (bump { s with mem := { s.mem with memPoison := true } } .hbm k 0xc30 1) .hbm k 2) s

/-- Entries of a table between two keys copied over those of another. -/
def acopy (src dst : AMap α) (start len : Nat) : AMap α :=
  dst.filter (fun p => p.1 < start) ++ src.filter (fun p => decide (start ≤ p.1 ∧ p.1 < start + len))
    ++ dst.filter (fun p => start + len ≤ p.1)

/-- What is left of bytes `g` without those of `w`, as first and end. -/
def gapWithout (w g : Nat × Nat) : List (Nat × Nat) :=
  (if g.1 < min g.2 w.1 then [(g.1, min g.2 w.1)] else []) ++ (if max g.1 w.2 < g.2 then [(max g.1 w.2, g.2)] else [])

/-- The bytes that writes in page `k` of tensor `h` leave to be copied from the committed version (R277). -/
def pageGaps (s : State) (ws : List (Nat × Nat × List Byte)) (h k : Nat) : List (Nat × Nat) :=
  ws.foldl (fun gs w => if w.1 = h then gs.flatMap (gapWithout (w.2.1, w.2.1 + w.2.2.length)) else gs)
    [(k * pageSize, k * pageSize + pageLen s h k)]

/-- The reads of the bytes that the write spans of a descriptor copy (R264, R277). -/
def copyReads (ws : List (Nat × Nat × List Byte)) (s : State) : State :=
  let ps := (ws.flatMap (fun w => (pageParts w.2.1 w.2.2.length).map (fun p => (w.1, p.1)))).eraseDups
  (ps.filter (fun p => !aget (fun _ => false) s.mem.written (p.1 * 2 ^ 20 + p.2))).foldl (fun s p =>
    (pageGaps s ws p.1 p.2).foldl (fun s g => memReads prioUpd p.1 g.1 (g.2 - g.1) s) s) s

/-- An update unit reads: bytes by stack (R265), and the accesses of class 1. -/
def unitReads (s : State) (es : List Ext) : State :=
  es.foldl (fun s e => memReads prioUpd e.1 e.2.1 e.2.2 (bumpPages s 0xc18 e)) s

/-- The first write of a step to a page of a STATE tensor writes it in full (R214, R277): all of it is copied from the
committed version, so far. -/
def touchPage (s : State) (h k : Nat) : State :=
  if aget (fun _ => false) s.mem.written (h * 2 ^ 20 + k) then s
  else
    let a := tkey h (k * pageSize)
    let u := pageUnit s h k
    let n := pageLen s h k
    let s := memAccess prioUpd .write false true h (k * pageSize) n s
    let s := bump (bump (bump s .upd u 0xc18 n) .upd u 0xc20 n) .upd u 0xc28 n
    { s with mem := { s.mem with
        work := acopy s.mem.bytes s.mem.work a pageSize
        wpoison := aclr s.mem.wpoison (a / 32) (pageSize / 32)
        written := aset (fun _ => false) s.mem.written (h * 2 ^ 20 + k) true } }

/-- Subtracts from a live counter. -/
def unbump (s : State) (p : Pg) (i o n : Nat) : State := ctrSet s p i o (ctrGet s p i o - BitVec.ofNat 64 n)

/-- One write of an update unit into working pages: bytes that take new values are neither read nor copied (R265, R277). -/
def updWrite (s : State) (w : Nat × Nat × List Byte) : State :=
  let s := (pageParts w.2.1 w.2.2.length).foldl (fun s p =>
    let s := touchPage s w.1 p.1
    let u := pageUnit s w.1 p.1
    unbump (unbump s .upd u 0xc28 p.2) .upd u 0xc18 p.2) s
  workWrite s w.1 w.2.1 w.2.2

/-- Pages that a write covers, as extents (R277). -/
def writeSpan (s : State) (w : Nat × Nat × List Byte) : List Ext :=
  (pageParts w.2.1 w.2.2.length).map (fun p => (w.1, p.1 * pageSize, pageLen s w.1 p.1))

/-- A write of the confluence engine to training state goes through the update unit, which copies the rest of its span
(R308): poison there ends the step without commit (R224). -/
def stateWrite (s : State) (w : Nat × Nat × List Byte) : State := updWrite (copyReads [w] (unitPoison s (writeSpan s w))) w

/-- A fence whose read uses the version before the one now committed (R102, R216). -/
def fenceOld (s : State) (f : Fence) : Bool := decide (f.commits < s.mem.commits) || f.released

/-- An update fence that stands against a write of the tensor: its read still uses the version that the
working pages hold (R215, R216). -/
def fenced (s : State) (h : Nat) : Bool := s.mem.fences.any (fun f => f.handle == h && fenceOld s f)

/-! ### One descriptor -/

/-- What the formation of a descriptor's outputs accumulates. -/
structure UpdAcc where
  writes : List (Nat × Nat × List Byte) := []
  reads : List Ext := []
  cnv : CnvCnt := {}
  sat : Nat := 0
  q3 : List Num := []
  q4 : List Num := []
  q5 : List Num := []
  projs : List Proj := []
  elems : Nat := 0
  rows : Nat := 0

/-- What a descriptor works under: constants, layer record fields and the residue's state. -/
structure UpdEnv where
  d : UpdDesc
  k : UpdK
  hold : Bool
  ef : Bool
  live : Bool
  outK : Nat
  wideNum : Nat

/-- The update of `n` elements from element `e0`, with their gradients in element order. `fc` writes the
forward copy of the projection inputs. -/
def updChunk (s : State) (v : UpdEnv) (bc : F32 × F32) (e0 n : Nat) (g : List Num)
    (fc : List F32 → List (Nat × Nat × List Byte) × Proj) (acc : UpdAcc) : UpdAcc :=
  let d := v.d
  let mf := momFmt v.k.r
  let ws := tensorBytes s d.wH.toNat (2 * e0) (2 * n)
  let cs := tensorBytes s d.cH.toNat e0 n
  let ms := (List.range n).map (fun i => masterValue (BitVec.ofNat 16 (leNat ((ws.drop (2 * i)).take 2))) (cs.getD i 0))
  let rd : List Ext := [(d.wH.toNat, 2 * e0, 2 * n), (d.cH.toNat, e0, n)] ++ blockExts d.m1H.toNat mf (e0 / 32) (n / 32)
    ++ blockExts d.m2H.toNat mf (e0 / 32) (n / 32) ++ (if v.live then [(d.eH.toNat, 2 * e0, 2 * n)] else [])
  let fl := tensorFlush s d.m1H.toNat mf (e0 / 32) (n / 32) + tensorFlush s d.m2H.toNat mf (e0 / 32) (n / 32)
  let acc := { acc with reads := acc.reads ++ rd, q3 := acc.q3 ++ g }
  if v.hold then
    { acc with q4 := acc.q4 ++ ms.map f32V, q5 := acc.q5 ++ List.replicate n (.fin false 0 0) }
  else
    let m1 := (tensorBlocks s d.m1H.toNat mf (e0 / 32) (n / 32)).map (momDec v.k.r false)
    let m2 := (tensorBlocks s d.m2H.toNat mf (e0 / 32) (n / 32)).map (momDec v.k.r true)
    let os := (List.range n).map (fun i =>
      updElem v.k bc (g.getD i .nan).toF32 (ms.getD i 0) (m1.getD i 0) (m2.getD i 0))
    let es := if v.live then tensorBytes s d.eH.toNat (2 * e0) (2 * n) else []
    let xs := (os.mapIdx (fun i o =>
      if v.live then fadd o.m (f32OfB16 (BitVec.ofNat 16 (leNat ((es.drop (2 * i)).take 2)))) else o.m))
    let (fcw, pj) := fc xs
    let blocks (second : Bool) : List BlkOut := (List.range (n / 32)).map (fun b =>
      cnvBlock mf (((os.drop (32 * b)).take 32).map (fun o => f32V (momEnc v.k.r second (if second then o.m2 else o.m1)))) (fun _ => none))
    let b1 := blocks false
    let b2 := blocks true
    let ew := if v.ef then
        [(d.eH.toNat, 2 * e0, (xs.mapIdx (fun i x => leBytes 2 (residue x (pj.dec.getD i .nan)).toNat)).flatten)]
      else []
    { acc with
      writes := acc.writes ++ [(d.wH.toNat, 2 * e0, os.flatMap (fun o => leBytes 2 o.w.toNat)), (d.cH.toNat, e0, os.map (·.c))]
        ++ blockWrites d.m1H.toNat mf (e0 / 32) b1 ++ blockWrites d.m2H.toNat mf (e0 / 32) b2 ++ fcw ++ ew
      cnv := ((b1 ++ b2).foldl (fun c o => c.add o.cnt) acc.cnv).add { flush := fl }
      sat := acc.sat + (os.map (·.sat)).sum
      q4 := acc.q4 ++ os.map (fun o => f32V o.m)
      q5 := acc.q5 ++ os.map (fun o => f32V o.delta)
      projs := acc.projs ++ [pj]
      elems := acc.elems + n }

/-- Plane `p` of a DENSE descriptor (R268). -/
def densePlane (s : State) (v : UpdEnv) (bc : F32 × F32) (acc : UpdAcc) (p : Nat) : UpdAcc :=
  let d := v.d
  let gf := (fmtOfCode d.gf.toNat).getD .f32
  let f := (fmtOfCode d.fcf.toNat).getD .f8as
  let gv := tensorBlocks s d.gH.toNat gf (288 * p) 288
  let g := (List.range 9216).map (fun e => gv.getD (96 * (e % 96) + e / 96) .nan)
  let fc (xs : List F32) : List (Nat × Nat × List Byte) × Proj :=
    let pj := if f.lowBit then projPlane f v.outK v.wideNum xs else (projF8 xs).2
    -- the slot is written in full, its bytes after the image with their committed values (assumption 33)
    let rest := memRead s d.fcH.toNat (p * slotSize f v.wideNum + pj.bytes.length) (slotSize f v.wideNum - pj.bytes.length)
    ([(d.fcH.toNat, p * slotSize f v.wideNum, pj.bytes ++ rest)], pj)
  updChunk s v bc (9216 * p) 9216 g fc
    { acc with reads := acc.reads ++ [(d.gH.toNat, p * gf.stored 288, gf.stored 288)], cnv := acc.cnv.add { flush := tensorFlush s d.gH.toNat gf (288 * p) 288 } }

/-- Row `r` of a LAZY descriptor, entry `j` of the touch list counted from 0 (R280). -/
def lazyRow (s : State) (v : UpdEnv) (acc : UpdAcc) (j r : Nat) : UpdAcc :=
  let d := v.d
  let gf := (fmtOfCode d.gf.toNat).getD .f32
  let n := d.rowElems.toNat
  let nb := n / 32
  let cnt := leNat (tensorBytes s d.kH.toNat (4 * r) 4)
  let k := if cnt = 0xffffffff then cnt else cnt + 1
  let fc (xs : List F32) : List (Nat × Nat × List Byte) × Proj :=
    let (outs, pj) := projF8 xs
    (blockWrites d.fcH.toNat .f8as (r * nb) outs, pj)
  let acc := { acc with reads := acc.reads ++ [(d.kH.toNat, 4 * r, 4)] ++ blockExts d.gH.toNat gf (j * nb) nb, rows := acc.rows + 1
                        cnv := acc.cnv.add { flush := tensorFlush s d.gH.toNat gf (j * nb) nb } }
  let acc := updChunk s v (biasOf v.k.r k) (r * n) n (tensorBlocks s d.gH.toNat gf (j * nb) nb) fc acc
  if v.hold then acc else { acc with writes := acc.writes ++ [(d.kH.toNat, 4 * r, leBytes 4 k)] }

/-- Strictly increasing and below `lim` (R281). -/
def touchOk (lim : Nat) : List Nat → Bool
  | [] => true
  | [a] => decide (a < lim)
  | a :: b :: r => decide (a < b) && decide (a < lim) && touchOk lim (b :: r)

/-- clip_factor of R274 and R275: cf, that the descriptor is held, and the state with UPD_LAST_NORM,
UPD_LAST_CLIP and UPD_CNT_CLIP. A held descriptor forms no cf: the register takes a free value (assumption
19). -/
def clipFactor (u : Nat) (d : UpdDesc) (r : Rule) (s : State) : F32 × Bool × State :=
  if !d.clip then (0x3f800000, false, s)
  else
    let gn := fsqrt (BitVec.ofNat 32 (leNat (tensorBytes s d.nH.toNat 0 4)))
    let s := unitReads (unitPoison s [(d.nH.toNat, 0, 4)]) [(d.nH.toNat, 0, 4)]
    if (f32V gn).nonfinite then
      if d.nfHold then
        let (n, s) := draw s
        let s := updMod s u (fun r => { r with lastNorm := gn, lastClip := Config.freeWord n })
        (f32NaN, true, setIntOnce (bump s .upd u 0xc40 1) .upd u 0)
      else (f32NaN, false, updMod s u (fun r => { r with lastNorm := gn, lastClip := f32NaN }))
    else
      let cf := if (f32V gn).le (f32V r.clip) then 0x3f800000 else fdiv r.clip gn
      let s := updMod s u (fun r => { r with lastNorm := gn, lastClip := cf })
      (cf, false, if (f32V cf).lt (.fin false 1 0) then bump s .upd u 0xc38 1 else s)

/-- What the projections gave for the layer (R126, R131, Table 5.5). -/
def noteLayer (s : State) (l : Nat) (ef : Bool) (ps : List Proj) : State :=
  if ps.isEmpty then s
  else
    let r := aget (fun _ => {}) s.seq.layers l
    let sum (f : Proj → Nat) : Nat := (ps.map f).sum
    let ev := ps.any (·.fmtEvent)
    let r : LayerRun :=
      { r with projected := true, lastFmt := ev, fmtEvent := r.fmtEvent || ev,
               wideMax := ps.foldl (fun m p => max m p.wide) r.wideMax, wide := r.wide + sum (·.wide),
               spill := r.spill + sum (·.spill), invalid := r.invalid + sum (fun p => p.invalid + p.cut),
               nonfinite := r.nonfinite || decide (0 < sum (·.invalid)),
               efSet := r.efSet || ef, efClear := r.efClear || !ef }
    { s with seq := { s.seq with layers := aset (fun _ => {}) s.seq.layers l r } }

/-- Outputs of a descriptor (R276). -/
def updOutputs (op : Nat) (d : UpdDesc) (ef : Bool) : List Nat :=
  [d.wH, d.cH, d.m1H, d.m2H, d.fcH].map (·.toNat) ++ (if ef then [d.eH.toNat] else []) ++ (if op = 2 then [d.kH.toNat] else [])

/-- Effects of a formed descriptor: monitors, counters and, unless held, the writes. -/
def updApply (u : Nat) (v : UpdEnv) (acc : UpdAcc) (s : State) : State :=
  let l := v.d.layer.toNat
  let s := unitReads (unitPoison s (acc.reads ++ acc.writes.flatMap (writeSpan s))) acc.reads
  let s := monFeed (monFeed (monFeed s (8 * l + 3) acc.q3) (8 * l + 4) acc.q4) (8 * l + 5) acc.q5
  let s := bump (bump s .upd u 0xc08 acc.elems) .upd u 0xc10 (if v.hold then 0 else acc.rows)
  let s := bumpCnv s .upd u 0xc70 acc.cnv
  let s := if acc.sat = 0 then s else setIntOnce (bump s .upd u 0xc48 acc.sat) .upd u 2
  let sum (f : Proj → Nat) : Nat := (acc.projs.map f).sum
  let ev := acc.projs.countP (·.fmtEvent)
  let s := bump (bump (bump (bump s .upd u 0xc50 (sum (·.invalid))) .upd u 0xc58 ev) .upd u 0xc60 (sum (·.spill))) .upd u 0xc68 (sum (·.wide))
  let s := if ev = 0 then s else setIntOnce s .upd u 3
  let s := noteLayer s l v.ef acc.projs
  acc.writes.foldl updWrite (copyReads acc.writes s)

/-- A touch-list fault (R281). -/
def touchFault (u idx : Nat) (range : Bool) (s : State) : State :=
  let s := updMod s u (fun r => { r with touchErr := if r.touchErr.isNone then some idx else r.touchErr })
  let s := { s with seq := { s.seq with touchRange := s.seq.touchRange || range, touchOrder := s.seq.touchOrder || !range } }
  setInt s .upd u 2

/-- The constants under which a descriptor updates its elements in the present step, but for its clip factor (R270). -/
def updConsts (s : State) (p : Prog) (d : UpdDesc) : UpdK :=
  let r := ruleAt s p d.ruleOff.toNat
  let st := (stepS s).toNat
  let e := ruleEntry s p r (if st < r.tabBase then 0 else min (st - r.tabBase) (r.tabLen - 1))
  { r := r, lr := e.1, wd := e.2 }

/-- The bias count of a DENSE descriptor (R271). -/
def denseCount (s : State) (r : Rule) : Nat := (min (max 1 (((stepS s).toNat : Int) + 1 - r.t0)) 0xffffffff).toNat

/-- Whether a descriptor writes a residue: it has a residue tensor, and its layer uses it (R131). -/
def updEf (s : State) (p : Prog) (d : UpdDesc) : Bool := d.eH != 0 && (layerByte s p d.layer.toNat 7).getLsbD 0

/-- The sweep of a descriptor once nothing holds it (R268 to R282). -/
def updSweep (op u idx : Nat) (d : UpdDesc) (p : Prog) (s : State) : State :=
  let l := d.layer.toNat
  if layerFrozen p l || (op = 1 && d.count = 0) then s
  else
    let k := updConsts s p d
    let ef := updEf s p d
    let (cf, hold, s) := clipFactor u d k.r s
    let v : UpdEnv := { d := d, k := { k with cf := cf }, hold := hold, ef := ef,
                        live := ef && (layerByte s p l 7).getLsbD 1, outK := (layerByte s p l 5).toNat,
                        wideNum := (layerByte s p l 4).toNat }
    if op = 1 then
      let planes := (List.range d.count.toNat).map (fun j => d.first.toNat + j)
      updApply u v (planes.foldl (densePlane s v (biasOf k.r (denseCount s k.r))) {}) s
    else
      let n := leNat (tensorBytes s d.tH.toNat 0 4)
      let s := updMod s u (fun r => { r with touchN := n })
      if d.count.toNat < n then touchFault u idx true (unitReads (unitPoison s [(d.tH.toNat, 0, 4)]) [(d.tH.toNat, 0, 4)])
      else
        let ts := (List.range n).map (fun j => leNat (tensorBytes s d.tH.toNat (4 + 4 * j) 4))
        if !touchOk d.first.toNat ts then
          touchFault u idx false (unitReads (unitPoison s [(d.tH.toNat, 0, 4 * (n + 1))]) [(d.tH.toNat, 0, 4 * (n + 1))])
        else
          updApply u v ((List.range n).foldl (fun acc j => lazyRow s v acc j (ts.getD j 0))
            { reads := [(d.tH.toNat, 0, 4 * (n + 1))] }) s

/-- Whether a fence stands against the descriptor's writes (R278). A no-op writes nothing. -/
def updFenced (op : Nat) (d : UpdDesc) (p : Prog) (s : State) : Bool :=
  !(layerFrozen p d.layer.toNat || (op = 1 && d.count = 0))
  && (updOutputs op d (updEf s p d)).any (fenced s)

/-- Issue-queue key of the unit beside stack `u` (Table 9.6). -/
def updQueue (u : Nat) : Nat := u / 3 * 64 + 32 + u % 3

/-- Descriptor `idx` in the list of unit `u` of the loaded program is this one (R266, R285). -/
def updIs (op u idx : Nat) (d : UpdDesc) (s : State) (p : Prog) : Bool :=
  decide (idx < unitLen s p (u / 3 + 1) (32 + u % 3)) && updParse (unitDesc s p (u / 3 + 1) (32 + u % 3) idx) == (op, d, false)

/-- A lead unit starts its descriptors one at a time in issue order (R266). -/
def updMayStart (op u idx : Nat) (d : UpdDesc) (s : State) (p : Prog) : Bool :=
  s.seq.dev == .running && s.fit.hbmFitted.contains u && (updGet s u).active.isNone && atFront s (updQueue u) idx && updIs op u idx d s p

/-- Execution of a descriptor by its lead unit (R266); a fence makes it wait (R278). -/
def updRun (op u idx : Nat) (d : UpdDesc) (s : State) : State :=
  match s.seq.prog with
  | none => s
  | some p =>
    if !updMayStart op u idx d s p then s
    else
      let s := fetchDesc (issuePop s (updQueue u) idx) (u / 3 + 1) (32 + u % 3) idx
      let s := bump { s with seq := { s.seq with issued := s.seq.issued + 1 } } .seqT (u / 3) 0xc00 1
      let s := updMod s u (fun r => { r with active := some (idx, d.cid.toNat) })
      if updFenced op d p s then updMod s u (fun r => { r with waiting := some (op, d) })
      else updSweep op u idx d p s

/-- Rule record of a descriptor, if a program is loaded. -/
def updRule (s : State) (d : UpdDesc) : Rule := match s.seq.prog with
  | some p => ruleAt s p d.ruleOff.toNat
  | none => {}

/-- WIDE_NUM of the descriptor's layer. -/
def updWideNum (s : State) (d : UpdDesc) : Nat := match s.seq.prog with
  | some p => (layerByte s p d.layer.toNat 4).toNat
  | none => 16

/-- The frame of both update opcodes: a form that Table 10.7 rejects never runs. -/
def updExec (op u : Nat) (idx : BitVec 24) (d : UpdDesc) (s : State) : Host.Outcome State Fault Refusal :=
  match pickStatus (updCheck op d (progLayers s) ++ updCheckMem s op d (updRule s d) (updWideNum s d)) with
  | 0 => .next (updRun op u idx.toNat d s)
  | st => .refused (.rejectedAtLoad st)

/-- DENSE (Table 10.1). -/
def execDense (u : Fin 12) (idx : BitVec 24) (d : UpdDesc) (s : State) : Host.Outcome State Fault Refusal := updExec 1 u idx d s
/-- LAZY (Table 10.1). -/
def execLazyUpd (u : Fin 12) (idx : BitVec 24) (d : UpdDesc) (s : State) : Host.Outcome State Fault Refusal := updExec 2 u idx d s

/-- UPDATE_COMPLETE (R266): the descriptor in progress completes and its CID rises; in SAFE the unit has stopped (R283). -/
def updateCompleteEffect (u idx : Nat) (s : State) : State :=
  match (updGet s u).active with
  | none => s
  | some (i, c) =>
    if i != idx || (updGet s u).waiting.isSome || unitsStopped s then s
    else
      let s := updMod s u (fun r => { r with active := none })
      let s := bump s .upd u 0xc00 1
      crossings .upd u (crossing .seqT (u / 3) (cidBump { s with seq := { s.seq with done := s.seq.done + 1 } } (u / 3) c))

def execUpdateComplete (u : Fin 12) (idx : BitVec 24) (s : State) : Host.Outcome State Fault Refusal :=
  .next (updateCompleteEffect u idx.toNat s)

/-! ### Update fences (R215, R216, R278) -/

/-- Descriptors that no fence holds any longer sweep; in SAFE the units have stopped (R283). -/
def runWaiting (s : State) : State :=
  match s.seq.prog with
  | none => s
  | some p => if unitsStopped s then s else (List.range 12).foldl (fun s u =>
      match (updGet s u).waiting, (updGet s u).active with
      | some (op, d), some (idx, _) =>
        if updFenced op d p s then s
        else updSweep op u idx d p (updMod s u (fun r => { r with waiting := none }))
      | _, _ => s) s

end Sys2Proof.Machine
end

