-- ==== Sys2Proof/Machine/Links.lean ====
section
/-! DEFINITION. Peer ports (R289 to R298): the link layer with its sequence numbers, credits and replays,
routes, and the identity of neighbours. -/

namespace Sys2Proof.Machine

/-! ### Coordinates and routes (R295, R300) -/

/-- x, y and z of CFL_COORD. -/
def coordX (s : State) : Nat := fld (pgGet s .cfl 0 0x100) 0 2
def coordY (s : State) : Nat := fld (pgGet s .cfl 0 0x100) 2 2
def coordZ (s : State) : Nat := fld (pgGet s .cfl 0 0x100) 4 2

/-- Devices of the reach, 1 with no program loaded (R300). -/
def reachD (s : State) : Nat := match s.seq.prog with
  | some p => shapeD p
  | none => 1

/-- This device's index d; 0 when it runs alone (R300). -/
def myIndex (s : State) : Nat := match s.seq.prog with
  | some p => if shapeD p = 1 then 0 else (coordX s + shapeX p * (coordY s + shapeY p * coordZ s)) % 64
  | none => 0

/-- Whether the loaded program's shape uses port `p` (Table 11.15, USED). -/
def portUsed (s : State) (p : Nat) : Bool := match s.seq.prog with
  | some g => (shapePorts g).contains p
  | none => false

/-- The port of one step in a dimension of `n` devices from coordinate `a` to `b`: the shorter way round, the
+ port at a tie (R295). -/
def dimPort (base n a b : Nat) : Option Nat :=
  let delta := (b + n - a % n) % n
  if delta = 0 then none else if 2 * delta ≤ n then some base else some (base + 1)

/-- Whether port 4 (base 0) or port 5 (base 2) doubles the step that `p` takes from coordinate `a` (Table 1.7):
even coordinates pair with their + neighbour, odd ones with their − neighbour. -/
def doubledStep (p base a : Nat) : Bool := if a % 2 = 0 then p == base else p == base + 1

/-- The port on which an item for device `dest` leaves (R295); `off` is the byte offset within the item, which
selects the link of a doubled pair in chunks of 64 KiB. -/
def routePort (s : State) (dest off : Nat) : Option Nat :=
  match s.seq.prog with
  | none => none
  | some g =>
    let x := dest % shapeX g
    let y := dest / shapeX g % shapeY g
    let z := dest / shapeX g / shapeY g
    let alt (p base a extra : Nat) : Nat :=
      if shapeDoubled g && doubledStep p base a && off / 65536 % 2 == 1 then extra else p
    match dimPort 0 (shapeX g) (coordX s) x with
    | some p => some (alt p 0 (coordX s) 4)
    | none => match dimPort 2 (shapeY g) (coordY s) y with
      | some p => some (alt p 2 (coordY s) 5)
      | none => dimPort 4 (shapeZ g) (coordZ s) z

/-! ### Link perturbation (R475) -/

/-- Items counted toward PERIOD when `k` of them arrive after `n` others. -/
def linkCount (s : State) (p : Pg) (i n k : Nat) : Nat := min n ((pgGet s p i 0x088).toNat - 1) + k

/-- TST_LINK_CTRL refuses one of the `k` items that now arrive after `n` others: every PERIOD-th under NAK_EN. -/
def linkRefuses (s : State) (p : Pg) (i n k : Nat) : Bool :=
  (pgGet s p i 0x080).getLsbD 1 && decide ((pgGet s p i 0x088).toNat ≤ linkCount s p i n k)

/-- How many of them it refuses. -/
def linkRefused (s : State) (p : Pg) (i n k : Nat) : Nat := linkCount s p i n k / (pgGet s p i 0x088).toNat

/-- The count of items after them. -/
def linkNext (s : State) (p : Pg) (i n k : Nat) : Nat :=
  if (pgGet s p i 0x080).getLsbD 1 then linkCount s p i n k % (pgGet s p i 0x088).toNat else n

/-- The `k` items that DELAY holds for a time are counted in TST_LINK_DONE. -/
def linkDelay (s : State) (p : Pg) (i k : Nat) : State :=
  if (pgGet s p i 0x080).getLsbD 0 && pgGet s p i 0x084 != 0 then tstCount s p i 0x090 k else s

/-- The codewords of a received flit or frame in the port's counters at `o` and `o + 8`: those corrected, all of them while
SYM flips symbols in every codeword (R475), and one that could not be decoded. -/
def fecCount (p : Pg) (i o : Nat) (r : FecRx) (s : State) : State :=
  let flip := (pgGet s p i 0x080).getLsbD 2 && pgGet s p i 0x08c != 0
  let s := bump s p i o (if flip then r.codewords else min r.corrected r.codewords)
  if r.fecOk then s else bump s p i (o + 8) 1

/-! ### Ports -/

/-- The record of port `p`. -/
def portGet (s : State) (p : Nat) : Port := aget (fun _ => {}) s.port p
/-- Changes the record of port `p`. -/
def portMod (s : State) (p : Nat) (f : Port → Port) : State := { s with port := aset (fun _ => {}) s.port p (f (portGet s p)) }

/-- Payload bytes of a flit (Tables 11.3, 11.5; the item header is 16 bytes, R291). -/
def flitPayload : FlitBody → Nat
  | .data _ _ _ _ _ bs => 16 + bs.length
  | .ident _ => 32
  | .closing _ _ t _ => min 240 (8 + (3 * t.length + 7) / 8)
  | .decision .. => 16
  | .marker _ => 8
  | .notice .. => 8
  | .cont => 240

/-- Whether a flit may be sent in the port's state: records of identity in IDENT, everything in UP. -/
def flitMay (st : PortSt) (f : OutFlit) : Bool :=
  match st, f.body with
  | .up, _ => true
  | .ident, .ident _ => true
  | _, _ => false

/-- The first flit of a class that may be sent with the credit held (R293, R294). -/
def pickFlit (r : Port) (tc : Nat) : Option OutFlit :=
  if r.credit.getD tc 0 = 0 then none else r.txq.find? (fun f => f.tc == tc && flitMay r.st f)

/-- The flit that leaves next: class 0, then the class of the slot, then classes 1, 2 and 3 (R294). -/
def nextFlit (r : Port) (slot : Nat) : Option OutFlit :=
  (pickFlit r 0).or ((pickFlit r slot).or ((pickFlit r 1).or ((pickFlit r 2).or (pickFlit r 3))))

/-- Class of slot `i` of NGL_SLOTS, 0 for an open slot (Table 11.16). -/
def slotClass (s : State) (p i : Nat) : Nat := fld (pgGet s .ngl p 0x118) (2 * (i % 16)) 2

/-- The slot in which the next flit leaves is free where classes 1 to 3 compete (assumption 102). -/
def flitSlot (s : State) (p : Nat) : Nat × State :=
  let r := portGet s p
  if (pickFlit r 0).isNone && 1 < [1, 2, 3].countP (fun c => (pickFlit r c).isSome) then
    (slotClass s p (Config.freeWord (draw s).1).toNat, (draw s).2)
  else (0, s)

/-- Sends flits while the port may (R293). -/
def pumpPort (p : Nat) : Nat → State → State
  | 0, s => s
  | k + 1, s =>
    let (slot, s) := flitSlot s p
    let r := portGet s p
    match nextFlit r slot with
    | none => s
    | some f =>
      let q := r.txSeq + 1
      let s := portMod s p (fun r =>
        { r with txq := r.txq.erase f, txSeq := q, unacked := r.unacked ++ [(q, f)],
                 credit := r.credit.set f.tc (r.credit.getD f.tc 0 - 1) })
      let s := bump (bump s .ngl p 0xc00 1) .ngl p 0xc10 (flitPayload f.body)
      pumpPort p k (send s (.flit p q f r.rxSeq))

/-- A flit is given to a port. -/
def portSend (s : State) (p : Nat) (f : OutFlit) : State :=
  let s := portMod s p (fun r => { r with txq := r.txq ++ [f] })
  pumpPort p ((portGet s p).txq.length) s

/-- A flit for a device of the reach. -/
def flitTo (s : State) (dest tc off : Nat) (b : FlitBody) : State :=
  match routePort s dest off with
  | some p => portSend s p { tc := tc, dest := dest, src := myIndex s, body := b }
  | none => s

/-- Item bytes in flits of up to 224 bytes behind the item header (R291). -/
def chunk224 : Nat → Nat → List Byte → List (Nat × List Byte)
  | 0, _, _ => []
  | k + 1, o, bs => if bs.isEmpty then [] else (o, bs.take 224) :: chunk224 k (o + 224) (bs.drop 224)

/-- Item bytes for a device of the reach, placed from offset `at'`; `sh` tells a combined shard from a part, and `w` a part
in the F32 form. -/
def itemAt (s : State) (dest tc idx at' : Nat) (sh w : Bool) (bs : List Byte) : State :=
  (chunk224 (bs.length / 224 + 1) at' bs).foldl (fun s c =>
    flitTo s dest tc c.1 (.data idx ((stepS s).truncate 32) c.1 sh w c.2)) s

/-- An item for a device of the reach. -/
def itemTo (s : State) (dest tc idx : Nat) (sh : Bool) (bs : List Byte) : State := itemAt s dest tc idx 0 sh false bs

/-- Flits of a closing record with `n` layers of triggers (R301). -/
def closingFlits (n : Nat) : Nat := 1 + (8 + (3 * n + 7) / 8 - 1) / 240

/-- A record on TC0 for every other device of the reach; a closing record longer than one flit takes more. -/
def recordAll (s : State) (b : FlitBody) : State :=
  ((List.range (reachD s)).filter (· != myIndex s)).foldl (fun s d =>
    let s := flitTo s d 0 0 b
    match b with
    | .closing _ _ t _ => (List.range (closingFlits t.length - 1)).foldl (fun s _ => flitTo s d 0 0 .cont) s
    | _ => s) s

/-! ### Training and identity (R290, R296 to R298) -/

/-- Credits at IDENT: TC0 has 64 flits, the others as NGL_CREDIT gives them (R293); the neighbour's buffer is
taken to be divided alike (assumption 20). -/
def portCredits (s : State) (p : Nat) : List Nat :=
  let w := pgGet s .ngl p 0x11c
  [64, 64 * fld w 0 6, 64 * fld w 6 6, 64 * fld w 12 6]

/-- SHA3 of the loaded image is a register of the security engine; PROG of the identity record is its bytes
0 to 7, supplied by the caller. -/
def identOf (s : State) (p : Nat) (moduleId progDigest : DWord) : IdentRec :=
  match s.seq.prog with
  | some g => { moduleId := moduleId, pop := if s.fit.full then 0 else 1, port := BitVec.ofNat 8 p,
                coord := (pgGet s .cfl 0 0x100 &&& 0x3f).truncate 8, shape := BitVec.ofNat 8 g.shape,
                reachIndex := BitVec.ofNat 8 g.reach, prog := progDigest, s := stepS s }
  | none => { moduleId := moduleId, pop := if s.fit.full then 0 else 1, port := BitVec.ofNat 8 p,
              coord := (pgGet s .cfl 0 0x100 &&& 0x3f).truncate 8 }

/-- MISMATCH bits 0 to 2 of a record against NGL_EXP_ID and NGL_EXP_INFO (R297). -/
def identMismatch (s : State) (p : Nat) (r : IdentRec) : Nat :=
  let info := pgGet s .ngl p 0x108
  (if r.moduleId = pgGet s .ngl p 0x104 ++ pgGet s .ngl p 0x100 then 0 else 1)
  + (if r.pop.toNat = fld info 0 1 then 0 else 2) + (if r.port.toNat = fld info 1 3 then 0 else 4)

/-- Unacknowledged flits that may be sent in the port's state are resent: all of them in UP (R290, R292). -/
def portReplay (s : State) (p : Nat) : State :=
  ((portGet s p).unacked.filter (fun e => flitMay (portGet s p).st e.2)).foldl (fun s e =>
    send (bump (bump (bump s .ngl p 0xc38 1) .ngl p 0xc00 1) .ngl p 0xc10 (flitPayload e.2.body)) (.flit p e.1 e.2 (portGet s p).rxSeq)) s

/-- Entry to IDENT: credits are set, less the flits that the neighbour has yet to acknowledge, and the record is sent (R293,
R296). -/
def portIdent (s : State) (p : Nat) (r : IdentRec) : State :=
  let cr := (portCredits s p).mapIdx (fun c n => n - (portGet s p).unacked.countP (fun e => e.2.tc == c))
  portSend (portMod s p (fun q => { q with st := .ident, attempts := 0, credit := cr, sentS := r.s })) p { tc := 0, src := myIndex s, body := .ident r }

/-- Entry to UP. -/
def portUp (s : State) (p : Nat) : State :=
  let s := portMod s p (fun q => { q with st := .up, mismatch := 0 })
  let s := portReplay (setInt s .ngl p 1) p
  pumpPort p ((portGet s p).txq.length) s

/-- The neighbour's expected coordinates on port `p` (R298): one step along the port, or the pair of a doubled
link. -/
def nbrCoord (s : State) (g : Prog) (p : Nat) : Nat :=
  let step (n a : Nat) (plus : Bool) : Nat := if plus then (a + 1) % n else (a + n - 1) % n
  let x := coordX s
  let y := coordY s
  let z := coordZ s
  let enc (x y z : Nat) : Nat := x + 4 * y + 16 * z
  if p < 2 then enc (step (shapeX g) x (p == 0)) y z
  else if p < 4 then enc x (step (shapeY g) y (p == 2)) z
  else if shapeDoubled g then
    (if p = 4 then enc (step (shapeX g) x (x % 2 == 0)) y z else enc x (step (shapeY g) y (y % 2 == 0)) z)
  else enc x y (step (shapeZ g) z (p == 4))

/-- The checks of R298 on one used port. -/
def nbrOk (s : State) (g : Prog) (progDigest : DWord) (p : Nat) : Bool :=
  (portGet s p).st == .up &&
  match (portGet s p).nbr with
  | none => false
  | some r => r.coord.toNat == nbrCoord s g p && r.shape.toNat == g.shape && r.reachIndex.toNat == g.reach
      && r.prog == progDigest && r.s == stepS s

/-- A notice on every port in UP (R302). -/
def noticeAll (s : State) (origin : Nat) (status : Half) (hold : Bool) (except : Option Nat) : State :=
  (List.range 6).foldl (fun s p =>
    if (portGet s p).st == .up && except != some p then
      portSend s p { tc := 0, src := origin, body := .notice origin status hold }
    else s) s

end Sys2Proof.Machine
end

