-- ==== Sys2Proof/Machine/Confluence.lean ====
section
/-! DEFINITION. The confluence engine and the link compression units (R304 to R324), and the basin stage of a
REDUCE (R350). -/

namespace Sys2Proof.Machine

/-! ### Descriptors (Table 11.7) -/

/-- A confluence descriptor from its 64 bytes: the opcode, the fields, and that a reserved bit or byte is
nonzero. -/
def cflParse (w : Cmd) : Nat × CflDesc × Bool :=
  let u32 (b : Nat) : Word := BitVec.ofNat 32 (fld w (8 * b) 32)
  (fld w 0 8,
   { cmp := w.getLsbD 8, normAcc := w.getLsbD 9, scatter := w.getLsbD 10, lcode := w.getLsbD 11, dir := w.getLsbD 12,
     ev := BitVec.ofNat 8 (fld w 16 8), cls := BitVec.ofNat 2 (fld w 24 2), group := BitVec.ofNat 2 (fld w 26 2),
     rid := BitVec.ofNat 16 (fld w 32 16), fmtw := u32 8, srcH := u32 12, dstH := u32 16, eH := u32 20, dH := u32 24,
     count := u32 28, srcOff := BitVec.ofNat 64 (fld w 256 64), dstOff := BitVec.ofNat 64 (fld w 320 64), nH := u32 48,
     cap := u32 52, experts := u32 56, rowb := u32 60 },
   fld w 13 3 != 0 || fld w 28 4 != 0 || fld w 48 16 != 0)

/-- Source and destination formats of a REDUCE. -/
def redSrc (d : CflDesc) : Fmt := (fmtOfCode (fwSrc d.fmtw)).getD .f32
def redDst (d : CflDesc) : Fmt := (fmtOfCode (fwDst d.fmtw)).getD .f32

/-- Fields that the opcode does not use. -/
def cflUnused (op : Nat) (d : CflDesc) : Bool :=
  match op with
  | 1 => d.lcode || d.dir || (!d.normAcc && d.group != 0) || (!d.cmp && d.eH != 0) || d.nH != 0 || d.cap != 0 || d.experts != 0 || d.rowb != 0
  | 2 => d.cmp || d.normAcc || d.scatter || d.dir || d.cls != 0 || d.group != 0 || d.rid != 0 || d.fmtw != 0 || d.eH != 0 || d.dH != 0
      || d.nH != 0 || d.cap != 0 || d.experts != 0 || d.rowb != 0
  | 3 => d.cmp || d.normAcc || d.scatter || d.lcode || d.dir || d.cls != 0 || d.rid != 0 || d.fmtw != 0 || d.srcH != 0 || d.dstH != 0
      || d.eH != 0 || d.dH != 0 || d.count != 0 || d.srcOff != 0 || d.dstOff != 0 || d.cap != 0 || d.experts != 0 || d.rowb != 0
  | 4 => d.cmp || d.normAcc || d.scatter || d.cls != 0 || d.group != 0 || d.rid != 0 || d.fmtw != 0 || d.eH != 0 || d.dH != 0 || d.count != 0
  | _ => true

/-- Checks of Table 11.9 on one descriptor alone; `lcu` says that link compression is present. -/
def cflCheck (op : Nat) (d : CflDesc) (lcu : Bool) : List Half :=
  let hs := [d.srcH, d.dstH, d.eH, d.dH, d.nH]
  let redOk (f : Option Fmt) : Bool := f == some .f8gs || f == some .b16 || f == some .f32
  chk (op = 0 || 4 < op || cflUnused op d || hs.any (fun h => 2 ^ 24 ≤ h.toNat)
    || fld d.srcOff 40 24 != 0 || fld d.dstOff 40 24 != 0
    || !(d.ev = 0xff || (32 ≤ d.ev.toNat && d.ev.toNat < 64))) stField
  ++ chk ((d.cmp || d.lcode) && !lcu) stCap
  ++ (if op = 1 then fwCheck d.fmtw ++ chk (!redOk (fmtOfCode (fwSrc d.fmtw)) || !redOk (fmtOfCode (fwDst d.fmtw)) || fwTscale d.fmtw) stFmt
      else [])
  ++ chk (op = 4 && (d.cap = 0 || 65535 < d.cap.toNat || d.experts = 0 || 256 < d.experts.toNat || d.rowb.toNat % 16 != 0
      || d.rowb.toNat < 16 || 1048576 < d.rowb.toNat)) stLen

/-- Lines that device `d` of `n` supplies to a GATHER, as first and end (R311). -/
def gatherPart (count n d : Nat) : Nat × Nat := (d * count / n, (d + 1) * count / n)

/-- Extents by handle: offset and length, and class required (2 none, 0 STATE, 1 not STATE, 3 EXPERT). -/
def cflExtents (op : Nat) (d : CflDesc) (n me : Nat) : List (Word × Nat × Nat × Nat) :=
  let so := fld d.srcOff 0 40
  let dof := fld d.dstOff 0 40
  let c := d.count.toNat
  match op with
  | 1 => [(d.srcH, so, (redSrc d).stored c, 2), (d.dstH, dof, (redDst d).stored c, 1)]
      ++ (if d.cmp then [(d.eH, 0, 64 * c, 0)] else []) ++ (if d.dH = 0 then [] else [(d.dH, 0, 128 * c, 0)])
  | 2 => [(d.srcH, so, 64 * ((gatherPart c n me).2 - (gatherPart c n me).1), 2), (d.dstH, dof, 64 * c, 1)]
  | 3 => [(d.nH, 0, 4, 2)]
  | _ =>
    let b := n * d.experts.toNat * d.cap.toNat * d.rowb.toNat
    [(d.srcH, so, b, 2), (d.dstH, dof, b, 1), (d.nH, 0, 8 * n * d.experts.toNat, 3)]

/-- Checks of Table 11.9 against tensors. -/
def cflCheckMem (s : State) (op : Nat) (d : CflDesc) (n me : Nat) : List Half :=
  (cflExtents op d n me).flatMap (fun e =>
    match tensorOf s e.1.toNat with
    | none => [stHandle]
    | some t => chk ((e.2.2.2 = 0 && t.cls != 0) || (e.2.2.2 = 1 && t.cls == 0) || (e.2.2.2 = 3 && t.cls != 3)) stHandle
        ++ chk (e.2.2.1 != 0 && t.size < e.2.1 + e.2.2.1) stLen)

/-- Whether the module has link compression units (Table 1.5). -/
def hasLcu (s : State) : Bool := s.fit.full

/-! ### Shards (R306) -/

/-- First and end block of shard `j` of `n`. -/
def shardBlocks (count n j : Nat) : Nat × Nat :=
  let g := (count + 15) / 16
  (min count (16 * (j * g / n)), min count (16 * ((j + 1) * g / n)))

/-- Blocks of a shard. -/
def shardLen (count n j : Nat) : Nat := (shardBlocks count n j).2 - (shardBlocks count n j).1

/-- Byte extent of a shard in a tensor of `count` blocks of format `f`. -/
def shardExt (f : Fmt) (count n j : Nat) : Nat × Nat :=
  let b := shardBlocks count n j
  (f.stored b.1, f.stored b.2 - f.stored b.1)

/-- Elements of stored bytes of `nb` blocks, as F32, and the flushed ones (R75, R84). -/
def decStored (f : Fmt) (bs : List Byte) (nb : Nat) : List F32 × Nat :=
  let r := (List.range nb).map (srcBlock f bs)
  (r.flatMap (fun x => x.1.map Num.toF32), (r.map (·.2)).sum)

/-! ### Link compression (R314, R316) -/

/-- One coded block of R314: the F4 block and e_new. -/
def lcuBlock (v : List F32) : BlkOut × List B16 :=
  let o := cnvBlock .f4 (v.map f32V) (fun _ => none)
  let q := Fmt.decBlock .f4 o.scale o.codes
  (o, if o.scale = 0xff then v.map (fun _ => 0) else
    v.mapIdx (fun i x => rneB16 (f32V ((f32V x).add (q.getD i .nan).neg).toF32)))

/-- Nonzero values flushed as the errors of a coded block form. -/
def lcuErrFlush (v : List F32) (o : BlkOut) : Nat :=
  let q := Fmt.decBlock .f4 o.scale o.codes
  if o.scale = 0xff then 0 else (v.mapIdx (fun i x => stepFlush ((f32V x).add (q.getD i .nan).neg))).sum

/-- The 16-byte words of a frame. -/
def words16 (bs : List Byte) : List (List Byte) := (List.range ((bs.length + 15) / 16)).map (fun i => (bs.drop (16 * i)).take 16)

/-- One frame of R316: its coded bytes, and that it is in tagged form. -/
def codeFrame (bs : List Byte) : List Byte × Bool :=
  let ws := words16 bs
  let tag (i : Nat) : Nat :=
    let w := ws.getD i []
    if w.all (· == 0) then 0 else if 0 < i ∧ w = ws.getD (i - 1) [] then 1 else 2
  let tags := (List.range ws.length).map tag
  let tw := (tags.mapIdx (fun i t => t * 4 ^ i)).sum
  let tagged := 1 :: leBytes 8 tw ++ (ws.mapIdx (fun i w => if tags.getD i 2 = 2 then w else [])).flatten
  if bs.length + 1 ≤ tagged.length then (0 :: bs, false) else (tagged, true)

/-- Item data as frames of 512 bytes. -/
def codeItem : Nat → List Byte → List (List Byte × Bool)
  | 0, _ => []
  | k + 1, bs => if bs.isEmpty then [] else codeFrame (bs.take 512) :: codeItem k (bs.drop 512)

/-- Restores the words of a tagged frame from word `i` on: `n` bytes left. -/
def untag (tw : Nat) : Nat → Nat → Nat → List Byte → List Byte → Option (List Byte × List Byte)
  | 0, _, _, _, _ => none
  | k + 1, i, n, prev, bs =>
    if n = 0 then some ([], bs)
    else
      let l := min 16 n
      let next (w bs : List Byte) : Option (List Byte × List Byte) := (untag tw k (i + 1) (n - l) w bs).map (fun r => (w ++ r.1, r.2))
      match tw / 4 ^ i % 4 with
      | 0 => next (List.replicate l 0) bs
      | 1 => next prev bs
      | _ => if bs.length < l then none else next (bs.take l) (bs.drop l)

/-- Decodes frames until `n` bytes of item data are restored; `none` while coded bytes are missing. -/
def decodeItem : Nat → Nat → List Byte → Option (List Byte)
  | 0, _, _ => none
  | k + 1, n, bs =>
    if n = 0 then some []
    else
      let l := min 512 n
      match bs with
      | [] => none
      | 0 :: r => if r.length < l then none else (decodeItem k (n - l) (r.drop l)).map (fun x => r.take l ++ x)
      | _ :: r =>
        if r.length < 8 then none
        else match untag (leNat (r.take 8)) 40 0 l [] (r.drop 8) with
          | none => none
          | some (d, rest) => (decodeItem k (n - l) rest).map (fun x => d ++ x)

/-- Port on whose LCU_ page the coding of an item for `dest` counts: port 0 for the local encoder. -/
def lcuPort (s : State) (dest : Nat) : Nat := if dest = myIndex s then 0 else (routePort s dest 0).getD 0

/-- Counts of R314 for the coded blocks of one item, with the values flushed as the contribution was formed (R84, R87). -/
def lcuLossy (s : State) (p : Nat) (outs : List BlkOut) (flush inBytes outBytes : Nat) : State :=
  let bad := outs.countP (fun o => o.scale == 0xff)
  let s := bump (bump s .lcu p 0xc00 inBytes) .lcu p 0xc08 outBytes
  let s := bump (bump s .lcu p 0xc10 outs.length) .lcu p 0xc18 bad
  let s := bump s .lcu p 0xc30 (outs.countP (fun o => o.scale == 0xfe && o.cnt.sat != 0))
  let s := bump s .lcu p 0xc38 ((outs.map (fun o => o.cnt.flush)).sum + flush)
  if bad = 0 then s else setIntOnce s .lcu p 0

/-- Codes item data without loss and counts the frames (R316). -/
def lcuCode (s : State) (p : Nat) (bs : List Byte) : List Byte × State :=
  let fs := codeItem (bs.length / 512 + 1) bs
  let out := fs.flatMap (·.1)
  let s := bump (bump s .lcu p 0xc00 bs.length) .lcu p 0xc08 out.length
  (out, bump (bump s .lcu p 0xc20 (fs.countP (·.2))) .lcu p 0xc28 (fs.countP (fun f => !f.2)))

/-! ### Descriptors in progress -/

/-- Replaces the record of descriptor `idx`. -/
def opPut (s : State) (o : CflOp) : State :=
  { s with cfl := { s.cfl with ops := s.cfl.ops.map (fun x => if x.idx = o.idx then o else x) } }

/-- The record of descriptor `idx`. -/
def opGet (s : State) (idx : Nat) : Option CflOp := s.cfl.ops.find? (fun o => o.idx == idx)

/-- Pieces received from `src` for a descriptor, of its part or of its shard: they are placed by their headers alone
(R291). -/
def piecesOf (s : State) (o : CflOp) (src : Nat) (sh : Bool) : List (Nat × List Byte) :=
  (s.cfl.inbox.filter (fun p => p.src == src && p.idx == o.idx && p.sLow == o.sLow && p.shard == sh)).map (fun p => (p.off, p.bytes))

/-- The item of length `n` that pieces form, once they cover it. -/
def assembled (n : Nat) (ps : List (Nat × List Byte)) : Option (List Byte) :=
  (List.range n).mapM (fun k => ps.findSome? (fun p => if p.1 ≤ k ∧ k < p.1 + p.2.length then p.2[k - p.1]? else none))

/-- The bytes that pieces hold in a row from offset 0. -/
def prefixOf (ps : List (Nat × List Byte)) : List Byte :=
  let n := (ps.map (fun p => p.2.length)).sum
  ((List.range n).map (fun k => ps.findSome? (fun p => if p.1 ≤ k ∧ k < p.1 + p.2.length then p.2[k - p.1]? else none))).takeWhile
    Option.isSome |>.map (fun b => b.getD 0)

/-- Whether source `src` sends its part as F32 values (R320): its items say so (assumption 18). -/
def partWide (s : State) (o : CflOp) (src : Nat) : Bool :=
  if src = myIndex s then o.wide else s.cfl.inbox.any (fun p => p.src == src && p.idx == o.idx && p.sLow == o.sLow && !p.shard && p.f32)

/-- Format in which source `src` sends its part (R306, R314, R320). -/
def partFmt (s : State) (o : CflOp) (src : Nat) : Fmt := if o.d.cmp then .f4 else if partWide s o src then .f32 else redSrc o.d

/-- Blocks of this device's own shard. -/
def myBlocks (s : State) (o : CflOp) : Nat := shardLen o.d.count.toNat (reachD s) (myIndex s)

/-- Length of the part of `src` for this device's shard. -/
def partLen (s : State) (o : CflOp) (src : Nat) : Nat := (partFmt s o src).stored (myBlocks s o)

/-- The part of another device, once all of it has arrived. -/
def partBytes (s : State) (o : CflOp) (src : Nat) : Option (List Byte) := assembled (partLen s o src) (piecesOf s o src false)

/-! ### Tensor accesses of the engine (R304: priority class 0) -/

/-- The engine reads extents: poison ends the step without commit (R224). -/
def cflReads (s : State) (es : List Ext) : State := es.foldl (fun s e => memReads prioCfl e.1 e.2.1 e.2.2 s) (unitPoison s es)

/-- The engine writes bytes of a tensor. -/
def cflWrite (s : State) (h off : Nat) (bs : List Byte) : State := memWrites prioCfl h off bs.length (memWrite s h off bs)

/-! ### DRAIN (R317) -/

/-- An event counter from 32 to 63 rises (R240). -/
def evRaise (s : State) (e n : Nat) : State :=
  if e < 32 ∨ 64 ≤ e then s
  else { s with seq := { s.seq with ev := aset (fun _ => 0) s.seq.ev e (aget (fun _ => 0) s.seq.ev e + n) } }

/-- Flits of items that this device has given to a port and that no acknowledgement has covered (assumption 92). -/
def ownItems (s : State) (p : Nat) : List OutFlit :=
  ((portGet s p).txq ++ (portGet s p).unacked.map (·.2)).filter (fun f => f.src == myIndex s && (match f.body with
    | .data .. => true
    | _ => false))

/-- A descriptor of a root unit completes: its report crosses to the root sequencer (R243, R473). -/
def rootDone (s : State) : State := crossing .seqR 0 { s with seq := { s.seq with done := s.seq.done + 1 } }

/-- Flits have left a port and been acknowledged, or are not sent any more: a DRAIN completes when none that was accepted
before it is left. -/
def drainDone (s : State) (p : Nat) (gone : List OutFlit) : State :=
  let ds := (portGet s p).drains.map (fun d => (d.1, d.2.1, gone.foldl List.erase d.2.2))
  (ds.filter (fun d => d.2.2.isEmpty)).foldl (fun s d => evRaise (rootDone s) d.2.1 1)
    (portMod s p (fun r => { r with drains := ds.filter (fun d => !d.2.2.isEmpty) }))

/-- Issue-queue key of the link compression unit of port `p` (Table 9.6). -/
def drainQueue (p : Nat) : Nat := 256 + 56 + p

/-- Descriptor `idx` in the list of root unit code `u` of the loaded program is `w`, which the unit's format reads as one
and the same descriptor. -/
def rootDesc (s : State) (u idx : Nat) : Option Cmd := match s.seq.prog with
  | some p => if idx < unitLen s p 0 u then some (unitDesc s p 0 u idx) else none
  | none => none

/-- DRAIN with counter `ev` is descriptor `idx` of the unit (R317). -/
def drainIs (s : State) (p idx ev : Nat) : Bool := match rootDesc s (56 + p) idx with
  | some w => w == BitVec.ofNat 512 (1 + ev * 2 ^ 16)
  | none => false

/-- DRAIN on the link compression unit of a port, in issue order (R239). -/
def drainRun (p idx ev : Nat) (s : State) : State :=
  if s.seq.dev != .running || !presentPage s.fit .lcu p || !atFront s (drainQueue p) idx || !drainIs s p idx ev then s
  else
    let s := fetchDesc (issuePop s (drainQueue p) idx) 0 (56 + p) idx
    let s := { s with seq := { s.seq with issued := s.seq.issued + 1 } }
    if ownItems s p = [] then evRaise (rootDone s) ev 1
    else portMod s p (fun r => { r with drains := r.drains ++ [(idx, ev, ownItems s p)] })

def execDrain (p : Fin 6) (idx : BitVec 24) (ev : Byte) (s : State) : Host.Outcome State Fault Refusal :=
  match pickStatus (chk (!(ev = 0xff || (32 ≤ ev.toNat && ev.toNat < 64))) stField ++ chk (!hasLcu s) stCap) with
  | 0 => .next (drainRun p.val idx.toNat ev.toNat s)
  | st => .refused (.rejectedAtLoad st)

/-- A flit of this device's part of descriptor `idx`. -/
def isPart (me idx : Nat) (f : OutFlit) : Bool := f.src == me && (match f.body with
  | .data i _ _ sh _ _ => i == idx && !sh
  | _ => false)

/-- Parts of descriptor `idx` that have not left are not sent (Table 11.13). -/
def dropParts (s : State) (idx : Nat) : State :=
  (List.range 6).foldl (fun s p =>
    let gone := (portGet s p).txq.filter (isPart (myIndex s) idx)
    drainDone (portMod s p (fun r => { r with txq := r.txq.filter (fun f => !isPart (myIndex s) idx f) })) p gone) s

/-! ### REDUCE: contributions -/

/-- The contribution of this device to shard `j` (R306, R314, R320): coded bytes, format, coded blocks, e_new
and x. -/
structure Contrib where
  bytes : List Byte := []
  wide : Bool := false
  /-- Nonzero values flushed as the contribution forms: those decoded, and those of every F32 step (R84, R314). -/
  flush : Nat := 0
  outs : List BlkOut := []
  eNew : List B16 := []
  x : List F32 := []

/-- The contribution of this device to shard `j`, with the values that its steps flushed (assumption 140). -/
def contribution (s : State) (d : CflDesc) (n j : Nat) : Contrib :=
  let f := redSrc d
  let c := d.count.toNat
  let (o, l) := shardExt f c n j
  let b0 := (shardBlocks c n j).1
  let nb := shardLen c n j
  let raw := tensorBytes s d.srcH.toNat (fld d.srcOff 0 40 + o) l
  let (x0, fl) := decStored f raw nb
  let db := if d.dH = 0 then [] else tensorBytes s d.dH.toNat (128 * b0) (128 * nb)
  let dv (i : Nat) : F32 := BitVec.ofNat 32 (leNat ((db.drop (4 * i)).take 4))
  let x := if d.dH = 0 then x0 else x0.mapIdx (fun i v => fadd v (dv i))
  let fl := if d.dH = 0 then fl else fl + (x0.mapIdx (fun i v => f32Sub (dv i) + stepFlush ((f32V v).add (f32V (dv i))))).sum
  if d.cmp then
    let eb := tensorBytes s d.eH.toNat (64 * b0) (64 * nb)
    let ev (i : Nat) : B16 := BitVec.ofNat 16 (leNat ((eb.drop (2 * i)).take 2))
    let v := x.mapIdx (fun i y => fadd y (f32OfB16 (ev i)))
    let fl := fl + (x.mapIdx (fun i y => b16Sub (ev i) + stepFlush ((f32V y).add (b16V (ev i))))).sum
    let cs := (List.range nb).map (fun b => lcuBlock ((v.drop (32 * b)).take 32))
    { bytes := asmStored .f4 (cs.map (·.1)), outs := cs.map (·.1), eNew := cs.flatMap (·.2), x := x
      flush := fl + (cs.mapIdx (fun b c => lcuErrFlush ((v.drop (32 * b)).take 32) c.1)).sum }
  else if db.all (· == 0) then { bytes := raw, x := x }
  else { bytes := x.flatMap (fun v => leBytes 4 v.toNat), wide := true, x := x, flush := fl }

/-- The late devices that this device's ledger names for a descriptor (R323): map and policy. -/
def replayDecision (s : State) (rid : Half) : DWord × Nat :=
  let n := memNat s s.cfl.ledgerH 0 8
  let es := (List.range n).filter (fun i =>
    memNat s s.cfl.ledgerH (16 + 16 * i) 8 == (stepS s).toNat && memNat s s.cfl.ledgerH (16 + 16 * i + 8) 2 == rid.toNat)
  (es.foldl (fun (m : DWord) i => m ||| ((1 : DWord) <<< (memNat s s.cfl.ledgerH (16 + 16 * i + 10) 1 % 64))) 0,
   match es with
   | [] => 1
   | i :: _ => memNat s s.cfl.ledgerH (16 + 16 * i + 11) 1)

/-- Room in the ledger for `k` more entries (R322). -/
def ledgerRoom (s : State) (k : Nat) : Bool :=
  match tensorOf s s.cfl.ledgerH with
  | some t => 16 + 16 * (memNat s s.cfl.ledgerH 0 8 + s.cfl.ledgerNew.length + k) ≤ t.size
  | none => false

/-- A decision finds no room in the ledger (R322). -/
def ledgerFull (s : State) : State := setInt (bump s .cfl 0 0xc38 1) .cfl 0 2

/-- Members of a late map. -/
def lateList (n : Nat) (m : DWord) : List Nat := (List.range n).filter (fun d => m.getLsbD d)

/-- A decision takes effect (R319, R320, R322). -/
def decide' (s : State) (o : CflOp) (map : DWord) (policy : Nat) : State :=
  let l := lateList (reachD s) map
  let pol := if policy = 1 ∧ o.d.dH = 0 then 2 else policy
  let s := opPut s { o with late := some map, policy := pol, tree := { o.tree with taken := o.tree.taken.filter (fun d => !map.getLsbD d) } }
  let s := { s with cfl := { s.cfl with lateMap := map } }
  let s := bump s .cfl 0 (if pol = 1 then 0xc28 else 0xc30) l.length
  -- the leader decides under its own room; another device whose ledger is full records nothing (assumption 130)
  let s := if s.cfl.ledgerMode ≠ 1 ∨ l = [] then s
    else if ledgerRoom s l.length then { s with cfl := { s.cfl with ledgerNew := s.cfl.ledgerNew ++ l.map (fun d => (o.d.rid.toNat, d, policy)) } }
    else ledgerFull s
  -- a late device stops sending the parts that have not left (Table 11.13)
  let s := if map.getLsbD (myIndex s) then dropParts s o.idx else s
  if l = [] then s else setIntOnce s .cfl 0 0

/-- The leader's decision goes to every device (R319). -/
def leaderDecide (s : State) (o : CflOp) (map : DWord) (policy : Nat) : State :=
  decide' (recordAll s (.decision o.idx map policy)) o map policy

/-! ### Progress of a descriptor -/

/-- Whether a REDUCE crosses the basin (R350). -/
def basinRid (s : State) (rid : Half) : Bool := match s.hst.basin with
  | some b => b.rids.contains rid.toNat && 1 < b.addrs.length
  | none => false

/-- Writes of E_H and D_H by Table 11.11, once no fence stands (R308). -/
def opBuffers (s : State) (o : CflOp) : State :=
  match o.late with
  | none => s
  | some m =>
    let late := m.getLsbD (myIndex s)
    let c := o.d.count.toNat
    let hs := (if o.d.cmp then [o.d.eH.toNat] else []) ++ (if o.d.dH = 0 then [] else [o.d.dH.toNat])
    if o.buffers || hs.any (fenced s) then s
    else
      let s := opPut s { o with buffers := true }
      let s := if o.d.cmp then stateWrite s (o.d.eH.toNat, 0, if late then tensorBytes s o.d.eH.toNat 0 (64 * c) else o.eNew) else s
      if o.d.dH = 0 then s
      else stateWrite s (o.d.dH.toNat, 0, if late && o.policy == 1 then o.xF32 else List.replicate (128 * c) 0)

/-- The part of device `d` for this device's shard as F32 values, +0 when it is late; `none` while it is
missing. The count is of flushed values. -/
def partOf (s : State) (o : CflOp) (m : DWord) (d : Nat) : Option (List F32 × Nat) :=
  let nb := myBlocks s o
  if m.getLsbD d then some (List.replicate (32 * nb) 0, 0)
  else if d = myIndex s then some (decStored (partFmt s o d) o.own nb)
  else (partBytes s o d).map (fun bs => decStored (partFmt s o d) bs nb)

/-! ### Staging (R307, R352) -/

/-- Bytes of the staging memory (R304). -/
def stagingSize : Nat := 2 ^ 25

/-- A device's part needs no more bytes: this device's own, or one that is late. -/
def partFree (s : State) (o : CflOp) (j : Nat) : Bool := j == myIndex s || o.late.any (fun m => m.getLsbD j)

/-- A leaf of the tree over the devices is complete; while no decision stands, none is (R319). -/
def leafHere (s : State) (o : CflOp) (j : Nat) : Bool := o.late.isSome && (partFree s o j || o.tree.taken.contains j)

/-- A leaf of the tree over the reaches is complete. -/
def reachHere (s : State) (o : CflOp) (r : Nat) : Bool :=
  o.basin.taken.contains r || (o.sum.isSome && s.hst.basin.any (fun b => b.self == r))

/-- Reaches of the basin. -/
def reachCount (s : State) : Nat := (s.hst.basin.map (·.addrs.length)).getD 1

/-- The complete operands of a tree that staging holds, those that wait for their partners: operands of free leaves alone need
no room. -/
def treeHeld (t : OpTree) (n : Nat) (here : Nat → Bool) : List (Nat × Nat × Bool) :=
  (treeLevels treeParked n (treeLeaves n here)).filter (fun x =>
    !t.spilled.contains x.1 && t.taken.any (fun j => decide (x.1 ≤ j ∧ j < x.2.1)))

/-- Bytes of one operand of a descriptor's trees. -/
def operandBytes (s : State) (o : CflOp) : Nat := 128 * myBlocks s o

/-- Operands of a descriptor that staging holds: before the decision every part that has been taken, then those that wait. -/
def opHeld (s : State) (o : CflOp) : Nat :=
  (if o.sum.isSome then 0 else if o.late.isNone then o.tree.taken.length else (treeHeld o.tree (reachD s) (leafHere s o)).length)
  + (if o.final then 0 else (treeHeld o.basin (reachCount s) (reachHere s o)).length)

/-- A basin frame is no longer apart: its part has been taken as an operand. -/
def frameTaken (s : State) (p : BasinPart) : Bool := s.cfl.ops.any (fun o => o.d.rid.toNat == p.rid && o.basin.taken.contains p.pos)

/-- Bytes that staging holds: the F32 operands of the trees that are not combined yet, and basin parts that are not
complete. -/
def stagedBytes (s : State) : Nat :=
  (s.cfl.ops.map (fun o => operandBytes s o * opHeld s o)).sum
    + (s.cfl.basinIn.map (fun p => if p.spilled || frameTaken s p then 0 else p.bytes.length)).sum

/-- The place of an operand in the scratch region of DST_H: that of this device's own shard, as far as it reaches
(assumption 101). -/
def scratchPlace (s : State) (o : CflOp) : Nat × Nat :=
  let e := shardExt (redDst o.d) o.d.count.toNat (reachD s) (myIndex s)
  (fld o.d.dstOff 0 40 + e.1, e.2)

/-- A completed left operand is written to its place (R307). -/
def spillOut (s : State) (o : CflOp) (bs : List Byte) : State :=
  let p := scratchPlace s o
  cflWrite (bump s .cfl 0 0xc18 bs.length) o.d.dstH.toNat p.1 (bs.take p.2)

/-- The additions of a right operand into the place of a spilled left one are performed, as ADD_F32, by the home slices of
its pages, and leave their sum there (R207, R307). -/
def spillAdd (s : State) (o : CflOp) (sum : List Byte) : State :=
  let p := scratchPlace s o
  let h := o.d.dstH.toNat
  let n := min p.2 sum.length
  let s := (pageParts p.1 n).foldl (fun s q => sliceAtomics s (homeTile s h (max p.1 (q.1 * pageSize))) (q.2 / 4) 0) s
  let s := sliceAtomics s (homeTile s h p.1) ((sum.length - n) / 4) 0
  memAccess prioCfl .atomic false false h p.1 n (memWrite s h p.1 (sum.take p.2))

/-- F32 values as bytes. -/
def f32Bytes (vs : List F32) : List Byte := vs.flatMap (fun v => leBytes 4 v.toNat)

/-- The operand of a tree over leaves `lo` to `hi - 1`. -/
def operand (part : Nat → List F32) (n lo hi : Nat) : List F32 :=
  let ps := ((List.range hi).drop lo).map part
  (List.range n).map (fun i => sumTree (ps.map (fun p => p.getD i 0)))

/-- A leaf joins a tree: the tree after it, and the sums that its arrival leaves in spilled places, first to last. -/
def treeTake (t : OpTree) (n : Nat) (here : Nat → Bool) (j : Nat) : OpTree × List (Nat × Nat) :=
  let js := (treeLevels treeJoins n (treeLeaves n here)).filter (fun x => decide (x.1 ≤ j ∧ j < x.2.2))
  ({ taken := t.taken ++ [j], spilled := t.spilled.filter (fun x => !js.any (fun y => y.2.1 == x)) },
   (js.filter (fun x => t.spilled.contains x.1)).map (fun x => (x.1, x.2.2)))

/-- The completed left operand that leaves staging for want of room: the first one of a tree. -/
def treeSpill (t : OpTree) (n : Nat) (here : Nat → Bool) : Option (Nat × Nat) :=
  ((treeHeld t n here).find? (·.2.2)).map (fun x => (x.1, x.2.1))

/-- The values of device `j`'s part, and of reach `r`'s result. -/
def partVals (s : State) (o : CflOp) (j : Nat) : List F32 := (((o.late.bind (fun m => partOf s o m j)).map (·.1)).getD [])

/-- Part `j`, which has arrived in full, takes its place in staging; where staging cannot hold it a completed left operand is
spilled, and where there is none the part waits in its port's buffer (R306 step 3, R307, assumption 101). -/
def stagePart (s : State) (o : CflOp) (j : Nat) : State :=
  if o.late.isNone then
    (if stagedBytes s + operandBytes s o ≤ stagingSize then opPut s { o with tree := { o.tree with taken := o.tree.taken ++ [j] } } else s)
  else
    let n := reachD s
    let here (i : Nat) : Bool := leafHere s o i || i == j
    let k := 32 * myBlocks s o
    let t := treeTake o.tree n here j
    let put (s : State) (t : OpTree) : State := opPut s { o with tree := t }
    let added (s : State) : State := t.2.foldl (fun s x => spillAdd s o (f32Bytes (operand (partVals s o) k x.1 x.2))) s
    if stagedBytes (put s t.1) ≤ stagingSize then added (put s t.1)
    else match treeSpill t.1 n here with
      | none => s
      | some x => added (spillOut (put s { t.1 with spilled := x.1 :: t.1.spilled }) o (f32Bytes (operand (partVals s o) k x.1 x.2)))

/-- Parts that have arrived in full take their place, the lower devices' first. -/
def opStageOnce (s : State) (idx : Nat) : State :=
  (List.range (reachD s)).foldl (fun s j =>
    match opGet s idx with
    | none => s
    | some o => if o.sum.isSome || partFree s o j || o.tree.taken.contains j || (partBytes s o j).isNone then s else stagePart s o j) s

/-- A part that staging could not hold may fit once another has been combined. -/
def opStage (s : State) (idx : Nat) : State := (List.range (reachD s)).foldl (fun s _ => opStageOnce s idx) s

/-- Every part that the tree needs has taken its place. -/
def allStaged (s : State) (o : CflOp) : Bool := (List.range (reachD s)).all (fun j => partFree s o j || o.tree.taken.contains j)

/-- The combined result of this device's shard converts, is written and is sent (R306 steps 4 and 5, R309). -/
def opFinish (s : State) (o : CflOp) (sum : List F32) : State :=
  let n := reachD s
  let me := myIndex s
  let f := redDst o.d
  let c := o.d.count.toNat
  let b0 := (shardBlocks c n me).1
  let nb := shardLen c n me
  let key := srKey s (fwSid o.d.fmtw)
  let sr (b i : Nat) : Option Nat :=
    if fwGrad o.d.fmtw then some (srBits key.seed key.step key.sid key.contrib 0 (BitVec.ofNat 64 (32 * (b0 + b) + i))) else none
  let outs := (List.range nb).map (fun b => cnvBlock f (((sum.drop (32 * b)).take 32).map f32V) (sr b))
  let bs := asmStored f outs
  let cnt := outs.foldl (fun a x => a.add x.cnt) ({} : CnvCnt)
  let s := bump (bump (bump s .cfl 0 0xc50 cnt.sat) .cfl 0 0xc58 cnt.nan) .cfl 0 0xc60 cnt.flush
  let s := bump s .cfl 0 0xc10 (32 * nb)
  let s := cflWrite s o.d.dstH.toNat (fld o.d.dstOff 0 40 + (shardExt f c n me).1) bs
  let fold := (outs.flatMap (fun x => f.decBlock x.scale x.codes)).foldl monAdd (s.cfl.groups.getD o.d.group.toNat {})
  let s := if o.d.normAcc then { s with cfl := { s.cfl with groups := s.cfl.groups.set o.d.group.toNat fold } } else s
  let s := if o.d.scatter then s
    else ((List.range n).filter (· != me)).foldl (fun s j => itemTo s j 1 o.idx true bs) s
  opPut s { o with sum := some sum, final := true, wrote := me :: o.wrote }

/-- Basin parts in frames of up to 64 blocks (R350, Table 12.9). -/
def basinSend (s : State) (o : CflOp) (sum : List F32) : State :=
  match s.hst.basin, s.seq.prog with
  | some b, some g =>
    let bs := sum.flatMap (fun v => leBytes 4 v.toNat)
    ((List.range b.addrs.length).filter (· != b.self)).foldl (fun s r =>
      (List.range ((bs.length + 8191) / 8192)).foldl (fun s k =>
        if h : r < 8 then
          let ts : BasinTs :=
            { pos := BitVec.ofNat 8 b.self, reachIndex := BitVec.ofNat 8 g.reach, shape := BitVec.ofNat 8 g.shape,
              rid := o.d.rid, shard := BitVec.ofNat 16 (myIndex s), sLow := o.sLow, first := BitVec.ofNat 32 (64 * k) }
          sendFrame s (.basin ⟨r, h⟩) (.basin ts ((bs.drop (8192 * k)).take 8192))
        else s) s) s
  | _, _ => s

/-- A basin part of this descriptor and of this device's shard. -/
def basinOf (s : State) (o : CflOp) (p : BasinPart) : Bool := p.rid == o.d.rid.toNat && p.shard == myIndex s

/-- The shard result of table position `r`, once every block of it has arrived. -/
def basinPart (s : State) (o : CflOp) (r nb : Nat) : Option (List F32) :=
  let ps := (s.cfl.basinIn.filter (fun p => p.pos == r && basinOf s o p)).map (fun p => (128 * p.first, p.bytes))
  (assembled (128 * nb) ps).map (fun bs => (List.range (32 * nb)).map (fun i => BitVec.ofNat 32 (leNat ((bs.drop (4 * i)).take 4))))

/-- The shard result of reach `r`, this reach's own among them. -/
def reachVals (s : State) (o : CflOp) (r : Nat) : List F32 :=
  if s.hst.basin.any (fun b => b.self == r) then o.sum.getD [] else (basinPart s o r (myBlocks s o)).getD []

/-- A reach's result joins the tree over the reaches: reach `r`'s, or this reach's own (R350). -/
def basinJoin (s : State) (o : CflOp) (r : Option Nat) : State :=
  match s.hst.basin with
  | none => s
  | some b =>
    let n := b.addrs.length
    let j := r.getD b.self
    let here (i : Nat) : Bool := reachHere s o i || i == j
    let t := treeTake o.basin n here j
    let t' := if r.isNone then { t.1 with taken := o.basin.taken } else t.1
    t.2.foldl (fun s x => spillAdd s o (f32Bytes (operand (reachVals s o) (32 * myBlocks s o) x.1 x.2))) (opPut s { o with basin := t' })

/-- A completed left operand of the tree over the reaches leaves staging, if there is one; else the frame itself does
(assumption 101). -/
def basinSpill (s : State) (o : CflOp) (p : BasinPart) : State :=
  match treeSpill o.basin (reachCount s) (reachHere s o) with
  | some x =>
    spillOut (opPut s { o with basin := { o.basin with spilled := x.1 :: o.basin.spilled } }) o
      (f32Bytes (operand (reachVals s o) (32 * myBlocks s o) x.1 x.2))
  | none =>
    spillOut { s with cfl := { s.cfl with basinIn := s.cfl.basinIn.map (fun q => if q = p then { q with spilled := true } else q) } } o p.bytes

/-- The tree of R306 step 3, and the basin stage of R350. -/
def opCombine (s : State) (o : CflOp) : State :=
  match o.late with
  | none => s
  | some m =>
    if o.final then s
    else
      let n := reachD s
      let nb := myBlocks s o
      let s := match o.sum with
        | some _ => s
        | none => match if allStaged s o then (List.range n).mapM (partOf s o m) else none with
          | none => s
          | some ps =>
            let sum := (List.range (32 * nb)).map (fun i => sumTree (ps.map (fun p => p.1.getD i 0)))
            let s := bump s .cfl 0 0xc08 (if nb = 0 then 0 else n - (lateList n m).length)
            let s := bump s .cfl 0 0xc60 ((ps.map (·.2)).sum)
            let s := opPut s { o with sum := some sum }
            if basinRid s o.d.rid && nb != 0 then basinJoin (basinSend s o sum) { o with sum := some sum } none else s
      match opGet s o.idx with
      | none => s
      | some o => match o.sum with
        | none => s
        | some sum =>
          if basinRid s o.d.rid && nb != 0 then
            match s.hst.basin with
            | none => s
            | some b => match (List.range b.addrs.length).mapM (fun r => if r = b.self then some sum else basinPart s o r nb) with
              | none => s
              | some ps =>
                opFinish s o ((List.range (32 * nb)).map (fun i => sumTree (ps.map (fun p => p.getD i 0))))
          else opFinish s o sum

/-- Results of other owners are written as they arrive (R306 step 5). -/
def opResults (s : State) (o : CflOp) : State :=
  if o.d.scatter then s
  else
    let n := reachD s
    let f := redDst o.d
    let c := o.d.count.toNat
    ((List.range n).filter (fun j => j != myIndex s && !o.wrote.contains j)).foldl (fun s j =>
      match opGet s o.idx with
      | none => s
      | some o =>
        let (off, l) := shardExt f c n j
        match assembled l (piecesOf s o j true) with
        | none => s
        | some bs => opPut (cflWrite s o.d.dstH.toNat (fld o.d.dstOff 0 40 + off) bs) { o with wrote := j :: o.wrote }) s

/-- Accumulator of a norm group as an item: 40 bytes and a byte of flags (assumption 21). -/
def groupBytes (m : Monitor) : List Byte := leBytes 40 m.sum.toNat ++ leBytes 1 ((if m.nan then 1 else 0) + (if m.inf then 2 else 0))

/-- A norm accumulator from an item. -/
def groupOf (bs : List Byte) : Monitor :=
  { sum := BitVec.ofNat 320 (leNat (bs.take 40)), nan := (bs.getD 40 0).getLsbD 0, inf := (bs.getD 40 0).getLsbD 1, seen := true }

/-- The value of a monitor (R135). -/
def monValue (m : Monitor) : F32 :=
  if m.nan then f32NaN else if m.inf then f32Inf false else f32OfFixed149 m.sum.toNat

/-- Progress of a NORM (R309): it sends once no REDUCE started before it still folds into its group, and no NORM before it
has still to clear the group. A norm word that is training state waits for fences (R215). -/
def opNorm (s : State) (o : CflOp) : State :=
  let n := reachD s
  let me := myIndex s
  let before := s.cfl.ops.takeWhile (fun x => x.idx != o.idx)
  let s := if !o.own.isEmpty || before.any (fun x => (x.op == 1 && x.d.normAcc || x.op == 3) && x.d.group == o.d.group && !x.final) then s
    else
      let bs := groupBytes (s.cfl.groups.getD o.d.group.toNat {})
      let s := opPut s { o with own := bs }
      ((List.range n).filter (· != me)).foldl (fun s j => itemTo s j 1 o.idx false bs) s
  match opGet s o.idx with
  | none => s
  | some o =>
    if o.own.isEmpty || o.final || isState s o.d.nH.toNat && fenced s o.d.nH.toNat then s
    else match (List.range n).mapM (fun j => if j = me then some o.own else assembled 41 (piecesOf s o j false)) with
      | none => s
      | some bs =>
        let m := (bs.map groupOf).foldl (fun a b => { sum := a.sum + b.sum, nan := a.nan || b.nan, inf := a.inf || b.inf, seen := true }) ({} : Monitor)
        let w := leBytes 4 (monValue m).toNat
        let s := if isState s o.d.nH.toNat then stateWrite s (o.d.nH.toNat, 0, w) else cflWrite s o.d.nH.toNat 0 w
        let s := { s with cfl := { s.cfl with groups := s.cfl.groups.set o.d.group.toNat {} } }
        opPut s { o with final := true, ready := true }

/-- Progress of a GATHER (R311). -/
def opGather (s : State) (o : CflOp) : State :=
  let n := reachD s
  ((List.range n).filter (fun j => !o.wrote.contains j)).foldl (fun s j =>
    match opGet s o.idx with
    | none => s
    | some o =>
      let (a, b) := gatherPart o.d.count.toNat n j
      let l := 64 * (b - a)
      let got := if j = myIndex s then some o.own
        else if o.d.lcode then decodeItem (l / 512 + 1) l (prefixOf (piecesOf s o j false)) else assembled l (piecesOf s o j false)
      match got with
      | none => s
      | some bs =>
        let o := { o with wrote := j :: o.wrote }
        opPut (cflWrite s o.d.dstH.toNat (fld o.d.dstOff 0 40 + 64 * a) bs) { o with ready := o.wrote.length == n }) s

/-- Distance between the places of two rows of an XCHG: a row, and with LCODE the one byte more that each of its frames may
take (R316). -/
def rowStride (d : CflDesc) : Nat := d.rowb.toNat + (if d.lcode then (d.rowb.toNat + 511) / 512 else 0)

/-- Place of row `c` of expert `e`: every row is an item of its own behind the item of the counts (R291, R316; assumption
21). -/
def rowPlace (d : CflDesc) (e c : Nat) : Nat := 4 * d.experts.toNat + (e * d.cap.toNat + c) * rowStride d

/-- Pieces of the item that has `n` places from `at'`, counted from there. -/
def itemPieces (at' n : Nat) (ps : List (Nat × List Byte)) : List (Nat × List Byte) :=
  (ps.filter (fun p => at' ≤ p.1 && p.1 < at' + n)).map (fun p => (p.1 - at', p.2))

/-- Row `c` of expert `e` from the pieces of a device. -/
def xchgRow (d : CflDesc) (ps : List (Nat × List Byte)) (e c : Nat) : Option (List Byte) :=
  let n := d.rowb.toNat
  let qs := itemPieces (rowPlace d e c) (rowStride d) ps
  if d.lcode then decodeItem (n / 512 + 1) n (prefixOf qs) else assembled n qs

/-- Counts and rows that a device has sent, once all have arrived. -/
def xchgItems (d : CflDesc) (ps : List (Nat × List Byte)) : Option (List Nat × List Byte) :=
  let e := d.experts.toNat
  match assembled (4 * e) (itemPieces 0 (4 * e) ps) with
  | none => none
  | some h =>
    let cs := (List.range e).map (fun k => leNat ((h.drop (4 * k)).take 4))
    ((List.range e).mapM (fun k => ((List.range (cs.getD k 0)).mapM (xchgRow d ps k)).map List.flatten)).map (fun rs => (cs, rs.flatten))

/-- This device's own counts and rows. -/
def xchgOwn (d : CflDesc) (bs : List Byte) : List Nat × List Byte :=
  let e := d.experts.toNat
  ((List.range e).map (fun k => leNat ((bs.drop (4 * k)).take 4)), bs.drop (4 * e))

/-- Rows received from device `j` are written, and the rest of each region is zeroed (R310, Table 11.8). -/
def xchgWrite (s : State) (o : CflOp) (j : Nat) (cs : List Nat) (rows : List Byte) : State :=
  let e := o.d.experts.toNat
  let cap := o.d.cap.toNat
  let rb := o.d.rowb.toNat
  let base := fld o.d.dstOff 0 40
  (List.range e).foldl (fun s k =>
    let c := min cap (cs.getD k 0)
    let before := (cs.take k).sum
    let at' := base + (j * e + k) * cap * rb
    let s := cflWrite s o.d.dstH.toNat at' ((rows.drop (before * rb)).take (c * rb))
    let s := cflWrite s o.d.dstH.toNat (at' + c * rb) (List.replicate ((cap - c) * rb) 0)
    let s := bump s .cfl 0 0xc48 (cap - c)
    if o.d.dir then s
    else cflWrite s o.d.nH.toNat (4 * (reachD s * e + j * e + k)) (leBytes 4 (cs.getD k 0))) s

/-- Progress of an XCHG (R310). -/
def opXchg (s : State) (o : CflOp) : State :=
  let n := reachD s
  ((List.range n).filter (fun j => !o.wrote.contains j)).foldl (fun s j =>
    match opGet s o.idx with
    | none => s
    | some o =>
      match if j = myIndex s then some (xchgOwn o.d o.own) else xchgItems o.d (piecesOf s o j false) with
      | none => s
      | some (cs, rows) =>
        let o := { o with wrote := j :: o.wrote }
        opPut (xchgWrite s o j cs rows) { o with ready := o.wrote.length == n }) s

/-- Progress of one descriptor. -/
def opStep (s : State) (idx : Nat) : State :=
  match opGet s idx with
  | none => s
  | some o =>
    if o.ready then s
    else match o.op with
      | 1 =>
        let s := opBuffers s o
        let s := opStage s idx
        let s := match opGet s idx with
          | some o => opCombine s o
          | none => s
        let s := match opGet s idx with
          | some o => opResults s o
          | none => s
        match opGet s idx with
        | some o => if o.final && o.buffers && (o.d.scatter || o.wrote.length == reachD s) then opPut s { o with ready := true } else s
        | none => s
      | 2 => opGather s o
      | 3 => opNorm s o
      | _ => opXchg s o

/-- A tree waits for a part (Table 11.18): a part of a device that is not late, or a basin part, has not arrived. -/
def treeWaits (s : State) (o : CflOp) : Bool :=
  o.op == 1 && !o.final && o.d.count != 0 &&
  match o.sum with
  | none => (List.range (reachD s)).any (fun j => j != myIndex s && !(o.late.elim false (fun m => m.getLsbD j)) && (partBytes s o j).isNone)
  | some _ => true

/-- Progress of every descriptor, in issue order (R304); in SAFE its memory accesses wait (R392). -/
def cflAdvance (s : State) : State := if unitsStopped s then s else (s.cfl.ops.map (·.idx)).foldl opStep s

/-! ### Start of a descriptor (R304) -/

/-- Issue-queue key of the confluence engine. -/
def cflQueue : Nat := 256 + 48

/-- The leader holds one more marker: the window opens at ⌈D/2⌉. A decision run under WAIT for want of ledger room is made
when every marker is held (R322). -/
def markerNote (dev : Nat) (o : CflOp) (s : State) : State :=
  if o.markers.contains dev || o.late.isSome then s
  else
    let o := { o with markers := o.markers ++ [dev], windowOpen := o.windowOpen || decide ((reachD s + 1) / 2 ≤ o.markers.length + 1) }
    let s := opPut s o
    if o.policy = 0 && decide (reachD s ≤ o.markers.length) then cflAdvance (leaderDecide s o 0 0) else s

/-- Once the last part of a REDUCE has left, its marker goes to the leader (R319 step 1). -/
def markerDue (s : State) (idx : Nat) : State :=
  match opGet s idx with
  | none => s
  | some o =>
    if o.owes && o.late.isNone && !s.port.any (fun e => e.2.txq.any (isPart (myIndex s) idx)) then
      let s := opPut s { o with owes := false }
      if myIndex s = 0 then markerNote 0 { o with owes := false } s else flitTo s 0 0 0 (.marker idx)
    else s

/-- The markers that flits just sent make due. -/
def markersDue (s : State) : State := (s.cfl.ops.map (·.idx)).foldl markerDue s

/-- Parts of a REDUCE leave (R306 step 2), and the marker is due after them (R319). -/
def startReduce (s : State) (o : CflOp) : State :=
  let n := reachD s
  let me := myIndex s
  let d := o.d
  let c := d.count.toNat
  let s := cflReads s ((d.srcH.toNat, fld d.srcOff 0 40, (redSrc d).stored c)
    :: (if d.cmp then [(d.eH.toNat, 0, 64 * c)] else []) ++ (if d.dH = 0 then [] else [(d.dH.toNat, 0, 128 * c)]))
  let cs := (List.range n).map (contribution s d n)
  let mine := cs.getD me {}
  let pol := fld s.cfl.policyNow (2 * d.cls.toNat) 2
  -- the policy WAIT decides at once, but in replay the leader's ledger decides every REDUCE (R318, R323)
  let waits := pol = 0 ∧ s.cfl.ledgerMode ≠ 2
  let o : CflOp := { o with own := mine.bytes, wide := mine.wide, policy := pol,
                            eNew := cs.flatMap (fun k => k.eNew.flatMap (fun e => leBytes 2 e.toNat)),
                            xF32 := cs.flatMap (fun k => k.x.flatMap (fun v => leBytes 4 v.toNat)),
                            buffers := !d.cmp && d.dH == 0, late := if waits then some 0 else none }
  let s := opPut s o
  let s := (List.range n).foldl (fun s j =>
    let k := cs.getD j {}
    let s := if d.cmp then lcuLossy s (lcuPort s j) k.outs k.flush ((shardExt (redSrc d) c n j).2) k.bytes.length else bump s .cfl 0 0xc60 k.flush
    if j = me then s else itemAt s j 1 o.idx 0 false k.wide k.bytes) s
  let early := ((s.cfl.earlyMarkers.filter (fun e => e.2 == o.idx)).map (·.1)).eraseDups
  let decided := s.cfl.earlyDecisions.find? (fun e => e.1 == o.idx)
  let s := { s with cfl := { s.cfl with earlyMarkers := s.cfl.earlyMarkers.filter (fun e => e.2 != o.idx)
                                        earlyDecisions := s.cfl.earlyDecisions.filter (fun e => e.1 != o.idx) } }
  if waits then s
  else if me = 0 ∧ s.cfl.ledgerMode = 2 then leaderDecide s o (replayDecision s d.rid).1 (replayDecision s d.rid).2
  else if let some e := decided then decide' s o e.2.1 e.2.2
  else if pol = 0 then s
  else markerDue (opPut s { o with markers := early, owes := true, windowOpen := decide ((n + 1) / 2 ≤ early.length) }) o.idx

/-- Lines of a GATHER leave. -/
def startGather (s : State) (o : CflOp) : State :=
  let n := reachD s
  let me := myIndex s
  let (a, b) := gatherPart o.d.count.toNat n me
  let s := cflReads s [(o.d.srcH.toNat, fld o.d.srcOff 0 40, 64 * (b - a))]
  let bs := tensorBytes s o.d.srcH.toNat (fld o.d.srcOff 0 40) (64 * (b - a))
  let s := opPut s { o with own := bs }
  ((List.range n).filter (· != me)).foldl (fun s j =>
    if o.d.lcode then
      let (c, s) := lcuCode s (lcuPort s j) bs
      itemTo s j 3 o.idx false c
    else itemTo s j 3 o.idx false bs) s

/-- One row of an XCHG leaves as an item, coded in frames of its own with LCODE (R316). -/
def sendRow (o : CflOp) (j : Nat) (s : State) (r : Nat × List Byte) : State :=
  let s := bump s .cfl 0 0xc40 1
  if o.d.lcode then
    let (c, s) := lcuCode s (lcuPort s j) r.2
    itemAt s j 2 o.idx r.1 false false c
  else itemAt s j 2 o.idx r.1 false false r.2

/-- Counts of an XCHG for device `j` (R310). -/
def xchgCounts (s : State) (o : CflOp) (j : Nat) : List Nat :=
  let e := o.d.experts.toNat
  let base := if o.d.dir then 4 * reachD s * e else 0
  (List.range e).map (fun k => leNat (tensorBytes s o.d.nH.toNat (base + 4 * (j * e + k)) 4))

/-- Rows of an XCHG for device `j`, each with its place. -/
def xchgRows (s : State) (o : CflOp) (j : Nat) (cs : List Nat) : List (Nat × List Byte) :=
  let rb := o.d.rowb.toNat
  (List.range o.d.experts.toNat).flatMap (fun k => (List.range (cs.getD k 0)).map (fun c =>
    (rowPlace o.d k c, tensorBytes s o.d.srcH.toNat (fld o.d.srcOff 0 40 + ((j * o.d.experts.toNat + k) * o.d.cap.toNat + c) * rb) rb)))

/-- Rows of an XCHG leave, or counts of zero when a count is above CAP (R310). -/
def startXchg (s : State) (o : CflOp) : State :=
  let n := reachD s
  let me := myIndex s
  let e := o.d.experts.toNat
  let cap := o.d.cap.toNat
  let s := cflReads s [(o.d.nH.toNat, if o.d.dir then 4 * n * e else 0, 4 * n * e)]
  let surplus := (List.range n).any (fun j => (xchgCounts s o j).any (fun c => decide (cap < c)))
  let items := (List.range n).map (fun j =>
    let cs := if surplus then List.replicate e 0 else xchgCounts s o j
    (cs, xchgRows s o j cs))
  let s := cflReads s (items.mapIdx (fun j it => it.1.mapIdx (fun k c =>
    (o.d.srcH.toNat, fld o.d.srcOff 0 40 + (j * e + k) * cap * o.d.rowb.toNat, c * o.d.rowb.toNat)))).flatten
  let mine := items.getD me ([], [])
  let s := opPut s { o with own := mine.1.flatMap (leBytes 4) ++ mine.2.flatMap (·.2) }
  let s := if surplus then
      setInt { s with seq := { s.seq with dispatchErr := true },
                      cfl := { s.cfl with err := if s.cfl.err.isNone then some o.idx else s.cfl.err } } .cfl 0 4
    else s
  ((List.range n).filter (· != me)).foldl (fun s j =>
    let it := items.getD j ([], [])
    it.2.foldl (sendRow o j) (itemTo s j 2 o.idx false (it.1.flatMap (leBytes 4)))) s

/-- Descriptor `idx` in the list of the confluence engine of the loaded program is this one (R304, R305). -/
def cflIs (s : State) (op idx : Nat) (d : CflDesc) : Bool := match rootDesc s 48 idx with
  | some w => cflParse w == (op, d, false)
  | none => false

/-- The engine starts its descriptors in issue order and holds up to 16 in progress (R304). -/
def cflMayStart (s : State) (op idx : Nat) (d : CflDesc) : Bool :=
  s.seq.dev == .running && decide (s.cfl.ops.length < 16) && (opGet s idx).isNone && atFront s cflQueue idx && cflIs s op idx d

/-- Execution of a confluence descriptor. -/
def cflRun (op idx : Nat) (d : CflDesc) (s : State) : State :=
  if !cflMayStart s op idx d then s
  else
    let s := fetchDesc (issuePop s cflQueue idx) 0 48 idx
    let s := { s with seq := { s.seq with issued := s.seq.issued + 1 } }
    let noop := (op = 1 || op = 2) && d.count = 0
    let o : CflOp := { op := op, idx := idx, d := d, sLow := (stepS s).truncate 32, ready := noop }
    let s := { s with cfl := { s.cfl with ops := s.cfl.ops ++ [o] } }
    if noop then s
    else cflAdvance (match op with
      | 1 => startReduce s o
      | 2 => startGather s o
      | 3 => s
      | _ => startXchg s o)

/-- What waited for fences goes on: update descriptors, and the writes of reductions (R278, R308). -/
def liftAdvance (s : State) : State := cflAdvance (runWaiting s)

/-- The frame of every confluence opcode: a form that Table 11.9 rejects never runs. -/
def cflExec (op : Nat) (idx : BitVec 24) (d : CflDesc) (s : State) : Host.Outcome State Fault Refusal :=
  match pickStatus (cflCheck op d (hasLcu s) ++ cflCheckMem s op d (reachD s) (myIndex s)) with
  | 0 => .next (cflRun op idx.toNat d s)
  | st => .refused (.rejectedAtLoad st)

/-- REDUCE (R306). -/
def execReduce (idx : BitVec 24) (d : CflDesc) (s : State) : Host.Outcome State Fault Refusal := cflExec 1 idx d s
/-- GATHER (R311). -/
def execGather (idx : BitVec 24) (d : CflDesc) (s : State) : Host.Outcome State Fault Refusal := cflExec 2 idx d s
/-- NORM (R309). -/
def execNorm (idx : BitVec 24) (d : CflDesc) (s : State) : Host.Outcome State Fault Refusal := cflExec 3 idx d s
/-- XCHG (R310). -/
def execXchg (idx : BitVec 24) (d : CflDesc) (s : State) : Host.Outcome State Fault Refusal := cflExec 4 idx d s

/-- CFL_COMPLETE (R304): a descriptor whose writes are all made completes and raises EV. -/
def cflCompleteEffect (idx : Nat) (s : State) : State :=
  match opGet s idx with
  | none => s
  | some o =>
    if !o.ready then s
    else
      let s := { s with cfl := { s.cfl with
          ops := s.cfl.ops.filter (fun x => x.idx != idx),
          doneIdx := idx :: s.cfl.doneIdx,
          inbox := s.cfl.inbox.filter (fun p => !(p.idx == idx && p.sLow == o.sLow)),
          basinIn := if o.op = 1 then s.cfl.basinIn.filter (fun p => p.rid != o.d.rid.toNat) else s.cfl.basinIn } }
      evRaise (bump (rootDone s) .cfl 0 0xc00 1) o.d.ev.toNat 1

def execCflComplete (idx : BitVec 24) (s : State) : Host.Outcome State Fault Refusal := .next (cflCompleteEffect idx.toNat s)

/-! ### Markers, windows and decisions (R319) -/

/-- MARKER at the leader. One that follows its device's record of weir 0 is of the next step; one of a descriptor that
has completed says nothing any more. -/
def markerEffect (dev idx : Nat) (s : State) : State :=
  let early : State := { s with cfl := { s.cfl with earlyMarkers := s.cfl.earlyMarkers ++ [(dev, idx)] } }
  if myIndex s != 0 then s
  else if aget (fun _ => 0) s.seq.peerClosed dev ≠ 0 then early
  else match opGet s idx with
    | none => if s.cfl.doneIdx.contains idx then s else early
    | some o => markerNote dev o s

/-- WINDOW_CLOSE: the leader names as late every device whose marker it does not hold. -/
def windowCloseEffect (idx : Nat) (s : State) : State :=
  match opGet s idx with
  | none => s
  | some o =>
    if myIndex s != 0 || !o.windowOpen || o.late.isSome || o.policy = 0 then s
    else
      let l := (List.range (reachD s)).filter (fun d => !o.markers.contains d)
      let map : DWord := l.foldl (fun m d => m ||| ((1 : DWord) <<< d)) 0
      if l != [] && s.cfl.ledgerMode == 1 && !ledgerRoom s l.length then
        ledgerFull (opPut s { o with policy := 0 })
      else cflAdvance (leaderDecide s o map o.policy)

def execWindowClose (idx : BitVec 24) (s : State) : Host.Outcome State Fault Refusal := .next (windowCloseEffect idx.toNat s)

/-- DECISION_RECORD: every device acts on the leader's record, one whose descriptor has not started when it starts. A record
that follows the leader's record of weir 0 is of the next step. -/
def decisionEffect (idx : Nat) (map : DWord) (policy : Nat) (s : State) : State :=
  let early : State := { s with cfl := { s.cfl with earlyDecisions := s.cfl.earlyDecisions ++ [(idx, map, policy)] } }
  if aget (fun _ => 0) s.seq.peerClosed 0 ≠ 0 then early
  else match opGet s idx with
    | none => if s.cfl.doneIdx.contains idx then s else early
    | some o => if o.op = 1 && o.late.isNone then cflAdvance (decide' s o map policy) else s

/-! ### Basin parts (R352) -/

/-- A basin part is kept in staging by the REDUCE of its RID and S that is in progress; what staging cannot hold is spilled
(R307). -/
def basinStage (o : CflOp) (p : BasinPart) (s : State) : State :=
  let s := { s with cfl := { s.cfl with basinIn := s.cfl.basinIn ++ [p] } }
  let s := if (basinPart s o p.pos (myBlocks s o)).isSome && !o.basin.taken.contains p.pos && basinOf s o p then basinJoin s o (some p.pos) else s
  cflAdvance (if stagedBytes s ≤ stagingSize then s else match opGet s o.idx with
    | some o => basinSpill s o p
    | none => s)

/-! ### Received flits (R291 to R295) -/

/-- An item's bytes reach this device. They are matched by descriptor index and S (R304). -/
def deliver (s : State) (f : Flit) : State :=
  let p : Piece := { src := f.srcDev.toNat, idx := f.idx.toNat, sLow := f.sLow, off := f.off.toNat, shard := f.shard, f32 := f.f32, bytes := f.payload }
  cflAdvance { s with cfl := { s.cfl with inbox := s.cfl.inbox ++ [p] } }

/-- Flits up to a SEQ are acknowledged; a negative acknowledgement resends the rest (R292). -/
def flitAcked (p : Nat) (q : Half) (neg : Bool) (s : State) : State :=
  let u := (portGet s p).unacked
  -- the position of the acknowledged flit among those outstanding
  let n := match u.findIdx? (fun e => e.1 == q) with
    | some i => i + 1
    | none => 0
  let s := portMod s p (fun r => { r with unacked := r.unacked.drop n })
  let s := if neg then portReplay s p else s
  drainDone s p ((u.take n).map (·.2))

/-- Credits and the acknowledgement that a flit carries; flits that waited for credit leave (Table 11.3, R293). -/
def linkFields (p : Nat) (h : FlitHdr) (s : State) : State :=
  let s := portMod s p (fun r => { r with credit := r.credit.set h.creditTc.toNat (r.credit.getD h.creditTc.toNat 0 + h.credit.toNat) })
  let s := flitAcked p (h.ack.truncate 16) (h.ack.getLsbD 31) s
  markersDue (pumpPort p (portGet s p).txq.length s)

/-- An acknowledge flit leaves a port, with the credits that it returns; it takes no SEQ and no credit of its own (assumption
103). -/
def sendFlitAck (p : Nat) (q : Half) (neg : Bool) (tc credit : Nat) (s : State) : State :=
  send (bump s .ngl p 0xc00 1) (.flitAck p q neg tc credit)

/-- A damaged flit is discarded and answered with a negative acknowledgement (R292). -/
def refuseFlit (p : Nat) (s : State) : State := sendFlitAck p (portGet s p).rxSeq true 0 0 s

/-- A flit of a device's own traffic that TST_LINK_CTRL neither refuses nor holds arrives undamaged: `k` flits in a row from
SEQ are taken, acknowledged and their buffers returned; `eff` is what they carry. A flit out of order is answered with the
SEQ held, negatively when one before it is missing (R292, R293). `free` takes whatever SEQ (assumption 103). -/
def linkOrder (p k : Nat) (free : Bool) (h : FlitHdr) (eff : State → State) (s : State) : State :=
  let s := fecCount .ngl p 0xc20 h.toFecRx (bump s .ngl p 0xc08 k)
  let q := (portGet s p).rxSeq
  let next := h.seq == q + 1
  if !next && !free then sendFlitAck p q (decide ((h.seq - q - 1).toNat < 2 ^ 15)) 0 0 s
  else
    let s := if next then portMod s p (fun r => { r with rxSeq := q + BitVec.ofNat 16 k }) else s
    eff (linkFields p h (sendFlitAck p (portGet s p).rxSeq false h.tc.toNat k s))

/-- A damaged flit is counted with its codewords, and refused (R292, R460). -/
def damagedFlit (p : Nat) (h : FlitHdr) (s : State) : State :=
  let s := fecCount .ngl p 0xc20 h.toFecRx s
  refuseFlit p (if h.fecOk then bump s .ngl p 0xc30 1 else s)

/-- What the link layer does with a received flit, or with a record of `k` flits (R292, R293, R475). -/
def linkTake (p k : Nat) (free : Bool) (h : FlitHdr) (eff : State → State) (s : State) : State :=
  let n := (portGet s p).tst
  let t := portMod s p (fun r => { r with tst := linkNext s .ngl p r.tst k })
  if !h.fecOk || !h.crcOk then damagedFlit p h s
  else if linkRefuses s .ngl p n k then
    -- the test refuses the flit like a damaged one (R475)
    refuseFlit p (tstCount (fecCount .ngl p 0xc20 h.toFecRx t) .ngl p 0x090 (linkRefused s .ngl p n k))
  else linkOrder p k free h eff (linkDelay t .ngl p k)

/-- A flit for another device goes on along its route (R295). -/
def forward (h : FlitHdr) (off k : Nat) (b : FlitBody) (s : State) : State :=
  match routePort s h.dest.toNat off with
  | some q =>
    let s := portSend (bump s .ngl q 0xc18 k) q { tc := h.tc.toNat, dest := h.dest.toNat, src := h.srcDev.toNat, body := b }
    (List.range (k - 1)).foldl (fun s _ => portSend s q { tc := h.tc.toNat, dest := h.dest.toNat, src := h.srcDev.toNat, body := .cont }) s
  | none => s

/-- A record or an item received on a port in UP: taken here when DEST names this device, else forwarded. -/
def reachFlit (p k : Nat) (h : FlitHdr) (off : Nat) (b : FlitBody) (eff : State → State) (s : State) : State :=
  if (portGet s p).st != .up then s
  else linkTake p k false h (fun s => if h.dest.toNat = myIndex s then eff s else markersDue (forward h off k b s)) s

/-- MARKER (R319). -/
def execMarker (h : RecHdr) (idx : BitVec 24) (s : State) : Host.Outcome State Fault Refusal :=
  .next (reachFlit h.port 1 h.toFlitHdr 0 (.marker idx.toNat) (markerEffect h.srcDev.toNat idx.toNat) s)

/-- DECISION_RECORD (R319). -/
def execDecisionRecord (h : RecHdr) (idx : BitVec 24) (d : Decision) (s : State) : Host.Outcome State Fault Refusal :=
  .next (reachFlit h.port 1 h.toFlitHdr 0 (.decision idx.toNat d.map d.policy.toNat) (decisionEffect idx.toNat d.map d.policy.toNat) s)

/-- DATA_FLIT: a flit received on a port. A bad one is discarded and answered with a negative
acknowledgement; a flit for another device is forwarded (R292, R293, R295). -/
def dataFlitEffect (p : Nat) (f : Flit) (s : State) : State :=
  reachFlit p 1 f.toFlitHdr f.off.toNat (.data f.idx.toNat f.sLow f.off.toNat f.shard f.f32 f.payload) (fun s => deliver s f) s

def execDataFlit (p : Fin 6) (f : Flit) (s : State) : Host.Outcome State Fault Refusal := .next (dataFlitEffect p.val f s)

/-- FLIT_ACK: an acknowledge flit (R292). It carries no SEQ of its own (assumption 103). -/
def flitAckEffect (p : Nat) (h : FlitHdr) (s : State) : State :=
  if (portGet s p).st = .up ∨ (portGet s p).st = .ident then
    if !h.fecOk || !h.crcOk then damagedFlit p h s
    else linkFields p h (fecCount .ngl p 0xc20 h.toFecRx (bump s .ngl p 0xc08 1))
  else s

def execFlitAck (p : Fin 6) (h : FlitTop) (rx : FlitRx) (s : State) : Host.Outcome State Fault Refusal := .next (flitAckEffect p.val ⟨h, rx⟩ s)

end Sys2Proof.Machine
end

