-- ==== Sys2Proof/Machine/Control.lean ====
section
/-! DEFINITION. Control of the device: latches (R440), completions and rejections (R255, R340), device states
(R252, R254), the end of a step without commit (R214, R251) and halts (R258). -/

namespace Sys2Proof.Machine

/-! ### Latches (R440, R451) -/

/-- PER_SEQ of a latch: STEP, SNAP and NONSTEP (Table 16.11). -/
def perSeqWord (stp : DWord) (snap nonstep : Bool) : Word :=
  BitVec.ofNat 32 (stp.toNat % 2 ^ 30 + (if snap then 2 ^ 30 else 0) + (if nonstep then 2 ^ 31 else 0))

/-- A module latch: every live counter moves to its latched copy and restarts, on every page. -/
def moduleLatch (s : State) (nonstep : Bool) (stp : DWord) : State :=
  { s with lat := s.ctr, ctr := [], perSeq := perSeqWord stp false nonstep, perPage := [] }

/-- A module latch outside action 3 (R440). -/
def latchNow (s : State) : State := moduleLatch s true (stepS s)

/-- A page latch by PER_CTRL SNAP (R440). -/
def pageLatch (s : State) (p : Pg) (i : Nat) : State :=
  let b := pageBase p i
  { s with lat := acopy s.ctr s.lat b 0x1000, ctr := aclr s.ctr b 0x1000,
           perPage := aset (fun _ => s.perSeq) s.perPage b (perSeqWord (stepS s) true true) }

/-! ### Commands (R253, R339) -/

/-- Opcode, tag and flags of a command. -/
def cmdOp (w : Cmd) : Nat := fld w 0 8
def cmdTag (w : Cmd) : Half := BitVec.ofNat 16 (fld w 16 16)
def cmdFence (w : Cmd) : Bool := w.getLsbD 8
def cmdQuiet (w : Cmd) : Bool := w.getLsbD 9
def cmdAtBoundary (w : Cmd) : Bool := w.getLsbD 10
/-- `n` bytes of a command from byte `b`, as a number. -/
def cmdNat (w : Cmd) (b n : Nat) : Nat := fld w (8 * b) (8 * n)

/-- State code of Table 9.12. -/
def devCode : DevSt → Nat
  | .off => 0 | .standby => 1 | .ready => 2 | .loaded => 3 | .running => 4 | .paused => 5 | .halted => 6 | .safe => 7

/-- States in which a command is legal (Table 9.13); WRITE in RUNNING further under R217. -/
def cmdLegal (op : Nat) (d : DevSt) : Bool :=
  match op with
  | 0x01 => d == .standby
  | 0x02 | 0x03 => d == .ready
  | 0x04 => d == .loaded || d == .paused || d == .halted
  | 0x05 => d == .loaded
  | 0x06 => d == .running
  | 0x07 => d == .paused || d == .halted
  | 0x08 => d == .running || d == .paused || d == .halted
  | 0x10 | 0x11 | 0x12 | 0x13 | 0x19 => d == .ready || d == .loaded || d == .running || d == .paused || d == .halted
  | 0x14 => d == .loaded || d == .running || d == .paused || d == .halted
  | 0x15 => d == .loaded || d == .paused || d == .halted
  | 0x18 => d == .ready
  | _ => false

/-- The opcodes of Table 9.13. -/
def cmdDefined (op : Nat) : Bool :=
  (1 ≤ op && op ≤ 8) || (0x10 ≤ op && op ≤ 0x15) || op == 0x18 || op == 0x19

/-- The record of command queue `q` (R338). -/
def queueGet (s : State) (q : Nat) : Queue := aget (fun _ => {}) s.hst.queues q
/-- Changes the record of queue `q`. -/
def queueMod (s : State) (q : Nat) (f : Queue → Queue) : State :=
  { s with hst := { s.hst with queues := aset (fun _ => {}) s.hst.queues q (f (queueGet s q)) } }

/-! ### Completions (R340, R337) -/

/-- COMPLETION frames of up to 64 entries. -/
def sendCpls (s : State) (es : List Cpl) : State :=
  (List.range ((es.length + 63) / 64)).foldl (fun s k => sendFrame s .host (.completion ((es.drop (64 * k)).take 64))) s

/-- Entries gathered leave, in the order written. -/
def flushCpls (s : State) : State :=
  sendCpls { s with hst := { s.hst with gather := [] } } s.hst.gather

/-- An entry is sent, gathered, or kept while no frame may leave to the host: up to 256 per queue (R337). -/
def cplPut (s : State) (e : Cpl) : State :=
  if s.hst.unreachable || !s.hst.synced then
    if (s.hst.kept.countP (fun k => k.q == e.q)) < 256 then { s with hst := { s.hst with kept := s.hst.kept ++ [e] } } else s
  else if pgGet s .hst 0 0x12c = 0 then sendFrame s .host (.completion [e])
  else { s with hst := { s.hst with gather := s.hst.gather ++ [e] } }

/-- RESULT of a completion: the state code for a state command, else what the command moved or made. -/
def cplResult (s : State) (op result : Nat) : Nat := if 1 ≤ op ∧ op ≤ 8 then devCode s.seq.dev else result

/-- A command completes (R339, R340); OK counts in SEQ_CNT_CMD. -/
def complete (s : State) (c : CmdRef) (st : Half) (result : Nat) : State :=
  let s := if st = stOK then bump s .seqR 0 0xc00 1 else s
  if st = stOK && cmdQuiet c.w then s
  else cplPut s { tag := cmdTag c.w, q := c.q, op := BitVec.ofNat 8 (cmdOp c.w), status := st,
                  head := BitVec.ofNat 16 (queueGet s c.q).head, result := BitVec.ofNat 64 (cplResult s (cmdOp c.w) result) }

/-- SEQ_REJECT of a rejection in the state as it stands, and INT_RAW bit 3 for the first of the step (R255). -/
def noteReject (s : State) (op q : Nat) (reg : Bool) : State :=
  let s := { s with seq := { s.seq with
      reject := BitVec.ofNat 32 (op + devCode s.seq.dev * 2 ^ 8 + q * 2 ^ 12 + (if reg then 2 ^ 16 else 0)) } }
  if s.seq.rejectSeen then s else setInt { s with seq := { s.seq with rejectSeen := true } } .seqR 0 8

/-- A command is rejected: the counts of Table 9.20, SEQ_REJECT for STATE_CONFLICT, and the completion. -/
def reject (s : State) (c : CmdRef) (st : Half) : State :=
  let s := bump s .seqR 0 0xc18 1
  let s := if st = stLen then bump s .seqR 0 0xc10 1 else s
  let s := if st = stState then noteReject (bump s .seqR 0 0xc08 1) (cmdOp c.w) c.q false else s
  complete s c st 0

/-- A command ends with OK, or is rejected. -/
def finish (s : State) (c : CmdRef) (st : Half) (result : Nat) : State :=
  if st = stOK then complete s c st result else reject s c st

/-! ### Device states (R252) -/

/-- The device enters a state; a change sets SEQ INT_RAW bit 0. -/
def setDev (s : State) (d : DevSt) : State :=
  if s.seq.dev = d then s else setInt { s with seq := { s.seq with dev := d } } .seqR 0 1

/-- PAUSE commands that wait, and a RESUME that follows one, complete with STATE_CONFLICT, recording the state entered (R253,
Table 9.16). -/
def failPause (s : State) : State :=
  s.seq.pause.foldl (fun s c => reject s c stState) { s with seq := { s.seq with pause := [] } }

/-! ### The end of a step that does not commit (R214, R251) -/

/-- Descriptors already started complete where they can (R251 step 2). -/
def finishStarted (s : State) : State :=
  let s := (List.range 96).foldl (fun s e => (dmaGet s e).busy.foldl (fun s b => dmaCompleteEffect e b.idx s) s) s
  let s := (List.range 12).foldl (fun s u => match (updGet s u).active with
    | some (i, _) => updateCompleteEffect u i s
    | none => s) s
  s.cfl.ops.foldl (fun s o => cflCompleteEffect o.idx s) s

/-- Maps a table of records, dropping those that become the default. -/
def amapMap [DecidableEq α] (d : α) (f : α → α) (m : AMap α) : AMap α :=
  m.filterMap (fun e => if f e.2 = d then none else some (e.1, f e.2))

/-- Working versions written in the step are discarded (R214): a key of `written` is handle * 2^20 + page. -/
def discardWork (s : State) : State :=
  let m := s.mem.written.foldl (fun (m : Mem) e =>
    let k := tkey (e.1 / 2 ^ 20) (e.1 % 2 ^ 20 * pageSize)
    { m with work := aclr m.work k pageSize, wpoison := aclr m.wpoison (k / 32) (pageSize / 32) }) s.mem
  { s with mem := { m with written := [] } }

/-- Everything of the step that has not completed is abandoned: issue queues, fills, probes, descriptors that
wait, closings and the records of peers. -/
def abandonStep (s : State) : State :=
  let ring (g : Ring) : Ring := { g with queue := [], fills := [], held := false, st := List.replicate g.slots .free, head := 0, tail := 0, rpos := 0, ucnt := 0 }
  let arr (r : Arr) : Arr :=
    { r with st := if r.st = .running then .idle else r.st, waitRing := none, mrow := 0, rings := r.rings.map ring, rel := false }
  let port (r : Port) : Port := { r with drains := [] }
  { s with
    arr := amapMap {} arr s.arr
    dma := amapMap {} (fun r => { r with busy := [] }) s.dma
    upd := amapMap {} (fun r => { r with active := none, waiting := none }) s.upd
    port := amapMap {} port s.port
    cfl := { s.cfl with ops := [], inbox := [], basinIn := [], earlyMarkers := [], earlyDecisions := [], groups := [{}, {}, {}, {}], ledgerNew := [] }
    seq := { s.seq with issueQ := [], probes := [], streams := s.seq.streams.map (fun t => { t with wait := none }),
                        peerClosed := [], peerTrig := [], peerNoCommit := false, peerLater := [], act := 0 } }

/-- A step that ran a probe pass or a conversion on a record that was cold counts once in TEL_CNT_COLD_STEP, as it closes
(R109). -/
def coldNote (s : State) : State :=
  if s.seq.scales.any (fun e => e.2.coldUsed) then
    let s := { s with seq := { s.seq with scales := s.seq.scales.map (fun e => (e.1, { e.2 with coldUsed := false })) } }
    ctrSet s .tel 0 0xc10 1
  else s

/-- The step closes without commit: started descriptors complete where they can, the rest is abandoned,
working versions are discarded, and the counters latch (R214, R251, R440). -/
def discardStep (s : State) : State := latchNow (coldNote (discardWork (abandonStep (finishStarted s))))

/-- Causes of the device itself that close its weir without commit, in the order of Table 9.15. -/
def ownCauses (s : State) : List Half :=
  chk s.seq.dmaPoison 0x0701 ++ chk s.mem.memPoison 0x0801 ++ chk s.seq.touchRange 0x0a01 ++ chk s.seq.touchOrder 0x0a02
    ++ chk s.seq.dispatchErr 0x0b02

/-! ### Halts (R258) -/

/-- The device enters HALTED with a status, raised at a boundary action or before the commit (0); the halt is logged
(R461, Table 18.4). -/
def haltDev (s : State) (kind : HaltKind) (st : Half) (action : Nat) : State :=
  let s := logTask s 8 .seqR 0 st [BitVec.ofNat 8 action, BitVec.ofNat 8 (devCode s.seq.dev)]
  let s := { s with seq := { s.seq with halt := some kind, haltStatus := st, haltAction := action, act := 0, ramp := none,
                                        reserveOwed := s.seq.reserveOwed || kind == .boundary4 } }
  failPause (setInt (setDev s .halted) .seqR 0 2)

/-- Codes of halts. -/
def stMemReserve : Half := 0x0201
def stNeighbour : Half := 0x0202
def stThermalSafe : Half := 0x0301
def stPower : Half := 0x0302
def stLayerHalt : Half := 0x0501
def stDmaPoison : Half := 0x0701
def stMemPoison : Half := 0x0801
def stPageExhausted : Half := 0x0802
def stPlacementFull : Half := 0x0803
def stTimeout : Half := 0x0901
def stTouchRange : Half := 0x0a01
def stTouchOrder : Half := 0x0a02
def stLinkDown : Half := 0x0b01
def stDispatch : Half := 0x0b02
def stPeerHalt : Half := 0x0b03
def stUnreachable : Half := 0x0c01
def stMbxSequence : Half := 0x0f01
def stKeyAbsent : Half := 0x0f02
def stCounterStale : Half := 0x0f03
def stImageInvalid : Half := 0x0f04
def stIdFault : Half := 0x0f05
def stHbmTrain : Half := 0x1001
def stSlotEmpty : Half := 0x1002

/-- Faults of the step that its status does not name are logged, each as a HALT entry of its own, with the boundary action
and the state left (R258, R461); the management processor writes them (R465). -/
def logFaults (sts : List Half) (action : Nat) (s : State) : State :=
  sts.foldl (fun s st => logTask s 8 .seqR 0 st [BitVec.ofNat 8 action, BitVec.ofNat 8 (devCode s.seq.dev)]) s

/-- A step in progress is discarded and the device halts; `notice` sends a DISCARD notice (R302). -/
def discardHalt (s : State) (kind : HaltKind) (st : Half) (notice : Bool) : State :=
  let s := discardStep s
  let s := haltDev (logFaults ((ownCauses s).filter (· != st)) 0 s) kind st 0
  if notice then noticeAll s (myIndex s) st false none else s

/-- STEP_TIMEOUT (R251). -/
def stepTimeoutEffect (s : State) : State :=
  if s.seq.dev = .running ∧ s.seq.act = 0 then setInt (discardHalt s .discarded stTimeout true) .seqR 0 0x10 else s

end Sys2Proof.Machine
end

