-- ==== Sys2Proof/Machine/Power.lean ====
section
/-! DEFINITION. Power delivery (R354 to R376): regulators with their phases, loans and ties, vertical stages, the
input, the lehr ramp, the array map of step boundaries (R66, R67), and loss of power. -/

namespace Sys2Proof.Machine

/-! ### Regulators (R361 to R366) -/

/-- Column x and row y of array `a` on its tile (R14). -/
def colOf (a : Nat) : Nat := a % 192 % 16
def rowOf (a : Nat) : Nat := a % 192 / 16
/-- The arrays at x − 1 and x + 1 of the same row. -/
def leftOf (a : Nat) : Option Nat := if colOf a = 0 then none else some (a - 1)
def rightOf (a : Nat) : Option Nat := if colOf a = 15 then none else some (a + 1)
/-- Adjacent arrays of the tile, at x ± 1 and y ± 1. -/
def adjacent (a : Nat) : List Nat :=
  (leftOf a).toList ++ (rightOf a).toList ++ (if rowOf a = 0 then [] else [a - 16]) ++ (if rowOf a = 11 then [] else [a + 16])

/-- Own phases that work. -/
def ownPhases (r : Regu) : Nat := (List.range 6).countP (fun i => !r.fail.getLsbD i)
/-- One for a flag that is set. -/
def one (b : Bool) : Nat := if b then 1 else 0
/-- Phases w that a regulator drives (Table 13.4, R365). -/
def phasesW (r : Regu) : Nat :=
  if r.ctrlFail then 0 else ownPhases r - one r.lendM - one r.lendP + one r.borM + one r.borP

/-- A frequency from `lo` to `hi` in steps of 25 MHz that the manual does not fix: it depends on the demand of the
array (R359, R364, R366). Free, assumption 23. -/
def freeCeil (s : State) (lo hi : Nat) : Nat × State :=
  let (n, s) := draw s
  (lo + 25 * ((Config.freeWord n).toNat % ((hi - lo) / 25 + 1)), s)

/-- The regulator ceiling after a change of w: with six phases none, with four or five at least 1600 MHz at the loads
of Table 13.3, with fewer a frequency that the limit holds. A regulator that carries a tie holds both arrays (R366); one
whose controller has failed drives nothing. -/
def setCeil (s : State) (a : Nat) : State :=
  let r := reguGet s a
  let w := phasesW r
  if r.ctrlFail then s
  else match r.hosts with
    | some g =>
      let (c, s) := freeCeil s 100 1600
      reguMod (reguMod s a (fun r => { r with ceil := c })) g (fun r => { r with ceil := c })
    | none =>
      if w = 6 then reguMod s a (fun r => { r with ceil := 1850 })
      else
        let (c, s) := if 4 ≤ w then freeCeil s 1600 1825 else freeCeil s 100 1600
        reguMod s a (fun r => { r with ceil := c })

/-- A regulator may lend (R365): six working phases, none lent, none borrowed. -/
def mayLend (r : Regu) : Bool := ownPhases r == 6 && !r.ctrlFail && !r.lendM && !r.lendP && !r.borM && !r.borP

/-- Log entry LEND (Table 18.4). -/
def logLend (s : State) (b l phase lent : Nat) : State :=
  logPut s 3 (blkId s .pwrT (tileOf b)) 0 (leBytes 2 b ++ leBytes 2 l ++ leBytes 1 phase ++ leBytes 1 lent)

/-- Borrower `b` takes a phase of lender `l`: phase 5 of x − 1 (`fromLeft`), or phase 0 of x + 1. -/
def lend (s : State) (b l : Nat) (fromLeft : Bool) : State :=
  let s := reguMod s l (fun r => if fromLeft then { r with lendP := true } else { r with lendM := true })
  let s := reguMod s b (fun r => if fromLeft then { r with borM := true } else { r with borP := true })
  let s := setInt (bump s .pwrT (tileOf b) 0xc18 1) .pwrT (tileOf b) 2
  logLend (setCeil s l) b l (if fromLeft then 5 else 0) 1

/-- A borrower seeks phases until w reaches 5: x − 1 first, then x + 1 (R365). -/
def seekPhases (s : State) (b : Nat) : State :=
  let try_ (s : State) (l : Option Nat) (fromLeft : Bool) : State :=
    match l with
    | none => s
    | some l =>
      let r := reguGet s b
      if phasesW r < 5 && !r.ctrlFail && !(if fromLeft then r.borM else r.borP) && mayLend (reguGet s l) then lend s b l fromLeft else s
  try_ (try_ s (leftOf b) true) (rightOf b) false

/-- Exclusion is requested while w stays below 4 (R365): BLK_CTRL EXCLUDE and EXCL_REQ. -/
def requestExcl (s : State) (a : Nat) : State :=
  if phasesW (reguGet s a) < 4 && !(reguGet s a).ctrlFail && ownPhases (reguGet s a) != 6 then
    reguMod (pgSet s .arr a 8 (pgGet s .arr a 8 ||| 1)) a (fun r => { r with exclReq := true })
  else s

/-- After a failure: phases are sought when two or more own phases have failed, then the ceiling and the exclusion. A
borrower's controller drives what it borrows, so none borrows without one (R365). -/
def afterLoss (s : State) (a : Nat) : State :=
  if (reguGet s a).ctrlFail then s else
  let s := if ownPhases (reguGet s a) ≤ 4 then seekPhases s a else s
  requestExcl (setCeil s a) a

/-- A lender takes its loans back, and each borrower tries its other side (R365). -/
def takeBack (s : State) (l : Nat) : State :=
  let r := reguGet s l
  let back (s : State) (b : Option Nat) (plus : Bool) : State :=
    match b with
    | none => s
    | some b =>
      let s := reguMod s l (fun r => if plus then { r with lendP := false } else { r with lendM := false })
      let s := reguMod s b (fun r => if plus then { r with borM := false } else { r with borP := false })
      afterLoss (logLend s b l (if plus then 5 else 0) 0) b
  let s := if r.lendM then back s (leftOf l) false else s
  if r.lendP then back s (rightOf l) true else s

/-- Phases that a regulator borrowed return to their lenders. -/
def giveBack (s : State) (b : Nat) : State :=
  let r := reguGet s b
  let s := match r.borM, leftOf b with
    | true, some l => setCeil (logLend (reguMod s l (fun q => { q with lendP := false })) b l 5 0) l
    | _, _ => s
  let s := match r.borP, rightOf b with
    | true, some l => setCeil (logLend (reguMod s l (fun q => { q with lendM := false })) b l 0 0) l
    | _, _ => s
  reguMod s b (fun q => { q with borM := false, borP := false })

/-! ### Arrays that lose their supply (R366, R367) -/

/-- An array whose domain is powered. -/
def powered (st : ArrSt) : Bool := st == .idle || st == .running || st == .atWeir || st == .retention

/-- May host a tie (R366): six phases, no loan, no other tie, powered, as a slot's array or a spare that is idle or at
retention. -/
def mayHost (s : State) (h : Nat) : Bool :=
  let r := reguGet s h
  mayLend r && r.hosts.isNone && r.tiedTo.isNone && arrUsable s h
  && (match (arrGet s h).slot with
      | some _ => powered (arrGet s h).st
      | none => (arrGet s h).st == .idle || (arrGet s h).st == .retention)

/-- Array `a` goes dark: its domain is off and its contents are lost; its slot stays until it is moved. -/
def goDark (s : State) (a : Nat) (dark : Word) : State :=
  let s := arrMod s a (fun r => { arrShell r with st := .dark, slot := r.slot, darkStep := dark, excl := r.excl })
  let s := reguMod s a (fun r => { r with ramp := none, tiedTo := none, boost := 0 })
  setInt (bump s .pwrT (tileOf a) 0xc28 1) .arr a 1

/-- A step is held in progress: stopped where it was, to be continued. -/
def stepHeld (s : State) : Bool := s.seq.halt == some .clocks || s.seq.halt == some .kept

/-- A step that has been discarded before its commit, which RESUME repeats from its start. -/
def stepDropped (s : State) : Bool := s.seq.halt == some .discarded || s.seq.halt == some .linkDown

/-- Loss of power while a step is held, or after it was discarded (R367): a held step is discarded, with its other faults
logged (R461), and RESUME begins at action 7; a link that is down is still looked at first (R303). A device in SAFE stays
there with the status that stopped the step, and its halt is the one it leaves to (assumption 107). -/
def dropHeld (s : State) : State :=
  if !stepHeld s && !stepDropped s then s
  else
    let s := if stepHeld s then discardStep s else s
    let s := logFaults (if stepHeld s then ownCauses s else []) 0 s
    let s := noticeAll s (myIndex s) stPower false none
    let kind : HaltKind := if s.seq.halt = some .linkDown then .linkDown else .power7
    if s.seq.dev = .safe then
      let s := logTask s 8 .seqR 0 stPower [0, BitVec.ofNat 8 (devCode .safe)]
      { s with seq := { s.seq with halt := some kind } }
    else haltDev s kind stPower 0

/-- An array is dark at once (R367): the step in progress is discarded and the device halts. -/
def darkNow (s : State) (as : List Nat) : State :=
  let dark : Word := (stepS s).truncate 32
  let s := as.foldl (fun s a =>
    let s := goDark (reguMod s a (fun r => { r with hosts := none })) a dark
    let s := logPut s 4 (blkId s .pwrT (tileOf a)) stPower (leBytes 2 a ++ leBytes 2 0xffff ++ leBytes 8 (stepS s).toNat)
    setInt s .pwrT (tileOf a) 8) s
  if s.seq.dev = .running then
    (if s.seq.act = 0 then discardHalt s .power7 stPower true
     else noticeAll (haltDev s .power7 stPower 7) (myIndex s) stPower false none)
  else match s.seq.ramp with
    -- action 7 of a START or RESUME
    | some (.release c) => complete (noticeAll (haltDev s .power7 stPower 7) (myIndex s) stPower false none) c stPower 0
    | _ => dropHeld s

/-- A regulator controller fails (R366): the domain is tied to a row neighbour, or the array goes dark at once. -/
def ctrlFailEffect (a : Nat) (s : State) : State :=
  let r := reguGet s a
  if s.seq.dev = .off ∨ r.ctrlFail ∨ (arrGet s a).st = .dark then s
  else
    let s := giveBack (takeBack (reguMod s a (fun r => { r with ctrlFail := true })) a) a
    match r.hosts with
    | some g => darkNow s [min a g, max a g]
    | none =>
      if !powered (arrGet s a).st && r.ramp.isNone then
        -- an unpowered domain has nothing to carry: it is dark from now on
        let dark : Word := (stepS s).truncate 32
        logPut (goDark s a dark) 4 (blkId s .pwrT (tileOf a)) stPower
          (leBytes 2 a ++ leBytes 2 0xffff ++ leBytes 8 (stepS s).toNat)
      else
        let host := ((leftOf a).toList ++ (rightOf a).toList).find? (mayHost s)
        match host with
        | none => darkNow s [a]
        | some h =>
          let dark : Word := (stepS s).truncate 32
          let s := arrMod s a (fun q => { q with darkStep := dark })
          let (c, s) := freeCeil s 100 1600
          let s := reguMod s a (fun q => { q with tiedTo := some h, ceil := c })
          let s := reguMod s h (fun q => { q with hosts := some a, ceil := c })
          let s := setInt (bump s .pwrT (tileOf a) 0xc20 1) .pwrT (tileOf a) 4
          logPut s 4 (blkId s .pwrT (tileOf a)) 0 (leBytes 2 a ++ leBytes 2 h ++ leBytes 8 (stepS s).toNat)

/-- A regulator phase fails (R364, Table 13.4). -/
def phaseFailEffect (a ph : Nat) (s : State) : State :=
  if s.seq.dev = .off ∨ (reguGet s a).fail.getLsbD ph then s
  else
    let s := reguMod s a (fun r => { r with fail := r.fail ||| (1 <<< ph) })
    let s := setInt (bump s .pwrT (tileOf a) 0xc10 1) .pwrT (tileOf a) 1
    let s := takeBack s a
    let s := if ownPhases (reguGet s a) = 0 then ctrlFailEffect a s else afterLoss s a
    logPut s 2 (blkId s .pwrT (tileOf a)) 0
      (leBytes 2 a ++ leBytes 1 (reguGet s a).fail.toNat ++ leBytes 1 (phasesW (reguGet s a)))

/-! ### The array map at a boundary (R66, R67, R369) -/

/-- A tie opens at action 7: the failed domain goes dark and its host keeps its own supply (R366 step 4). -/
def openTies (s : State) : State :=
  (List.range 768).foldl (fun s a =>
    match (reguGet s a).tiedTo with
    | none => s
    | some h =>
      let s := goDark s a (arrGet s a).darkStep
      setCeil (reguMod s h (fun r => { r with hosts := none })) h) s

/-- Mesh distance of two arrays of a tile. -/
def meshDist (a b : Nat) : Nat :=
  (max (colOf a) (colOf b) - min (colOf a) (colOf b)) + (max (rowOf a) (rowOf b) - min (rowOf a) (rowOf b))

/-- Exclusion asked for and not in force (R66). -/
def exclPending (s : State) (a : Nat) : Bool := (pgGet s .arr a 8).getLsbD 0 && (arrGet s a).st != .excluded && (arrGet s a).st != .dark

/-- Spares of a tile: usable arrays that hold no slot; an array whose exclusion is pending is none. -/
def spares (s : State) (t : Nat) : List Nat :=
  (tileArrays s t).filter (fun a => (arrGet s a).slot.isNone && !exclPending s a)

/-- The spare for array `a` (R66). -/
def spareFor (s : State) (a : Nat) : Option Nat :=
  match spares s (tileOf a) with
  | [] => none
  | b :: r => some (r.foldl (fun m c => if meshDist a c < meshDist a m then c else m) b)

/-- Modes of the layers as the slot programs are assembled. -/
def wideNow (s : State) : Nat → Bool := runsWide s

/-- A domain requests its credit, with the limits that the registers hold now (R370, R376). -/
def requestCredit (s : State) (a : Nat) : State :=
  let lim (o : Nat) : Nat := (pgGet s .pwrT (tileOf a) o).toNat
  reguMod s a (fun r => { r with ramp := some 1, headroom := lim 0x108, nbrLimit := lim 0x10c, creditMax := lim 0x114 })

/-- Slot `k` moves from array `a` to spare `b`, which powers on when it is off. -/
def moveSlot (s : State) (a b k : Nat) : State :=
  let s := arrMod s a (fun r => { r with slot := none })
  let s := bump s .seqT (tileOf a) 0xc28 1
  if (arrGet s b).st = .off then
    requestCredit (arrMod s b (fun r => { r with slot := some k })) b
  else match s.seq.prog with
    | some p => slotWrite s p (wideNow s) (tileOf b) k b
    | none => s

/-- An array leaves use: its domain is off. -/
def exclude (s : State) (a : Nat) : State :=
  reguMod (arrMod s a (fun r => { arrShell r with st := .excluded, excl := true })) a (fun r => { r with ramp := none, boost := 0 })

/-- An excluded array whose EXCLUDE bit has been cleared is usable again, with its domain off. -/
def readmit (s : State) (a : Nat) : State :=
  if (arrGet s a).st = .excluded ∧ (pgGet s .arr a 8).getLsbD 0 = false then arrMod s a arrShell else s

/-- Slots of the dark arrays of a list move to spares; false when one finds no spare. -/
def mapDarkFrom (s : State) (ok : Bool) : List Nat → State × Bool
  | [] => (s, ok)
  | a :: r =>
    match (arrGet s a).st, (arrGet s a).slot with
    | .dark, some k =>
      match spareFor s a with
      | some b => mapDarkFrom (moveSlot s a b k) ok r
      | none => mapDarkFrom s false r
    | _, _ => mapDarkFrom s ok r
/-- Slots of dark arrays move to spares; false when one finds no spare (R66, R67). -/
def mapDark (s : State) : State × Bool := mapDarkFrom s true (List.range 768)

/-- Pending exclusions, in increasing physical index; one that finds no spare stays pending (R67). -/
def mapExcl (s : State) : State :=
  (List.range 768).foldl (fun s a =>
    if exclPending s a then
      match (arrGet s a).slot with
      | none => exclude s a
      | some k => match spareFor s a with
        | some b => exclude (moveSlot s a b k) a
        | none => s
    else s) ((List.range 768).foldl readmit s)

/-- Whether the dark arrays of every tile find spares (R67: else the map is left unchanged). -/
def darkFits (s : State) : Bool := (mapDark s).2

/-- Domains that hold a slot and are off power on (R369). -/
def powerSlots (s : State) : State :=
  (List.range 768).foldl (fun s a =>
    if (arrGet s a).slot.isSome && (arrGet s a).st == .off && (reguGet s a).ramp.isNone then requestCredit s a else s) s

/-- Action 7 (Table 1.10): ties open, dark arrays and exclusions are mapped, domains begin their lehr ramps. False
when a tile has no spare for a dark array. -/
def action7 (s : State) : State × Bool :=
  let s := openTies s
  if darkFits s then (powerSlots (mapExcl (mapDark s).1), true) else (s, false)

/-- Whether a domain is in its lehr ramp. -/
def ramping (s : State) : Bool := s.pwr.reg.any (fun e => e.2.ramp.isSome)

/-! ### The lehr ramp (R369 to R372) -/

/-- Credits held on a tile: domains in pre-charge or raise. -/
def creditsHeld (s : State) (t : Nat) : Nat :=
  ((List.range 192).map (fun k => t * 192 + k)).countP (fun a => (reguGet s a).ramp == some 2 || (reguGet s a).ramp == some 3)

/-- Working phases of a vertical stage. -/
def stagePhases (g : Stage) : Nat := (List.range 16).countP (fun i => !g.fail.getLsbD i)
/-- Present rating of a vertical stage in A (R358, R359). -/
def railRating (g : Stage) : Nat := 35 * stagePhases g

/-- Whether neighbour `b` of domain `a` blocks its credit: its current at its eddy level exceeds the limit (R370). -/
def nbrBlocks (s : State) (a b : Nat) : Bool :=
  (arrGet s b).st == .atWeir && decide ((reguGet s a).nbrLimit * 4096 < (38400 + 3000 * (arrGet s b).eddy) * 100)

/-- Whether the rail has room for the inrush of domain `a` (R370): 0.5 A beside the current that PWR_RAIL_I shows. -/
def railRoom (s : State) (a : Nat) : Bool :=
  decide ((pgGet s .pwrT (tileOf a) 0x104).toNat + 5 + 10 * (reguGet s a).headroom ≤ 10 * railRating (stageGet s (tileOf a)))

/-- Whether domain `a` waits for a credit and may have it (R370). -/
def creditOk (s : State) (a : Nat) : Bool :=
  (reguGet s a).ramp == some 1 && railRoom s a && !(adjacent a).any (nbrBlocks s a)
  && decide (creditsHeld s (tileOf a) < (reguGet s a).creditMax)

/-- CREDIT_GRANT: the tile grants a credit (R370), in increasing physical index among the domains that may have one. -/
def creditGrantEffect (a waitNs : Nat) (s : State) : State :=
  let t := tileOf a
  if s.seq.dev = .safe ∨ s.seq.dev = .off then s
  else if creditOk s a && !((List.range (a - t * 192)).any (fun k => creditOk s (t * 192 + k))) then
    bump (reguMod s a (fun r => { r with ramp := some 2 })) .pwrT t 0xc38 waitNs
  else s

/-- NBR_CAP (R371): the blocking neighbours of a waiting domain drop to the highest level within PWR_NBR_LIMIT. -/
def nbrCapEffect (a : Nat) (s : State) : State :=
  if (reguGet s a).ramp = some 1 ∧ s.seq.dev ≠ .safe then
    (adjacent a).foldl (fun s b =>
      if nbrBlocks s a b then
        let l := ((reguGet s a).nbrLimit * 4096 - 3840000) / 300000
        bump (arrMod s b (fun r => { r with eddy := l })) .pwrT (tileOf b) 0xc40 1
      else s) s
  else s

/-- Every store of an array is zero and its domain is idle, with its slot and its dark step kept (R59, stage 4). -/
def clearArr (r : Arr) : Arr := { arrShell r with st := r.st, slot := r.slot, excl := r.excl }

/-- A domain's ramp is complete. -/
def rampDone (s : State) (a : Nat) : State :=
  let s := reguMod (arrMod s a (fun r => { r with st := .idle })) a (fun r => { r with ramp := none })
  bump s .pwrT (tileOf a) 0xc30 1

/-- LEHR_STAGE_DONE (Table 13.6): the stage in progress ends. -/
def lehrStageEffect (a : Nat) (s : State) : State :=
  if s.seq.dev = .safe ∨ s.seq.dev = .off then s
  else match (reguGet s a).ramp with
    | some 2 => reguMod s a (fun r => { r with ramp := some 3 })
    | some 3 => reguMod s a (fun r => { r with ramp := some 4 })
    | some 4 =>
      let s := arrMod s a clearArr
      if (arrGet s a).slot.isSome && s.seq.prog.isSome then reguMod s a (fun r => { r with ramp := some 5 }) else rampDone s a
    | some 5 =>
      match s.seq.prog, (arrGet s a).slot with
      | some p, some k => rampDone (slotWrite s p (wideNow s) (tileOf a) k a) a
      | _, _ => rampDone s a
    | _ => s

/-! ### Vertical stages (R359, R360) -/

/-- A command of long duration that a fault ends completes with its status. -/
def failRamp (s : State) (st : Half) : State :=
  match s.seq.ramp with
  | some (.wakeTrain c) | some (.wakeRamp c) | some (.release c) => complete { s with seq := { s.seq with ramp := none } } c st 0
  | _ => { s with seq := { s.seq with ramp := none } }

/-- A tile loses its rail: its arrays and stacks are off, and what its stacks and its slice held is lost (R354, R360). -/
def loseTile (s : State) (t : Nat) : State :=
  let s := (List.range 192).foldl (fun s k =>
    let a := t * 192 + k
    let s := if (arrGet s a).st = .dark ∨ (arrGet s a).st = .excluded then s else arrMod s a (fun r => { arrShell r with slot := r.slot })
    reguMod s a (fun r => { r with ramp := none, boost := 0 })) s
  let s := (List.range 3).foldl (fun s k => hbmMod s (3 * t + k) (fun b => { b with st := .untrained })) s
  let s := { s with msc := aset (fun _ => {}) s.msc t { sliceGet s t with sets := [] } }
  s.mem.tensors.foldl (fun s e => match e.2 with
    | none => s
    | some x => (x.pages.mapIdx (fun n p => (n, p))).foldl (fun s np =>
        if np.2.stack / 3 = t then
          let k := tkey e.1 (np.1 * pageSize)
          { s with mem := { s.mem with bytes := aclr s.mem.bytes k pageSize, work := aclr s.mem.work k pageSize } }
        else s) s) s

/-- A stage fault (R360): the module halts for good. -/
def stageFaultEffect (t : Nat) (s : State) : State :=
  if s.seq.dev = .off ∨ (stageGet s t).fault then s
  else
    let s := stageMod s t (fun g => { g with fault := true })
    let cut := s.seq.dev = .running || stepHeld s
    let s := if cut then discardStep s else s
    let s := logFaults (if cut then ownCauses s else []) 0 s
    let s := noticeAll s (myIndex s) stPower false none
    let s := loseTile s t
    let s := haltDev (failRamp s stPower) .dead stPower 0
    setInt s .pwrM 0 8

/-- VS_PHASE_FAIL (R359). -/
def vsPhaseFailEffect (t ph : Nat) (s : State) : State :=
  if s.seq.dev = .off ∨ (stageGet s t).fail.getLsbD ph then s
  else
    let (c, s) := freeCeil s 100 1850
    let s := stageMod s t (fun g => { g with fail := g.fail ||| (1 <<< ph), rail := c })
    let s := setInt (bump s .pwrT t 0xc48 1) .pwrT t 0x10
    let s := logPut s 5 (blkId s .pwrT t) 0 (leBytes 1 t ++ leBytes 1 ph)
    if stagePhases (stageGet s t) < 8 then stageFaultEffect t s else s

/-! ### The input and loss of power (R355, R357, R374) -/

/-- PWR_CNT_HIGH_US and INPUT_HIGH (Table 13.2): 840 to 900 V for any time, or above for at most 10 µs. -/
def inputHighEffect (dv us : Nat) (s : State) : State :=
  if s.seq.dev = .off ∨ dv < 8400 ∨ (9000 < dv ∧ 10 < us) then s
  else
    let s := bump s .pwrM 0 0xc10 us
    if s.pwr.inHigh then s else setInt { s with pwr := { s.pwr with inHigh := true, inLow := false } } .pwrM 0 2

/-- PWR_CNT_LOW_US and INPUT_LOW: 720 to 760 V. -/
def inputLowEffect (dv us : Nat) (s : State) : State :=
  if s.seq.dev = .off ∨ dv < 7200 ∨ 7600 ≤ dv then s
  else
    let s := bump s .pwrM 0 0xc08 us
    if s.pwr.inLow then s else setInt { s with pwr := { s.pwr with inLow := true, inHigh := false } } .pwrM 0 1

/-- RIDE_THROUGH: BLK_STAT PEU shows it until the input is measured at 720 V or more. -/
def rideEffect (s : State) : State := 
  if s.seq.dev = .off then s else setInt (bump { s with pwr := { s.pwr with peu := .rideThrough } } .pwrM 0 0xc00 1) .pwrM 0 4

/-- The power-down record (R357, Table 18.4). -/
def powerDownRecord (s : State) (cause : Nat) : State :=
  logPut s 1 (blkId s .pwrM 0) 0 (leBytes 1 cause ++ leBytes 1 0 ++ leBytes 2 (min 0xffff s.log.kept.length))

/-- What the module flash keeps of the management processor and the security engine (Table 16.4). -/
def flashOf (m : Mgmt) : Mgmt :=
  { started := false, fw := m.fw, slot := m.slot, pendSlot := m.pendSlot, minVer := m.minVer, minBad := m.minBad,
    opkey := m.opkey, counter := m.counter, stored := m.stored, meas := [[], [], [], [], [], [], [], []] }

/-- The device without power (R374): only the log and the flash remain. What it has sent, the free values drawn and the
commands that wait are the model's own. -/
def powerOff (s : State) (cause : Nat) (pwr : Pwr) : State :=
  { fit := s.fit, seq := { dev := .off }, log := { s.log with kept := [], todo := [] }, mp := flashOf s.mp, hst := {},
    pwr := { peu := .off, enable := pwr.enable, latched := pwr.latched, under := pwr.under, lastOff := cause },
    wire := s.wire, drawn := s.drawn, pending := s.pending }

/-- An abrupt power-down with the causes of PWR_LAST_OFF. -/
def powerLoss (s : State) (cause : Nat) (pwr : Pwr) : State :=
  if s.pwr.peu = .off then s else powerOff (powerDownRecord s cause) cause pwr

/-- An orderly power-down (Table 13.9): entries kept on chip are written, space permitting, then the record. -/
def orderlyEffect (s : State) : State :=
  let pwr : Pwr := { s.pwr with enable := false, latched := false, under := false }
  if s.pwr.peu = .off then { s with pwr := pwr }
  else
    let s := (List.range s.log.kept.length).foldl (fun s _ => delayedLogEffect s) s
    powerOff (powerDownRecord s 1) 1 pwr

/-! ### Meanings -/

/-- ORDERLY_POWER_DOWN (R374). -/
def execOrderlyPowerDown (s : State) : Host.Outcome State Fault Refusal := .next (orderlyEffect s)
/-- OVERVOLTAGE_TRIP (R355). -/
def execOvervoltageTrip (s : State) : Host.Outcome State Fault Refusal := .next (powerLoss s 3 { s.pwr with latched := true })
/-- UNDERVOLTAGE (R355). -/
def execUndervoltage (s : State) : Host.Outcome State Fault Refusal := .next (powerLoss s 2 { s.pwr with under := true })
/-- HUB_STAGE_FAULT (R357). -/
def execHubStageFault (s : State) : Host.Outcome State Fault Refusal := .next (powerLoss s 5 s.pwr)
/-- THERMAL_TRIP (R394). -/
def execThermalTrip (s : State) : Host.Outcome State Fault Refusal := .next (powerLoss s 4 { s.pwr with latched := true })
/-- RIDE_THROUGH (R355). -/
def execRideThrough (s : State) : Host.Outcome State Fault Refusal := .next (rideEffect s)
/-- INPUT_HIGH (R355). -/
def execInputHigh (dv us : Nat) (s : State) : Host.Outcome State Fault Refusal := .next (inputHighEffect dv us s)
/-- INPUT_LOW (R355). -/
def execInputLow (dv us : Nat) (s : State) : Host.Outcome State Fault Refusal := .next (inputLowEffect dv us s)
/-- CREDIT_GRANT (R370). -/
def execCreditGrant (a : Fin 768) (waitNs : Nat) (s : State) : Host.Outcome State Fault Refusal := .next (creditGrantEffect a waitNs s)
/-- NBR_CAP (R371). -/
def execNbrCap (a : Fin 768) (s : State) : Host.Outcome State Fault Refusal := .next (nbrCapEffect a s)

end Sys2Proof.Machine
end

