-- ==== Sys2Proof/Machine/Thermal.lean ====
section
/-! DEFINITION. Power capping and thermal control (R377 to R399): the cap in force, F_cap, ceilings, boost, throttle
reasons, energy, the coolant readings and SAFE. -/

namespace Sys2Proof.Machine

/-! ### The cap in force (R377, R378) -/

/-- A register of the THM_ page as a number. -/
def thmNat (s : State) (o : Nat) : Nat := (pgGet s .thm 0 o).toNat
/-- Sets a register of the THM_ page. -/
def thmSet (s : State) (o v : Nat) : State := pgSet s .thm 0 o (BitVec.ofNat 32 v)

/-- The lowest of the four terms of Table 14.1. -/
def capForce (s : State) : Nat := min (min 4000 s.thm.capDrv) (min (thmNat s 0x108) (thmNat s 0x10c))
/-- THM_CAP_NOW follows the terms. -/
def capUpdate (s : State) : State := thmSet s 0x104 (capForce s)

/-- BIND (Table 14.9): the first of the lowest terms. -/
def capBind (s : State) : Nat :=
  if capForce s = 4000 then 0 else if capForce s = s.thm.capDrv then 1 else if capForce s = thmNat s 0x108 then 2 else 3

/-- Mode limit of R382 in MHz. -/
def modeLimit (s : State) : Nat := if s.thm.fixedNow then 1600 else 1850

/-- F_cap takes a value; at the mode limit nothing holds it down any longer. -/
def setFCap (s : State) (v : Nat) : State :=
  let low := decide (v < modeLimit s)
  let s := thmSet s 0x13c v
  { s with thm := { s.thm with capLow := s.thm.capLow && low, hubLow := s.thm.hubLow && low } }

/-- Action 6 (Table 1.10): the driver cap and the mode take effect (R378, R382). -/
def action6 (s : State) : State :=
  let s := { s with thm := { s.thm with capDrv := thmNat s 0x100, fixedNow := (pgGet s .thm 0 8).getLsbD 0 } }
  capUpdate (setFCap s (min (thmNat s 0x13c) (modeLimit s)))

/-! ### Clocks (R381, R383) -/

/-- Every clock of the module stands still: in SAFE, and after a stage fault (R360, R392). -/
def clocksOff (s : State) : Bool := s.seq.dev == .safe || s.pwr.stage.any (fun e => e.2.fault)

/-- The clock of an array in MHz that no ceiling of R381 but the mode limit holds down. -/
def clkTop (s : State) (a : Nat) : Nat := min (if (arrGet s a).st == .running then 1600 + (reguGet s a).boost else 1600) (modeLimit s)

/-- The lowest of the ceilings of R381. -/
def clkLimit (s : State) (a : Nat) : Nat :=
  let g := stageGet s (tileOf a)
  min (clkTop s a) (min (thmNat s 0x13c) (min g.junc (min g.rail (reguGet s a).ceil)))

/-- The clock of an array in MHz: 0 while its clock is stopped. In a lehr ramp it starts with stage 4. -/
def arrClk (s : State) (a : Nat) : Nat :=
  let st := (arrGet s a).st
  if clocksOff s then 0
  else match (reguGet s a).ramp with
    | some k => if 4 ≤ k then clkLimit s a else 0
    | none => if st == .idle || st == .running || st == .atWeir then clkLimit s a else 0

/-- Table 13.3: clock in MHz and domain voltage in mV. -/
def voltTable : List (Nat × Nat) := [(0, 400), (100, 450), (800, 520), (1200, 580), (1600, 640), (1850, 780)]

/-- The curve of an array: its own of the identity record, else that of Table 13.3 (R361). -/
def voltCurve (s : State) (a : Nat) : List (Nat × Nat) :=
  match aget (fun _ => []) s.fit.vcurve a with
  | [] => voltTable
  | cs => voltTable.mapIdx (fun i p => (p.1, 400 + 5 * cs.getD i 0))

/-- Linear interpolation, rounded up to the next 5 mV. -/
def voltAt : List (Nat × Nat) → Nat → Nat
  | (f0, v0) :: (f1, v1) :: r, f =>
    if f ≤ f0 then v0
    else if f ≤ f1 then
      (let num := v0 * (f1 - f0) + (v1 - v0) * (f - f0)
       let den := 5 * (f1 - f0)
       5 * ((num + den - 1) / den))
    else voltAt ((f1, v1) :: r) f
  | [(_, v0)], _ => v0
  | [], _ => 0

/-- The set point of a domain of its own; 0 when it is off (R361, R392, Table 13.6). -/
def ownVolt (s : State) (a : Nat) : Nat :=
  match (reguGet s a).ramp with
  | some 1 => 0
  | some 2 => 400
  | some _ => voltAt (voltCurve s a) (clkLimit s a)
  | none =>
    let st := (arrGet s a).st
    if st == .retention then 400
    else if st == .idle || st == .running || st == .atWeir then voltAt (voltCurve s a) (arrClk s a) else 0

/-- ARR_VOLT: two domains that a tie joins have one voltage, which serves both (R366). -/
def arrVolt (s : State) (a : Nat) : Nat :=
  match (reguGet s a).tiedTo, (reguGet s a).hosts with
  | some b, _ | none, some b => max (ownVolt s a) (ownVolt s b)
  | none, none => ownVolt s a

/-! ### Throttle reasons (R387) -/

/-- Limit `l` holds array `a`: its clock stands at it, below what the array would run at (assumption 108). -/
def heldBy (s : State) (a l : Nat) : Bool := arrClk s a != 0 && arrClk s a == l && decide (l < clkTop s a)
/-- Arrays whose domain may run. -/
def clocked (s : State) (p : Nat → Bool) : Bool := s.arr.any (fun e => p e.1)

/-- The reasons in force (Table 14.3): a limit counts when it holds an array below the mode limit, or memory below its full
rate. F_cap stands for the term of the cap that is lowest, for the hub's junctions, or for both (assumption 108). -/
def reasons (s : State) : Nat :=
  let fcap := clocked s (fun a => heldBy s a (thmNat s 0x13c))
  let mem := decide (thmNat s 0x14c < 16)
  let term (v : Nat) : Bool := ((s.thm.capLow && fcap) || mem) && v == capForce s
  let junc := (s.thm.hubLow && fcap) || clocked s (fun a => heldBy s a (stageGet s (tileOf a)).junc)
  let rail := clocked s (fun a => heldBy s a (stageGet s (tileOf a)).rail)
  let regu := clocked s (fun a => heldBy s a (reguGet s a).ceil)
  one (term s.thm.capDrv) + 2 * one (term 4000) + 4 * one (term (thmNat s 0x108)) + 8 * one (term (thmNat s 0x10c))
    + 16 * one junc + 32 * one rail + 64 * one regu + 128 * one mem

/-- One microsecond of the counters of Table 14.3; the THERMAL reason sets INT_RAW bit 2 once a step. -/
def countReasons (s : State) : State :=
  let r := reasons s
  let s := thmSet s 0x150 r
  let s := if r = 0 then s else bump s .thm 0 0xc00 1
  let s := (List.range 8).foldl (fun s b => if r.testBit b then bump s .thm 0 (0xc08 + 8 * b) 1 else s) s
  if r.testBit 2 then setIntOnce s .thm 0 2 else s

/-! ### The loop (R379, R380) -/

/-- A free value from 0 to `hi`. -/
def freeUpTo (s : State) (hi : Nat) : Nat × State :=
  let (n, s) := draw s
  ((Config.freeWord n).toNat % (hi + 1), s)

/-- The measured power of links, memory and compute: free, with a sum of at most the input power (R380, assumption 26). -/
def groupPower (s : State) (pin : Nat) : State :=
  let (l, s) := freeUpTo s pin
  let (m, s) := freeUpTo s (pin - l)
  let (c, s) := freeUpTo s (pin - l - m)
  thmSet (thmSet (thmSet s 0x140 (min l 0xfff)) 0x144 (min m 0xfff)) 0x148 (min c 0xfff)

/-- A measured input power of 100 µs (R377): PWR_PIN, its parts, and the extremes of Table 14.14. -/
def notePin (s : State) (pin : Nat) : State :=
  let s := groupPower s pin
  let s := pgSet s .pwrM 0 0x10c (BitVec.ofNat 32 (min pin 0xffff))
  let s := ctrSet s .tel 0 0xc20 (BitVec.ofNat 64 (max (ctrGet s .tel 0 0xc20).toNat pin))
  ctrSet s .tel 0 0xc28 (BitVec.ofNat 64 (min (ctrGet s .tel 0 0xc28).toNat pin))

/-- Input flags of Table 13.11 for a voltage in 0.1 V, with their interrupts. -/
def inputFlags (s : State) (vin : Nat) : State :=
  let low := decide (7200 ≤ vin ∧ vin < 7600)
  let high := decide (8400 ≤ vin)
  let s := if low && !s.pwr.inLow then setInt s .pwrM 0 1 else s
  let s := if high && !s.pwr.inHigh then setInt s .pwrM 0 2 else s
  { s with pwr := { s.pwr with inLow := low, inHigh := high } }

/-- Eddy energy of one microsecond (R247): each array at level L and clock f adds L · f · 15 / 512000 µJ. -/
def eddyTick (s : State) : State :=
  let tot := (s.arr.map (fun e => if e.2.st = .atWeir then e.2.eddy * arrClk s e.1 * 15 else 0)).sum + s.thm.eddyRem
  let s := s.arr.foldl (fun s e => if e.2.st = .atWeir ∧ e.2.eddy ≠ 0 then bump s .arr e.1 0xc20 (arrClk s e.1) else s) s
  bump { s with thm := { s.thm with eddyRem := tot % 512000 } } .seqR 0 0xc38 (tot / 512000)

/-- Energy of one microsecond at the input (R388), in millijoules. -/
def energyTick (s : State) (pin : Nat) : State :=
  let e := s.thm.energyRem + pin
  let s := bump { s with thm := { s.thm with energyRem := e % 1000 } } .tel 0 0xc00 (e / 1000)
  -- TEL_ENERGY_TOTAL is a pair of registers
  let t := (pgGet s .tel 0 0x100).toNat + (pgGet s .tel 0 0x104).toNat * 2 ^ 32 + e / 1000
  pgSet (pgSet s .tel 0 0x100 (BitVec.ofNat 32 t)) .tel 0 0x104 (BitVec.ofNat 32 (t / 2 ^ 32))

/-- The readings of the power entry unit's meter: the voltage of the input in 0.1 V; the current and the bus voltage are
free within what the rules allow (R355, R356, R386, assumption 24). The end of a ride-through shows in PEU. -/
def inputMeter (s : State) (vin : Nat) : State :=
  let low := decide (7200 ≤ vin ∧ vin < 7600)
  let (i, s) := freeUpTo s (if low then 5500 else 0xffff)
  let ride := s.pwr.peu = .rideThrough ∨ vin < 7200
  let (b, s) := freeUpTo s (if ride then 2480 else 960)
  let s := pgSet s .pwrM 0 0x100 (BitVec.ofNat 32 (min vin 0xffff))
  let s := pgSet (pgSet s .pwrM 0 0x104 (BitVec.ofNat 32 i)) .pwrM 0 0x108 (BitVec.ofNat 32 ((if ride then 46000 else 47520) + b))
  let s := if s.pwr.peu = .rideThrough ∧ 7200 ≤ vin then { s with pwr := { s.pwr with peu := .running } } else s
  inputFlags s vin

/-- One microsecond of a tile's rail: its current, free below the rating of its stage (R358, R359), the events of the boost
banks and shunts of its clocked arrays, free in number (R363, assumption 24), and the time that regulator limits hold clocks. -/
def railTick (s : State) (t : Nat) : State :=
  let g := stageGet s t
  let as := (tileArrays s t).filter (fun a => arrClk s a != 0)
  let (i, s) := freeUpTo s (if g.fault then 0 else if stagePhases g = 16 then 7000 else 10 * railRating g - 1)
  let (b, s) := freeUpTo s as.length
  let (c, s) := freeUpTo s (if as.isEmpty then 0 else 0xffff)
  let held := as.countP (fun a => heldBy s a (reguGet s a).ceil)
  let s := pgSet s .pwrT t 0x104 (BitVec.ofNat 32 i)
  bump (bump (bump s .pwrT t 0xc00 b) .pwrT t 0xc08 c) .pwrT t 0xc50 (1000 * held)

/-- The comparison of the loop (R379): while the average exceeds the cap, F_cap falls. -/
def capCompare (s : State) (pin10 : Nat) : State :=
  if capForce s < pin10 then setFCap { s with thm := { s.thm with capLow := true } } (max 100 (thmNat s 0x13c - 25)) else s

/-- CAP_LOOP_TICK: one microsecond of the loop, with the 10 µs average of the input power in W and the input voltage
in 0.1 V. -/
def capLoopEffect (pin10 vin : Nat) (s : State) : State :=
  if s.seq.dev = .off then s
  else
    let s := inputMeter s vin
    let s := capUpdate (thmSet s 0x10c (if 7200 ≤ vin ∧ vin < 7600 then vin * 55 / 100 else 0xffff))
    let s := countReasons (capCompare s pin10)
    let s := if s.arr.any (fun e => decide (1600 < arrClk s e.1)) then bump s .thm 0 0xc48 1 else s
    let s := if s.seq.dev = .safe then bump s .thm 0 0xc60 1 else s
    (List.range 4).foldl railTick (bump (energyTick (eddyTick s) pin10) .tel 0 0xc08 1000)

/-- F_CAP_RAISE: the 100 µs average has stayed below 98 % of the cap for 1 ms; memory is restored first (R380). -/
def fCapRaiseEffect (pin100 : Nat) (s : State) : State :=
  if s.seq.dev = .off then s
  else
    let s := notePin s pin100
    if pin100 * 100 < 98 * capForce s ∧ thmNat s 0x14c = 16 ∧ s.thm.hubHot = false then
      setFCap s (min (modeLimit s) (thmNat s 0x13c + 25))
    else s

/-- MEMORY_LIMIT_TICK: 100 µs of the second stage of Table 14.2. -/
def memLimitEffect (pin100 : Nat) (s : State) : State :=
  if s.seq.dev = .off then s
  else
    let s := notePin s pin100
    if capForce s < pin100 ∧ thmNat s 0x13c = 100 then thmSet s 0x14c (max 4 (thmNat s 0x14c - 1))
    else if pin100 * 100 < 98 * capForce s then thmSet s 0x14c (min 16 (thmNat s 0x14c + 1))
    else s

/-- The hottest junction of the step (Table 14.14). -/
def noteTj (s : State) (tj : Nat) : State := ctrSet s .tel 0 0xc30 (BitVec.ofNat 64 (max (ctrGet s .tel 0 0xc30).toNat tj))

/-- JUNCTION_CEILING: the hottest sensor of a tile, or of the hub (4), in 0.1 °C (R381). -/
def junctionEffect (t tj : Nat) (s : State) : State :=
  if s.seq.dev = .off then s
  else
    let s := noteTj s tj
    if 950 ≤ tj then
      let s := setIntOnce s .thm 0 5
      if t < 4 then stageMod s t (fun g => { g with junc := max 100 (g.junc - 25) })
      else setFCap { s with thm := { s.thm with hubHot := true, hubLow := true } } (max 100 (thmNat s 0x13c - 25))
    else if tj < 930 then
      (if t < 4 then stageMod s t (fun g => { g with junc := min 1850 (g.junc + 25) })
       else
         let s := { s with thm := { s.thm with hubHot := false } }
         -- what the cap holds down, the cap alone lets rise
         if s.thm.hubLow && !s.thm.capLow then setFCap s (min (modeLimit s) (thmNat s 0x13c + 25)) else s)
    else s

/-- BOOST_TICK of an array (R383), with the hottest junction of its tile. -/
def boostEffect (a pin100 tj : Nat) (s : State) : State :=
  if s.seq.dev = .off then s
  else
    let s := notePin s pin100
    if !s.thm.fixedNow && decide (pin100 + 300 ≤ capForce s) && decide (tj ≤ 850) && phasesW (reguGet s a) == 6
        && (reguGet s a).tiedTo.isNone && (reguGet s a).hosts.isNone && arrRuns s a then
      reguMod s a (fun r => { r with boost := min 250 (r.boost + 25) })
    else reguMod s a (fun r => { r with boost := r.boost - 25 })

/-! ### Coolant (R389, R390) -/

/-- A sensor enters or leaves fault (Table 14.4); entering sets INT_RAW bit 3. -/
def setFault (s : State) (k : Sensor) (bad : Bool) : State :=
  let was := match k with
    | .inlet => s.thm.faultIn
    | .outlet => s.thm.faultOut
    | .flow => s.thm.faultFlow
  let s := match k with
    | .inlet => { s with thm := { s.thm with faultIn := bad } }
    | .outlet => { s with thm := { s.thm with faultOut := bad } }
    | .flow => { s with thm := { s.thm with faultFlow := bad } }
  if bad && !was then setInt s .thm 0 8 else s

/-- A rational limited to a range. -/
def clampRat (lo hi x : Rat) : Rat := if x < lo then lo else if hi < x then hi else x

/-- The thermal cap of R390, with the limit of Table 14.4 while the outlet or the flow sensor is in fault. -/
def thermalCap (s : State) : Nat :=
  let d : Rat := ((pgGet s .thm 0 0x118).toNat : Rat) - (s.thm.inlet : Rat) / 10
  let c := if d ≤ 0 then 0 else min 65535 (d / s.thm.theta).floor.toNat
  if s.thm.faultOut || s.thm.faultFlow then min c 2000 else c

/-- THM_CAP_THERMAL and THM_CAP_NOW follow the estimate. -/
def thermalUpdate (s : State) : State :=
  let s := { s with thm := { s.thm with inlet := if s.thm.faultIn then 450 else s.thm.inlet } }
  capUpdate (thmSet (thmSet s 0x110 (s.thm.theta * 1000000).floor.toNat) 0x108 (thermalCap s))

/-- A 16-bit two's complement reading. -/
def reading (x : Int) : Nat := (BitVec.ofInt 16 x).toNat

/-- SIDEBAND_READ: one millisecond (R389, R390). -/
def sidebandEffect (r : Sideband) (s : State) : State :=
  if s.seq.dev = .off then s
  else
    let badT (x : Int) : Bool := decide (x < -100 ∨ 1000 < x)
    let s := setFault (setFault (setFault s .inlet (badT r.inlet)) .outlet (badT r.outlet)) .flow (decide (2000 < r.flow))
    let s := thmSet (thmSet (thmSet s 0x12c (reading r.inlet)) 0x130 (reading r.outlet)) 0x134 (min r.flow 0xffff)
    let s := thmSet s 0x138 (min r.tj 0xffff + r.tjSrc.toNat * 2 ^ 16)
    let s := noteTj (notePin s r.pin) r.tj
    let s := if decide (r.inlet < 170) || decide (450 < r.inlet) then setInt s .thm 0 0x10 else s
    let s := { s with thm := { s.thm with inlet := r.inlet } }
    let s := if 500 ≤ r.pin && !s.thm.faultIn && !s.thm.faultFlow then
        let q : Rat := (((r.tj : Int) - r.inlet : Int) : Rat) / 10 / (r.pin : Rat)
        { s with thm := { s.thm with moved := true, theta := clampRat (2 / 1000) (200 / 1000) (s.thm.theta + (q - s.thm.theta) / 64) } }
      else s
    thermalUpdate s

/-- SENSOR_FAULT: a reading has been missing for 10 ms. -/
def sensorFaultEffect (k : Sensor) (s : State) : State := if s.seq.dev = .off then s else thermalUpdate (setFault s k true)

/-! ### SAFE (R391 to R393) -/

/-- The SAFE entry of the log (Table 18.4): entry or exit, the cause, and the coolant. -/
def logSafe (s : State) (entry : Bool) (cause : Nat) : State :=
  logTask s 9 .thm 0 stThermalSafe (leBytes 1 (one entry) ++ leBytes 1 cause ++ leBytes 2 (thmNat s 0x12c) ++ leBytes 2 (thmNat s 0x130)
    ++ leBytes 2 (thmNat s 0x134))

/-- Entry to SAFE from any state from READY to HALTED; in STANDBY only INT_RAW bit 6 (R391, R392). The status of a
device-fatal halt governs (R461). -/
def safeEnter (cause : Nat) (s : State) : State :=
  match s.seq.dev with
  | .off | .safe => s
  | .standby => setInt s .thm 0 0x40
  | d =>
    let s := { s with seq := { s.seq with
        safeFrom := d, haltStatus := if d = DevSt.halted ∧ s.seq.halt = some HaltKind.dead then s.seq.haltStatus else stThermalSafe,
        haltAction := s.seq.act, halt := if d = DevSt.running then some .clocks else s.seq.halt },
                      thm := { s.thm with cause := cause } }
    let s := { s with arr := amapMap {} (fun r => if powered r.st then { r with st := .retention } else r) s.arr }
    let s := { s with pwr := { s.pwr with reg := amapMap {} (fun r => { r with boost := 0 }) s.pwr.reg } }
    let s := failPause (setDev s .safe)
    let s := logSafe (setInt (bump s .thm 0 0xc58 1) .thm 0 1) true cause
    if d = DevSt.running then noticeAll s (myIndex s) stThermalSafe true none else s

/-- The state to which an array at retention returns. -/
def thawSt (held : Bool) (r : Arr) : ArrSt :=
  if r.st != .retention then r.st
  else if r.weir.isSome then .atWeir
  else if r.slot.isSome && !r.rel && held then .running
  else .idle

/-- Every domain returns to the voltage of its state. -/
def thawArrs (s : State) : State := { s with arr := amapMap {} (fun r => { r with st := thawSt (stepHeld s) r }) s.arr }

/-- SAFE_EXIT (R393): the conditions have held for THM_SAFE_HOLD seconds. -/
def safeExitEffect (s : State) : State :=
  if s.seq.dev = .safe ∧ s.thm.faultFlow = false ∧ s.thm.faultOut = false ∧ 200 ≤ thmNat s 0x134 ∧ thmNat s 0x138 % 2 ^ 16 ≤ 700 then
    let s := logSafe s false s.thm.cause
    let s := { s with thm := { s.thm with cause := 0 } }
    let s := if s.seq.safeFrom = .running then setInt (setDev s .halted) .seqR 0 2
      -- a step held with its clocks stopped keeps its arrays at retention until RESUME
      else setDev (if s.seq.safeFrom = .halted ∧ s.seq.halt = some .clocks then s else thawArrs s) s.seq.safeFrom
    setInt s .thm 0 2
  else s

/-! ### Meanings -/

/-- CAP_LOOP_TICK (R379). -/
def execCapLoopTick (pin10 vin : Nat) (s : State) : Host.Outcome State Fault Refusal := .next (capLoopEffect pin10 vin s)
/-- F_CAP_RAISE (R379). -/
def execFCapRaise (pin100 : Nat) (s : State) : Host.Outcome State Fault Refusal := .next (fCapRaiseEffect pin100 s)
/-- MEMORY_LIMIT_TICK (R380). -/
def execMemoryLimitTick (pin100 : Nat) (s : State) : Host.Outcome State Fault Refusal := .next (memLimitEffect pin100 s)
/-- JUNCTION_CEILING (R381). -/
def execJunctionCeiling (t : Fin 5) (tj : Nat) (s : State) : Host.Outcome State Fault Refusal := .next (junctionEffect t tj s)
/-- BOOST_TICK (R383). -/
def execBoostTick (a : Fin 768) (pin100 tj : Nat) (s : State) : Host.Outcome State Fault Refusal := .next (boostEffect a pin100 tj s)
/-- SIDEBAND_READ (R389). -/
def execSidebandRead (r : Sideband) (s : State) : Host.Outcome State Fault Refusal := .next (sidebandEffect r s)
/-- SENSOR_FAULT (R389). -/
def execSensorFault (k : Sensor) (s : State) : Host.Outcome State Fault Refusal := .next (sensorFaultEffect k s)

end Sys2Proof.Machine
end

