-- ==== Sys2Proof/Machine/Sequencer.lean ====
section
/-! DEFINITION. The sequencers at run time (R237 to R248): streams, weirs, release and the end of a step boundary. -/

namespace Sys2Proof.Machine

/-! ### Streams (R238 to R240) -/

/-- Stream `st` (0 root, t + 1 tile t). -/
def streamGet (s : State) (st : Nat) : Stream := s.seq.streams.getD st {}
/-- Changes stream `st`. -/
def streamMod (s : State) (st : Nat) (f : Stream → Stream) : State :=
  { s with seq := { s.seq with streams := s.seq.streams.set st (f (streamGet s st)) } }

/-- A stream runs its next instruction: in a running step, not ended, not waiting (R239). -/
def streamRuns (s : State) (st : Nat) : Bool :=
  s.seq.dev == .running && s.seq.act == 0 && s.seq.prog.isSome && !(streamGet s st).ended && (streamGet s st).wait.isNone

/-- The stream goes on with its next instruction. -/
def streamNext (s : State) (st : Nat) : State := streamMod s st (fun t => { t with spc := t.spc + 1, wait := none })

/-- Whether a guard skips an instruction (R238). -/
def guardSkips (s : State) (i : StreamInst) : Bool :=
  match s.seq.prog with
  | none => false
  | some p => (i.vguard && runsWide s i.layer.toNat != i.variant) || (i.dwguard && layerFrozen p i.layer.toNat)

/-- Host counter `c` of the current step (R257). -/
def hostEvent (s : State) (c : Nat) : Nat := aget (fun _ => 0) s.seq.hostEv ((stepS s).toNat * 32 + c)
/-- Event counter `e` (R240). -/
def eventGet (s : State) (e : Nat) : Nat := if e < 32 then hostEvent s e else aget (fun _ => 0) s.seq.ev e
/-- Completion counter `c` of tile `t`. -/
def cidGet (s : State) (t c : Nat) : Nat := aget (fun _ => 0) s.seq.cid (t * 256 + c)
/-- Closings of weir `w` in the step. -/
def closedGet (s : State) (w : Nat) : Nat := aget (fun _ => 0) s.seq.closed w

/-- Issue-queue key of unit `u` as stream `st` names it. -/
def queueKey (st u : Nat) : Nat := if st = 0 then 256 + u else (st - 1) * 64 + u

/-- Whether the wait of a WAITC, WAITE or WAITW is met (Table 9.8), or the unit's issue queue has room again for an ISSUE
(R239). -/
def waitMet (s : State) (st op : Nat) (a b : Word) : Bool :=
  match op with
  | 2 => b.toNat ≤ cidGet s (st - 1) (fld a 0 8)
  | 3 => b.toNat ≤ eventGet s (fld a 0 6)
  | 4 => b.toNat ≤ closedGet s (fld a 0 12)
  | 1 => (aget (fun _ => []) s.seq.issueQ (queueKey st (fld a 0 8))).length < 256
  | _ => false

/-- Units that are fitted, of those that stream `st` may name (Table 9.6). -/
def unitFitted (s : State) (st u : Nat) : Bool :=
  if 32 ≤ u ∧ u < 35 then s.fit.hbmFitted.contains (3 * (st - 1) + (u - 32)) else if 56 ≤ u then hasLcu s else true

/-- Checks that one ISSUE needs beyond its fields (R237, Table 9.9). -/
def issueCheck (s : State) (st : Nat) (i : StreamInst) : List Half :=
  let u := fld i.a 0 8
  let own := unitOk u && (if st = 0 then 48 ≤ u else u < 48)
  chk (own && !unitFitted s st u) stCap
  ++ match s.seq.prog with
    | some p => chk (own && unitFitted s st u
        && decide (unitLen s p st u < fld i.a 8 24 + i.b.toNat)) stLen
    | none => []

/-- Appends a range to an issue queue. -/
def queuePush (s : State) (q : Nat) (r : Range) : State :=
  { s with seq := { s.seq with issueQ := aset (fun _ => []) s.seq.issueQ q (aget (fun _ => []) s.seq.issueQ q ++ [r]) } }

/-- Descriptor `i` of an ISSUE to DMA engine `u` fills a gather ring. -/
def fillsRing (s : State) (p : Prog) (st u i : Nat) : Bool := epKind (dmaParse (unitDesc s p st u i)).2.1.dst == 2

/-- A fill of a gather ring goes to the ring's fill queue (R177, R239). -/
def issueFill (p : Prog) (st u : Nat) (wide : Option Nat) (s : State) (i : Nat) : State :=
  let t := st - 1
  let d := (dmaParse (unitDesc s p st u i)).2.1
  match epArr s t d.dst with
  | none => s
  | some a =>
    arrMod s a (fun r =>
      let g := r.rings.getD (epRing d.dst) {}
      { r with rings := r.rings.set (epRing d.dst) (
          { g with queue := g.queue ++ [{ eng := t * 24 + u, idx := i, no := s.seq.issueNo, d := rebaseDesc s wide d }] }) })

/-- ISSUE of descriptors to a DMA engine: the fills of gather rings go to their queues, the others are one range of the
issue queue. -/
def issueDma (p : Prog) (st u : Nat) (wide : Option Nat) (is : List Nat) (s : State) : State :=
  let fills := is.filter (fillsRing s p st u)
  let own := is.filter (fun i => !fills.contains i)
  let s := fills.foldl (issueFill p st u wide) s
  match own with
  | [] => s
  | i :: _ => queuePush s (queueKey st u) { first := i, count := own.length, wide := wide, fills := fills, no := s.seq.issueNo }

/-- Effect of a wait: met at once, or the stream stands in it. -/
def waitEffect (op st : Nat) (i : StreamInst) (s : State) : State :=
  if waitMet s st op i.a i.b then streamNext s st
  else streamMod s st (fun t => { t with wait := some { op := op, name := i.name.toNat, a := i.a, b := i.b } })

/-- Effect of ISSUE: while the queue holds 256 ranges it waits (R239). -/
def issueEffect (st : Nat) (i : StreamInst) (s : State) : State :=
  match s.seq.prog with
  | none => s
  | some p =>
    let u := fld i.a 0 8
    let q := queueKey st u
    let wide := if i.vguard && i.variant then some i.layer.toNat else none
    if i.b = 0 then streamNext s st
    else if !waitMet s st 1 i.a i.b then waitEffect 1 st i s
    else if st ≠ 0 ∧ u < 24 then
      let s := { s with seq := { s.seq with issueNo := s.seq.issueNo + 1 } }
      streamNext (issueDma p st u wide ((List.range i.b.toNat).map (· + fld i.a 8 24)) s) st
    else streamNext (queuePush s q { first := fld i.a 8 24, count := i.b.toNat, wide := wide }) st

/-- The instruction that stream `st` runs next (R239). -/
def streamIs (op st : Nat) (i : StreamInst) (s : State) (p : Prog) : Bool :=
  let k := (streamGet s st).spc
  decide (k < streamLen s p st) && streamParse (streamInst s p st k) == (op, i, false)

/-- A stream may run an instruction: the step runs, nothing holds the stream, and it is the stream's next one. -/
def streamMayRun (op st : Nat) (i : StreamInst) (s : State) : Bool :=
  streamRuns s st && (match s.seq.prog with
    | some p => streamIs op st i s p
    | none => false)

/-- The fetch of a stream's next instruction. -/
def streamFetch (s : State) (st : Nat) : State := match s.seq.prog with
  | some p => seqReads p.handle (p.off + streamOff s p st + 16 * (streamGet s st).spc) 16 s
  | none => s

/-- The frame of every stream instruction: a form that Table 9.9 rejects never runs; a guard may skip it. -/
def streamExec (op st : Nat) (i : StreamInst) (more : List Half) (eff : State → State) (s : State) : Host.Outcome State Fault Refusal :=
  match pickStatus (streamCheck st op i (progLayers s) (progWeirs s) ++ more) with
  | 0 => .next (if !streamMayRun op st i s then s else if guardSkips s i then streamNext (streamFetch s st) st else eff (streamFetch s st))
  | e => .refused (.rejectedAtLoad e)

/-- ISSUE (Table 9.8). -/
def execIssue (st : Fin 5) (i : StreamInst) (s : State) : Host.Outcome State Fault Refusal :=
  streamExec 1 st i (issueCheck s st i) (issueEffect st i) s
/-- WAITC (Table 9.8). -/
def execWaitc (st : Fin 5) (i : StreamInst) (s : State) : Host.Outcome State Fault Refusal := streamExec 2 st i [] (waitEffect 2 st i) s
/-- WAITE (Table 9.8). -/
def execWaite (st : Fin 5) (i : StreamInst) (s : State) : Host.Outcome State Fault Refusal := streamExec 3 st i [] (waitEffect 3 st i) s
/-- WAITW (Table 9.8). -/
def execWaitw (st : Fin 5) (i : StreamInst) (s : State) : Host.Outcome State Fault Refusal := streamExec 4 st i [] (waitEffect 4 st i) s

/-- WAIT_MET (R239): the wait in which a stream stands is met; the time waited counts by its opcode (Table 9.20). An ISSUE
that waited for room then runs. -/
def waitMetEffect (st ns : Nat) (s : State) : State :=
  match (streamGet s st).wait with
  | none => s
  | some w =>
    if s.seq.dev = .running ∧ waitMet s st w.op w.a w.b = true then
      let s := if st = 0 then (if w.op = 3 then bump s .seqR 0 0xc40 ns else s)
        else bump s .seqT (st - 1) (if w.op = 1 then 0xc30 else if w.op = 2 then 0xc08 else if w.op = 4 then 0xc10 else 0xc18) ns
      if w.op = 1 then streamMod s st (fun t => { t with wait := none }) else streamNext s st
    else s

def execWaitMet (st : Fin 5) (ns : Nat) (s : State) : Host.Outcome State Fault Refusal := .next (waitMetEffect st ns s)

/-- Effect of ARRIVE (R243). -/
def arriveEffect (st : Nat) (i : StreamInst) (s : State) : State := streamNext (arriveAt s (fld i.a 0 12) (736 + st)) st
/-- ARRIVE (Table 9.8). -/
def execArrive (st : Fin 5) (i : StreamInst) (s : State) : Host.Outcome State Fault Refusal := streamExec 5 st i [] (arriveEffect st i) s

/-- Effect of POST (R240). -/
def postEffect (st : Nat) (i : StreamInst) (s : State) : State := streamNext (evRaise s (fld i.a 0 6) i.b.toNat) st
/-- POST (Table 9.8). -/
def execPost (st : Fin 5) (i : StreamInst) (s : State) : Host.Outcome State Fault Refusal := streamExec 6 st i [] (postEffect st i) s

/-- Effect of END: the stream arrives at the step-boundary weir. -/
def streamEndEffect (st : Nat) (s : State) : State :=
  streamMod (arriveAt s 0 (736 + st)) st (fun t => { t with ended := true })
/-- END (Table 9.8). -/
def execStreamEnd (st : Fin 5) (i : StreamInst) (s : State) : Host.Outcome State Fault Refusal :=
  streamExec 7 st i [] (fun s => streamEndEffect st s) s

/-! ### Weirs (R243 to R245) -/

/-- Arrivals of participant `p` at weir `w`. -/
def arrivals (s : State) (w p : Nat) : Nat := aget (fun _ => 0) s.seq.arrived (w * 1024 + p)
/-- Closings of this device's part of weir `w`. -/
def partsGet (s : State) (w : Nat) : Nat := aget (fun _ => 0) s.seq.parts w

/-- Whether stream `st` contains ARRIVE `w`. -/
def streamArrives (s : State) (p : Prog) (st w : Nat) : Bool :=
  (List.range (streamLen s p st)).any (fun k =>
    let x := streamParse (streamInst s p st k)
    x.1 == 5 && fld x.2.1.a 0 12 == w)

/-- The participants of weir `w` from 1 on (R243): slots whose program contains SYN w, streams with ARRIVE w. -/
def participants (s : State) (p : Prog) (w : Nat) : List Nat :=
  (s.arr.filterMap (fun e => match e.2.slot with
    | some k => if e.2.prog.any (fun o => o.op == 5 && o.i.count.toNat == w) then some (tileOf e.1 * 184 + k) else none
    | none => none))
  ++ ((List.range 5).filter (fun st => streamArrives s p st w)).map (736 + ·)

/-- Every participant of weir `w` has made its next arrival. -/
def partReady (s : State) (p : Prog) (w : Nat) : Bool :=
  let ps := participants s p w
  !ps.isEmpty && ps.all (fun x => decide (partsGet s w + 1 ≤ arrivals s w x))

/-- Every other device of the reach has closed its part as often as this device closes the weir next (R244). -/
def peersReady (s : State) (w : Nat) : Bool :=
  ((List.range (reachD s)).filter (· != myIndex s)).all (fun m =>
    decide (closedGet s w + 1 ≤ aget (fun _ => 0) s.seq.peerClosed (w * 64 + m)))

/-- A weir closes: the count rises, and the arrays that wait at it are to be released (R244, R245). -/
def closeWeir (s : State) (w : Nat) : State :=
  let arr (r : Arr) : Arr := if r.weir = some w ∧ r.st = .atWeir then { r with rel := true } else r
  bump { s with arr := amapMap {} arr s.arr,
                seq := { s.seq with closed := aset (fun _ => 0) s.seq.closed w (closedGet s w + 1) } } .seqR 0 0xc28 1

/-- The device's own part of weir `w` closes; a reach weir sends a closing record (R301). -/
def closePart (s : State) (w : Nat) (reach : Bool) (trig : List (BitVec 3)) (noCommit : Bool) : State :=
  let k := partsGet s w + 1
  let s := { s with seq := { s.seq with parts := aset (fun _ => 0) s.seq.parts w k } }
  if reach then recordAll s (.closing w k trig noCommit) else s

/-- A reach weir closes when this device's part and every record are there; slack counts in a reach (R248). -/
def tryClose (s : State) (w slackNs : Nat) : State :=
  if closedGet s w + 1 ≤ partsGet s w ∧ peersReady s w = true then
    closeWeir (if 1 < reachD s then bump s .seqR 0 0xc20 slackNs else s) w
  else s

/-- Closing of a weir from 1 on: this device's part when its participants have arrived, then the weir. -/
def weirEffect (w slackNs : Nat) (s : State) : State :=
  match s.seq.prog with
  | none => s
  | some p =>
    if s.seq.dev ≠ .running ∨ s.seq.act ≠ 0 ∨ w = 0 ∨ p.weirs < w then s
    else
      let reach := weirReach s p w && decide (1 < reachD s)
      let s := if partsGet s w = closedGet s w ∧ partReady s p w = true then closePart s w reach [] false else s
      if reach then tryClose s w slackNs
      else if closedGet s w < partsGet s w then closeWeir s w else s

/-- A closing record of device `m` is taken: one that follows the device's record of weir 0 belongs to the next step. -/
def takeRecord (s : State) (r : PeerRec) : State :=
  if aget (fun _ => 0) s.seq.peerClosed r.dev ≠ 0 then { s with seq := { s.seq with peerLater := s.seq.peerLater ++ [r] } }
  else
    let s := { s with seq := { s.seq with peerClosed := aset (fun _ => 0) s.seq.peerClosed (r.weir * 64 + r.dev) r.k } }
    if r.weir = 0 then
      { s with seq := { s.seq with peerTrig := aset (fun _ => []) s.seq.peerTrig r.dev r.trig,
                                   peerNoCommit := s.seq.peerNoCommit || r.noCommit } }
    else s

/-- The records of a step that has closed are forgotten; those sent for the next step are taken. -/
def nextRecords (s : State) : State :=
  s.seq.peerLater.foldl takeRecord
    { s with seq := { s.seq with peerClosed := [], peerTrig := [], peerNoCommit := false, peerLater := [] } }

/-! ### Release (R245, Table 1.10 action 8) -/

/-- VALID of scale record `n`. -/
def recValid (s : State) (n : Nat) : Nat := (recByte s n 0x41).toNat

/-- The records allocated in the scale-record tensor (R102). -/
def recList (s : State) : List Nat := (List.range 0x1000).filter (recAllocated s)

/-- Records that are cold for the step a release opens; one without probes takes K = 0 at once (R242 step 2). -/
def coldScales (s : State) : AMap ScaleRun :=
  ((recList s).filter (fun n => decide (recValid s n < 16))).map (fun n =>
    (n, { cold := true, kReady := aget (fun _ => 0) s.seq.probeCnt n == 0 }))

/-- What an array holds at the start of a step: it waits for its group, with the counters of R59 and R166 restarted. -/
def readyArr (r : Arr) : Arr :=
  match r.slot with
  | none => r
  | some _ =>
    let ring (g : Ring) : Ring := { g with head := 0, tail := 0, rpos := 0, ucnt := 0, st := List.replicate g.slots .free, queue := [], fills := [], held := false }
    { r with rel := true, weir := some 0, acc := [], pc := 0, mrow := 0, waitRing := none, lctr := [0, 0, 0, 0], dpc := 0,
             nanSeen := false, nanRow := none, statHigh := 0, rings := r.rings.map ring }

/-- Layers that run their wide variant (R141). -/
def wideLayers (s : State) : Nat := s.seq.wide.length

/-! ### Page versions (R213, R214) -/

/-- Exchanges two tables between two keys. -/
def aswap (a b : AMap α) (start len : Nat) : AMap α × AMap α := (acopy b a start len, acopy a b start len)

/-- Page `k` of tensor `h` swaps its versions. -/
def swapPage (s : State) (h k : Nat) : State :=
  let a := tkey h (k * pageSize)
  let bw := aswap s.mem.bytes s.mem.work a pageSize
  let pw := aswap s.mem.poison s.mem.wpoison (a / 32) (pageSize / 32)
  let tensors := match tensorOf s h with
    | none => s.mem.tensors
    | some t =>
      let pages := t.pages.mapIdx (fun n p => if n = k then { p with idx := p.widx, widx := p.idx } else p)
      aset (fun _ => none) s.mem.tensors h (some { t with pages := pages })
  let flip (g : Mig) : Mig := if g.handle = h ∧ g.page = k then { g with ver := !g.ver } else g
  bump { s with mem := { s.mem with
    bytes := bw.1, work := bw.2, poison := pw.1, wpoison := pw.2, tensors := tensors, migs := s.mem.migs.map flip
    migWait := s.mem.migWait.map flip
    swapped := aset (fun _ => false) s.mem.swapped (h * 2 ^ 20 + k) true } } .plc 0 0xc20 1

/-- A page takes a copy of its committed version as the committed one; the other becomes the one that earlier reads use. -/
def freshPage (s : State) (h k : Nat) : State :=
  let a := tkey h (k * pageSize)
  swapPage { s with mem := { s.mem with
    work := acopy s.mem.bytes s.mem.work a pageSize
    wpoison := acopy s.mem.poison s.mem.wpoison (a / 32) (pageSize / 32) } } h k

/-- Page `k` of tensor `h` has swapped at the latest commit. -/
def swappedPage (s : State) (h k : Nat) : Bool := aget (fun _ => false) s.mem.swapped (h * 2 ^ 20 + k)

/-- Host writes of scale records accepted in RUNNING take effect (R102). A page that a host read still uses is copied first, so
that the read keeps the version it began with (R215); reads of two versions at once are not kept apart (assumption 129). -/
def takeScaleWrites (s : State) : State :=
  let ws := s.seq.scaleWrites
  let h := scaleH s
  let alone := !fenced s h
  let ks := if s.mem.fences.any (fun f => f.handle == h) then (ws.flatMap (fun w => (pageParts w.1 w.2.length).map (·.1))).eraseDups else []
  let keep (f : Fence) : Fence := if f.handle = h && alone && ws != [] then { f with released := true } else f
  let s := (ks.filter (fun k => alone || !swappedPage s h k)).foldl (fun s k => freshPage s h k) s
  let s := { s with seq := { s.seq with scaleWrites := [] }, mem := { s.mem with fences := s.mem.fences.map keep } }
  ws.foldl (fun s w => memWrites prioHost h w.1 w.2.length (memWrite s h w.1 w.2)) s

/-- The update units beside the stacks that hold the pages now write them (R205). -/
def unitsHome (s : State) : State :=
  let home (t : Option Tensor) : Option Tensor := t.map (fun t => { t with pages := t.pages.map (fun p => { p with unit := none }) })
  { s with mem := { s.mem with tensors := amapMap none home s.mem.tensors } }

/-- The release that starts a step (R239, R240, R242, R245, R480): every count of the step restarts, the slot programs
follow the modes, and the arrays wait for their groups. -/
def releaseStep (s : State) : State :=
  match s.seq.prog with
  | none => s
  | some p =>
    let s := setWide (takeScaleWrites s) p
    let s := reassemble s p (runsWide s)
    let s := { s with
      arr := amapMap {} readyArr s.arr
      mem := { s.mem with memPoison := false }
      dma := amapMap {} (fun r => { r with busy := [], issued := 0, done := 0, poison := none }) s.dma
      upd := amapMap {} (fun r => { r with active := none, waiting := none, touchErr := none }) s.upd
      cfl := { s.cfl with ops := [], doneIdx := [], groups := [{}, {}, {}, {}], policyNow := pgGet s .cfl 0 0x108, ledgerNew := [], err := none }
      hst := { s.hst with slot := 0 }
      seq := { s.seq with
        streams := [{}, {}, {}, {}, {}], issueQ := [], issueNo := 0, issued := 0, done := 0, cid := [], ev := [], closed := [], parts := [],
        arrived := [], monitors := [], scales := coldScales s, layers := [], probes := [], dmaPoison := false,
        touchRange := false, touchOrder := false, dispatchErr := false, once := [], rejectSeen := false, act := 0, ramp := none, halt := none, reserveOwed := false } }
    let s := unitsHome (takePolicies (setDev s .running))
    ctrSet s .tel 0 0xc18 (BitVec.ofNat 64 (wideLayers s))

/-- RELEASE_GROUP (R245): the arrays of a group that were released at one closing start, once every lower group of that
closing has. -/
def releaseGroupEffect (g : Nat) (s : State) : State :=
  if s.seq.dev ≠ .running then s
  else
    let first (e : Nat × Arr) : Bool := !s.arr.any (fun f => f.2.rel && f.2.weir == e.2.weir && decide (f.1 % 64 < g))
    { s with arr := s.arr.map (fun e =>
        if e.2.rel && e.1 % 64 == g && first e then
          (e.1, { arrGoto e.2 (if e.2.weir = some 0 then 0 else e.2.pc + 1) with rel := false, st := .running, eddy := 0, weir := none })
        else e) }

def execReleaseGroup (g : Fin 64) (s : State) : Host.Outcome State Fault Refusal := .next (releaseGroupEffect g s)

/-- R385 admits the decrements of an array that waits at a weir of reach scope, and of every one in PAUSED and HALTED. -/
def slopeArr (s : State) (r : Arr) : Bool :=
  r.st == .atWeir && r.eddy != 0 && (s.seq.dev == .paused || s.seq.dev == .halted || (match s.seq.prog, r.weir with
    | some p, some w => weirReach s p w
    | _, _ => false))

/-- A tile has arrays whose next decrement R385 admits. -/
def slopeTile (s : State) (t : Nat) : Bool := s.arr.any (fun e => tileOf e.1 == t && slopeArr s e.2)

/-- The tile whose turn is next, those without a waiting array above level 0 being skipped (R385). -/
def slopeNext (s : State) : Option Nat := ((List.range 4).map (fun k => (s.thm.eddyTile + 1 + k) % 4)).find? (slopeTile s)

/-- A decrement that R385 admits: the levels of all the waiting arrays of a tile fall together. -/
def slopeFall (t : Nat) (s : State) : State :=
  { s with arr := s.arr.map (fun e => if tileOf e.1 = t ∧ slopeArr s e.2 = true then (e.1, { e.2 with eddy := e.2.eddy - 1 }) else e),
           thm := { s.thm with eddyTile := t } }

/-- EDDY_DECREMENT (R246, R385): at a device-scope weir the array's level falls by one; where R385 governs, the levels of its
tile do when it is the tile's turn, and the time that the decrement waited counts. -/
def eddyDecrementEffect (a holdUs : Nat) (s : State) : State :=
  if (arrGet s a).st = .atWeir ∧ (arrGet s a).eddy ≠ 0 then
    if slopeArr s (arrGet s a) then
      (if slopeNext s = some (tileOf a) then bump (slopeFall (tileOf a) s) .thm 0 0xc50 holdUs else s)
    else arrMod s a (fun r => { r with eddy := r.eddy - 1 })
  else s

def execEddyDecrement (a : Fin 768) (holdUs : Nat) (s : State) : Host.Outcome State Fault Refusal := .next (eddyDecrementEffect a holdUs s)

/-! ### The end of a boundary (R257) -/

/-- A PAUSE, of the commands that wait in `SeqSt.pause`; the other kind is a RESUME taken behind a PAUSE (R253). -/
def isPause (c : CmdRef) : Bool := cmdOp c.w == 6

/-- The device enters PAUSED; a PAUSE that waits completes with OK (Table 9.16), a RESUME behind it stays. -/
def enterPaused (s : State) : State :=
  let s := setDev { s with seq := { s.seq with act := 0, ramp := none } } .paused
  (s.seq.pause.filter isPause).foldl (fun s c => complete s c stOK 0)
    { s with seq := { s.seq with pause := s.seq.pause.filter (fun c => !isPause c) } }

/-- What follows action 7 of a boundary: STEPS at zero waits for STEPS_DONE; a PAUSE that waits is performed; else
the arrays are released. -/
def finishBoundary (s : State) : State :=
  if s.seq.stepsLeft = 0 then { s with seq := { s.seq with ramp := some .pausing, act := 7 } }
  else if !s.seq.pause.isEmpty then enterPaused s
  else releaseStep s

/-- STEPS_DONE (R257): the device enters PAUSED and sets SEQ INT_RAW bit 2. -/
def stepsDoneEffect (s : State) : State :=
  if s.seq.ramp = some .pausing ∧ s.seq.dev = .running then setInt (enterPaused s) .seqR 0 4 else s

/-- What waits on lehr ramps goes on once none is in progress (R427, R430, Table 1.10). -/
def afterRamps (s : State) : State :=
  if ramping s then s
  else match s.seq.ramp with
    | some (.wakeRamp c) => complete (setDev { s with seq := { s.seq with ramp := none } } .ready) c stOK 0
    | some (.release c) => if s.seq.dev = .safe then s else complete (releaseStep s) c stOK 0
    | some .boundary => if s.seq.dev = .running then finishBoundary s else s
    | some .runReset => { s with seq := { s.seq with ramp := none } }
    | _ => s

end Sys2Proof.Machine
end

