-- ==== Sys2Proof/Machine/Sha3.lean ====
section
/-! DEFINITION. SHA3-512 and CRC-32, which the manual names (R409, R466): the functions are those of FIPS 202
and IEEE 802.3 (assumption 22). -/

namespace Sys2Proof.Machine

/-! ### Keccak-f[1600] -/

/-- Round constants. -/
def keccakRC : List DWord :=
  [0x0000000000000001, 0x0000000000008082, 0x800000000000808a, 0x8000000080008000, 0x000000000000808b,
   0x0000000080000001, 0x8000000080008081, 0x8000000000008009, 0x000000000000008a, 0x0000000000000088,
   0x0000000080008009, 0x000000008000000a, 0x000000008000808b, 0x800000000000008b, 0x8000000000008089,
   0x8000000000008003, 0x8000000000008002, 0x8000000000000080, 0x000000000000800a, 0x800000008000000a,
   0x8000000080008081, 0x8000000000008080, 0x0000000080000001, 0x8000000080008008]

/-- Rotation of lane x + 5y. -/
def keccakRot : List Nat :=
  [0, 1, 62, 28, 27, 36, 44, 6, 55, 20, 3, 10, 43, 25, 39, 41, 45, 15, 21, 8, 18, 2, 61, 56, 14]

/-- One round on 25 lanes, lane (x, y) at x + 5y. -/
def keccakRound (a : List DWord) (rc : DWord) : List DWord :=
  let g (l : List DWord) (i : Nat) : DWord := l.getD i 0
  let c := (List.range 5).map (fun x => g a x ^^^ g a (x + 5) ^^^ g a (x + 10) ^^^ g a (x + 15) ^^^ g a (x + 20))
  let d := (List.range 5).map (fun x => g c ((x + 4) % 5) ^^^ (g c ((x + 1) % 5)).rotateLeft 1)
  let t := (List.range 25).map (fun i => (g a i ^^^ g d (i % 5)).rotateLeft (keccakRot.getD i 0))
  -- lane (x, y) of the permuted state is lane (x + 3y, x) of the rotated one
  let b := (List.range 25).map (fun i => g t ((i % 5 + 3 * (i / 5)) % 5 + 5 * (i % 5)))
  let e := (List.range 25).map (fun i =>
    g b i ^^^ (~~~(g b ((i % 5 + 1) % 5 + 5 * (i / 5))) &&& g b ((i % 5 + 2) % 5 + 5 * (i / 5))))
  e.set 0 (g e 0 ^^^ rc)

/-- The permutation. -/
def keccakF (a : List DWord) : List DWord := keccakRC.foldl keccakRound a

/-- Blocks of 72 bytes absorbed into the state. -/
def sha3Absorb : Nat → List DWord → List Byte → List DWord
  | 0, a, _ => a
  | k + 1, a, bs =>
    let blk := (List.range 9).map (fun i => BitVec.ofNat 64 (leNat ((bs.drop (8 * i)).take 8)))
    sha3Absorb k (keccakF (a.mapIdx (fun i v => v ^^^ blk.getD i 0))) (bs.drop 72)

/-- The padding of a message of `n` bytes: 01 of SHA-3, 1, zeros, 1. -/
def sha3Pad (n : Nat) : List Byte :=
  let q := 72 - n % 72
  if q = 1 then [0x86] else [0x06] ++ List.replicate (q - 2) 0 ++ [0x80]

/-- SHA3-512, 64 bytes. -/
def sha3_512 (m : List Byte) : List Byte :=
  let p := m ++ sha3Pad m.length
  ((sha3Absorb (p.length / 72) (List.replicate 25 0) p).take 8).flatMap (fun v => leBytes 8 v.toNat)

/-! ### CRC-32 -/

/-- One bit of the reflected polynomial. -/
def crcBit (c : Word) : Word := if c.getLsbD 0 then (c >>> 1) ^^^ 0xedb88320 else c >>> 1

/-- One byte. -/
def crcByte (c : Word) (b : Byte) : Word :=
  crcBit (crcBit (crcBit (crcBit (crcBit (crcBit (crcBit (crcBit (c ^^^ b.setWidth 32))))))))

/-- CRC-32 of IEEE 802.3. -/
def crc32 (m : List Byte) : Word := ~~~(m.foldl crcByte 0xffffffff)

end Sys2Proof.Machine
end

