-- ==== Sys2Proof/Machine/Identity.lean ====
section
/-! DEFINITION. The identity of the module (R416 to R418) and its measurements (R419). -/

namespace Sys2Proof.Machine

/-- The ML-DSA-87 seed of the device key (R417). -/
def devSeed (s : State) : List Byte :=
  -- the ASCII bytes "DLV7-DEVKEY"
  (sha3_512 (s.fit.puf ++ ([0x44, 0x4c, 0x56, 0x37, 0x2d, 0x44, 0x45, 0x56, 0x4b, 0x45, 0x59] : List Byte))).take 32

/-- The device public key, and MODULE_ID (R417). -/
def devPub (s : State) : List Byte := Config.mldsaPublic (devSeed s)
def moduleId (s : State) : DWord := BitVec.ofNat 64 (leNat ((sha3_512 (devPub s)).take 8))

/-- A number below 2^(8 n) as exactly `n` bytes of a list that may be shorter. -/
def padTo (n : Nat) (bs : List Byte) : List Byte := bs.take n ++ List.replicate (n - bs.length) 0

/-- ARR_BAD (Table 15.9). -/
def arrBad (f : Fitted) : List Byte :=
  (List.range 96).map (fun i => BitVec.ofNat 8 (((List.range 8).map (fun b => if f.badArrays.contains (8 * i + b) then 2 ^ b else 0)).sum))

/-- The codes of Table 13.3 as VCURVE writes them. -/
def curveCodes : List Nat := voltTable.map (fun p => (p.2 - 400) / 5)

/-- Bytes 0x0000 to 0x1cff of the identity record (Table 15.9). -/
def identRecord (s : State) : List Byte :=
  let own := match s.fit.idOther with
    | some o => o
    | none => (moduleId s, devPub s)
  leBytes 4 0x52444948 ++ leBytes 2 1 ++ leBytes 1 (if s.fit.full then 0 else 1) ++ leBytes 1 0 ++ leBytes 8 own.1.toNat
  ++ padTo 6 s.fit.mac ++ leBytes 2 0 ++ padTo 24 s.fit.serial ++ leBytes 4 s.fit.mfgDay.toNat ++ leBytes 12 0
  ++ padTo 2592 own.2 ++ arrBad s.fit
  ++ (List.range 768).flatMap (fun a =>
      let c := aget (fun _ => []) s.fit.vcurve a
      (List.range 6).map (fun i => BitVec.ofNat 8 ((if c = [] then curveCodes else c).getD i 0)))
  ++ List.replicate 64 0

/-- What a measurement is extended with (Table 15.10). -/
def measBytes (s : State) : MeasItem → List Byte
  | .bootRom => Config.bootRom
  | .identity => identRecord s
  | .item bs => bs

/-- Measurement `m`: zero, extended with each item (R419). -/
def measure (s : State) (m : Nat) : List Byte :=
  (s.mp.meas.getD m []).foldl (fun h i => sha3_512 (h ++ sha3_512 (measBytes s i))) (List.replicate 64 0)

/-- Extends a measurement. -/
def measExtend (s : State) (m : Nat) (bs : List Byte) : State :=
  { s with mp := { s.mp with meas := s.mp.meas.set m (s.mp.meas.getD m [] ++ [.item bs]) } }

/-- Sets a measurement to zero. -/
def measZero (s : State) (m : Nat) : State := { s with mp := { s.mp with meas := s.mp.meas.set m [] } }

/-- PROG of the identity records: bytes 0 to 7 of the digest of the loaded image, which measurement 6 was last extended
with (Tables 11.5, 15.10). -/
def progDigest (s : State) : DWord :=
  match s.seq.prog, (s.mp.meas.getD 6 []).getLast? with
  | some _, some (.item bs) => BitVec.ofNat 64 (leNat ((sha3_512 bs).take 8))
  | _, _ => 0

/-- OPKEY_ID: bytes 0 to 7 of the digest of the operator key; zero with none. -/
def opkeyId (s : State) : DWord := match s.mp.opkey with
  | some k => BitVec.ofNat 64 (leNat ((sha3_512 k).take 8))
  | none => 0

/-- The identity record that port `p` sends (R296). -/
def portRecord (s : State) (p : Nat) : IdentRec := identOf s p (moduleId s) (progDigest s)

/-- A port sends its record again. -/
def portResend (s : State) (p : Nat) : State :=
  let r := portRecord s p
  portSend (portMod s p (fun q => { q with sentS := r.s })) p { tc := 0, src := myIndex s, body := .ident r }

/-- PROG changes: records are sent again on every port in UP while the device is outside RUNNING (R296). -/
def resendIdent (s : State) : State :=
  if s.seq.dev = .running then s
  else (List.range 6).foldl (fun s p => if (portGet s p).st == .up then portResend s p else s) s

/-- The latest record of port `p` tells another S than the device, outside RUNNING, now has (assumption 93). -/
def identDue (s : State) (p : Nat) : Bool := s.seq.dev != .running && (portGet s p).st == .up && (portGet s p).sentS != stepS s

/-- S has changed: the ports in UP whose latest record tells another send it again (R296). -/
def identSync (s : State) : State := (List.range 6).foldl (fun s p => if identDue s p then portResend s p else s) s

end Sys2Proof.Machine
end

