-- ==== Sys2Proof/Machine/Registers.lean ====
section
/-! DEFINITION. The registers of every page: what a read shows (the field tables of the home chapters), and what a write
of a register that may be written does (R8, R9, R443 to R452). -/

namespace Sys2Proof.Machine

/-- A number as a register. -/
def w32 (n : Nat) : Word := BitVec.ofNat 32 n
/-- Bit `n` when a condition holds. -/
def bitIf (b : Bool) (n : Nat) : Nat := if b then 2 ^ n else 0

/-! ### BLK_CAP (Tables 2.11 to 16.x of the home chapters) -/

/-- Stacks fitted on tile `t`. -/
def tileStacks (s : State) (t : Nat) : Nat := s.fit.hbmFitted.countP (fun k => k / 3 == t)

/-- BLK_CAP of a page. -/
def blkCap (s : State) (p : Pg) (i : Nat) : Nat :=
  match p with
  | .arr => 0x60 + 4 * 2 ^ 8 + 0xa * 2 ^ 12 + 0x40 * 2 ^ 16 + 4 * 2 ^ 24 + bitIf (arrUsable s i) 28
  | .row => 0x90 + 0xe * 2 ^ 8 + 0xe * 2 ^ 12 + 2 ^ 16 + 2 ^ 17
  | .grg => 4 + 0x10 * 2 ^ 4 + 0x10 * 2 ^ 9
  | .dma => 0x40 + 0xb * 2 ^ 8 + 0xf * 2 ^ 12 + 0xc0 * 2 ^ 16
  | .msc => 0x40 + 4 * 2 ^ 8 + 7 * 2 ^ 12 + tileStacks s i * 2 ^ 16 + 0xf * 2 ^ 20
  | .hbm => 0x20 + 0x30 * 2 ^ 8 + 0x60 * 2 ^ 16 + 2 ^ 23
  | .plc => 0x15 + 5 * 2 ^ 8 + (s.fit.hbmFitted.map (fun k => 2 ^ (12 + k))).sum
  | .seqR => 4 + 0xfff * 2 ^ 4 + 0x40 * 2 ^ 16
  | .seqT => 0xb8 + 0x18 * 2 ^ 8 + 0xff * 2 ^ 16 + tileStacks s i * 2 ^ 24
  | .upd => 0x40 + i * 2 ^ 8 + 7 * 2 ^ 12
  | .cfl => (if s.fit.full then 0x3f + 0x40 else 0x0f) + 0x40 * 2 ^ 8 + 0x20 * 2 ^ 16
  | .ngl => 8 + 4 * 2 ^ 4 + 3 * 2 ^ 8 + bitIf s.fit.full 10
  | .lcu => 3 + i * 2 ^ 2
  | .hst => 3 + 0x10 * 2 ^ 2 + 8 * 2 ^ 8 + 2 ^ 12
  | .mbx => 8 + 0xf0 * 2 ^ 4 + 8 * 2 ^ 12
  | .sec => 7 + 8 * 2 ^ 4
  | .pwrM => 4 + 0x50 * 2 ^ 8
  | .pwrT => 0xc0 + 6 * 2 ^ 8 + 0x0230 * 2 ^ 16
  | .thm => 0xfa0 + 0x3e8 * 2 ^ 12 + 2 ^ 24
  | .tel => 1

/-! ### BLK_STAT -/

/-- STATE of an array (Table 2.11). -/
def arrCode : ArrSt → Nat
  | .off => 0 | .retention => 1 | .idle => 2 | .running => 3 | .atWeir => 4 | .dark => 5 | .excluded => 6

/-- STATE of a stack (Table 8.9). -/
def hbmCode : HbmSt → Nat
  | .untrained => 0 | .training => 1 | .operating => 2 | .margining => 3 | .selfRefresh => 4

/-- LINK of a peer port (Table 11.2) and of the host port (R329). -/
def portCode : PortSt → Nat
  | .down => 0 | .training => 1 | .ident => 2 | .up => 3 | .held => 4 | .failed => 5 | .retrain => 6
def hlinkCode : HLink → Nat
  | .down => 0 | .training => 1 | .up => 2 | .retrain => 3
/-- PEU (Table 13.11). -/
def peuCode : Peu → Nat
  | .off => 0 | .preCharge => 1 | .softStart => 2 | .running => 3 | .rideThrough => 4

/-- A decrement may be waiting for admission (R385). -/
def slopeMay (s : State) : Bool := (slopeNext s).isSome

/-- Items that the link compression unit of a port holds: descriptor, final receiver, and that it is a shard. -/
def heldItems (s : State) (p : Nat) : List (Nat × Nat × Bool) :=
  ((ownItems s p).filterMap (fun f => match f.body with
    | .data i _ _ sh _ _ => some (i, f.dest, sh)
    | _ => none)).eraseDups

/-- Ring flags of an array: configured, and a read that waits. -/
def ringBits (r : Arr) : Nat :=
  ((r.rings.mapIdx (fun k g => bitIf g.en k)).sum) + (match r.waitRing with
    | some k => 2 ^ (4 + k % 4)
    | none => 0)

/-- Fills of engine `e` that ring queues hold. -/
def heldFills (s : State) (e : Nat) : List DmaRef :=
  s.arr.flatMap (fun x => x.2.rings.flatMap (fun g => g.queue.filter (fun f => f.eng == e)))

/-- The first fill of a ring's queue waits for an entry of engine `e` and for nothing else (R177). -/
def fillWaits (s : State) (e : Nat) : Bool :=
  s.arr.any (fun x => x.2.rings.any (fun g => match g.queue with
    | f :: _ => f.eng == e && g.st.getD g.tail .full == .free && !heldForK f.d s
    | [] => false))

/-- START or RESUME waits for the ramps of its action 7. -/
def opening (s : State) : Bool := match s.seq.ramp with
  | some (.release _) => true
  | _ => false

/-- The boundary action in progress (Table 9.18): action 7 of START and RESUME too, and action 8 while arrays of the
step-boundary weir wait for their groups. -/
def actionNow (s : State) : Nat :=
  if s.seq.act ≠ 0 then s.seq.act
  else if opening s then 7
  else if s.seq.dev = .running ∧ s.arr.any (fun e => e.2.rel && e.2.weir == some 0) = true then 8 else 0

/-- A tile sequencer assembles slot programs: the modes have changed, and the release waits for the ramps of action 7
(Table 9.1, assumption 132). -/
def assembling (s : State) (t : Nat) : Bool := (decide (4 ≤ s.seq.act) || opening s) && match s.seq.prog with
  | none => false
  | some p => s.arr.any (fun e => tileOf e.1 == t && match e.2.slot with
      | some k => assemble s p (layerWide s p) t k != (e.2.prog, e.2.rprog)
      | none => false)

/-- BLK_STAT of a page. -/
def blkStat (s : State) (p : Pg) (i : Nat) : Nat :=
  match p with
  | .arr => arrCode (arrGet s i).st + bitIf (exclPending s i) 4
  | .row =>
    let r := arrGet s i
    if arrRuns s i && r.dpc < r.rprog.length then (if (rowDue r).isSome then 1 else 2) else 0
  | .grg => ringBits (arrGet s i)
  | .dma =>
    let n := (dmaGet s i).busy.length
    n + bitIf (64 ≤ n && (!(aget (fun _ => []) s.seq.issueQ (i / 24 * 64 + i % 24)).isEmpty || fillWaits s i)) 7
  | .msc => 0
  | .hbm =>
    hbmCode (hbmGet s i).st
  | .plc => bitIf (!s.mem.migs.isEmpty) 0 + bitIf (!s.mem.fences.isEmpty) 1 + bitIf (!s.log.kept.isEmpty) 2
  | .seqR => devCode s.seq.dev + bitIf (!s.seq.pause.isEmpty) 3 + actionNow s * 2 ^ 4 + bitIf (s.seq.ramp == some .runReset) 8
  | .seqT =>
    let t := streamGet s (i + 1)
    bitIf t.ended 0 + bitIf t.wait.isSome 1 + bitIf (assembling s i) 2
  | .upd =>
    let r := updGet s i
    if r.active.isNone then 0 else if r.waiting.isSome then 2 else 1
  | .cfl => s.cfl.ledgerMode + bitIf (s.cfl.ops.any (treeWaits s)) 2
  | .ngl =>
    let r := portGet s i
    portCode r.st + bitIf (portUsed s i) 3 + r.mismatch * 2 ^ 4 + (if r.st == .up || r.st == .ident || r.st == .held then 0xff00 else 0)
  | .lcu => bitIf (!(heldItems s i).isEmpty || !(portGet s i).drains.isEmpty) 0
  | .hst => hlinkCode s.hst.link + bitIf (s.hst.synced && !s.hst.unreachable) 2
  | .mbx => if !s.mp.started then 0 else if s.mp.overloaded then 6 else 1
  | .sec => bitIf s.mp.idFault 0 + bitIf s.mp.opkey.isSome 1 + bitIf s.mp.fallback 2 + bitIf s.mp.pendSlot.isSome 3
      + bitIf (s.mp.slot == 1) 4 + bitIf (pgGet s .sec 0 0x124 != 0) 5
  | .pwrM => peuCode s.pwr.peu + bitIf s.pwr.inLow 3 + bitIf s.pwr.inHigh 4
  | .pwrT =>
    let g := stageGet s i
    (List.range 16).countP (fun k => !g.fail.getLsbD k) + bitIf g.fault 5 + min 8 (creditsHeld s i) * 2 ^ 6
      + bitIf ((List.range 192).any (fun k => (reguGet s (i * 192 + k)).ramp == some 1)) 10
  | .thm => capBind s + bitIf s.thm.fixedNow 2 + bitIf (s.seq.dev == .safe) 4 + s.thm.cause * 2 ^ 5
      + bitIf s.thm.faultIn 8 + bitIf s.thm.faultOut 9 + bitIf s.thm.faultFlow 10
  | .tel => 0

/-! ### Block-specific registers that are read only -/

/-- Bits of the slots in a state. -/
def slotBits (g : Ring) (x : SlotSt) : Nat := (g.st.mapIdx (fun k y => bitIf (y == x) k)).sum

/-- Ring registers (Table 7.8). -/
def viewRing (g : Ring) (o : Nat) : Nat :=
  match o with
  | 0x00 => bitIf g.en 0 + g.slots * 2 ^ 8 + g.uses * 2 ^ 16
  | 0x04 => g.base
  | 0x08 => g.slotRows + g.rowWords * 2 ^ 16
  | 0x0c => g.head + g.tail * 2 ^ 4 + g.ucnt * 2 ^ 8 + slotBits g .full * 2 ^ 16
  | 0x10 => g.rpos
  | 0x14 => slotBits g .filling
  | _ => 0

/-- Array registers (Table 2.12). -/
def viewArr (s : State) (a o : Nat) : Nat :=
  let r := arrGet s a
  match o with
  | 0x100 => a + tileOf a * 2 ^ 12 + rowOf a * 2 ^ 16 + colOf a * 2 ^ 20
  | 0x104 => match r.slot with
    | some k => k + 2 ^ 8
    | none => 0
  | 0x108 => arrClk s a
  | 0x10c => arrVolt s a
  | 0x110 => r.pc
  | 0x114 => r.prog.length
  | 0x118 => r.eddy
  | 0x11c => r.oslots.countP (fun e => !e.2.isEmpty)
  | 0x120 => r.darkStep.toNat
  | _ => 0

/-- Row-engine registers (Table 6.14). -/
def viewRow (s : State) (a o : Nat) : Nat :=
  let r := arrGet s a
  match o with
  | 0x100 => r.rprog.length
  | 0x104 => r.dpc
  | 0x108 => r.statHigh
  | 0x10c => (r.nanRow.getD (0, 0)).1
  | 0x110 => (r.nanRow.getD (0, 0)).2
  | _ => 0

/-- Index of the oldest descriptor not completed: of those in progress, held in a ring's queue or in the issue queue the
one that was issued first. It reads 0 where there is none (assumption 123). -/
def dmaOldest (s : State) (e : Nat) : Nat :=
  ((dmaGet s e).busy.map (fun (b : DmaBusy) => b.no * 2 ^ 24 + b.idx) ++ (heldFills s e).map (fun (f : DmaRef) => f.no * 2 ^ 24 + f.idx)
    ++ (aget (fun _ => []) s.seq.issueQ (e / 24 * 64 + e % 24)).map (fun (r : Range) => r.no * 2 ^ 24 + r.first)).min?.getD 0 % 2 ^ 24

/-- DMA registers (Table 7.11). -/
def viewDma (s : State) (e o : Nat) : Nat :=
  let r := dmaGet s e
  match o with
  | 0x100 => r.issued
  | 0x104 => r.done
  | 0x108 => dmaOldest s e
  | 0x10c => match r.poison with
    | some k => k + 2 ^ 31
    | none => 0
  | 0x110 => r.last
  | _ => 0

/-- The pseudo-channel with the fewest primary rows free. -/
def fewestPrim (b : Hbm) : Nat :=
  (List.range 32).foldl (fun m k => if (poolUsed b 1 m).length < (poolUsed b 1 k).length then k else m) 0

/-- HBM registers (Table 8.10). -/
def viewHbm (s : State) (k o : Nat) : Nat :=
  let b := hbmGet s k
  match o with
  | 0x108 =>
    let cull := (List.range 32).foldl (fun m c => max m (poolUsed b 2 c).length) 0
    (primRows - (poolUsed b 1 (fewestPrim b)).length) + (cullRows - cull) * 2 ^ 8 + fewestPrim b * 2 ^ 16
  | 0x114 => b.marginErr + bitIf b.marginDone 16
  | _ => 0

/-- The present stack with the fewest free pages. -/
def fewestFree (s : State) : Nat :=
  match s.fit.hbmFitted with
  | [] => 0
  | k :: r => r.foldl (fun m j => if freeRaw s j < freeRaw s m then j else m) k

/-- Placement registers (Table 8.13). -/
def viewPlc (s : State) (o : Nat) : Nat :=
  match o with
  | 0x100 => s.mem.tensors.countP (fun e => e.2.isSome)
  | 0x104 => (s.fit.hbmFitted.map (freePages s)).sum
  | 0x108 => freeRaw s (fewestFree s) + fewestFree s * 2 ^ 16
  | 0x10c => s.mem.retired.length
  | 0x110 => s.mem.lastRetire.1
  | 0x114 => s.mem.lastRetire.2
  | _ => 0

/-- SEQ_CFG_STAT (Table 16.7). -/
def cfgStat (s : State) : Nat :=
  ((List.range 8).map (fun k => bitIf ((aget (fun _ => none) s.seq.overlays k).isSome) k
    + bitIf (s.seq.applies.any (fun a => a.slot == k)) (8 + k))).sum + s.seq.mode * 2 ^ 16 + s.seq.cfgBase * 2 ^ 24

/-- Root sequencer registers (Tables 9.19, 16.7). -/
def viewSeqR (s : State) (o : Nat) : Nat :=
  if 0x200 ≤ o ∧ o < 0x300 then eventGet s ((o - 0x200) / 4)
  else match o with
    | 0x100 => s.seq.haltStatus.toNat + s.seq.haltAction * 2 ^ 16
    | 0x104 => (stepS s).toNat
    | 0x108 => (stepS s).toNat / 2 ^ 32
    | 0x10c => s.seq.stepsLeft
    | 0x110 => s.seq.reject.toNat
    | 0x11c => match s.seq.prog with
      | some p => p.handle
      | none => 0
    | 0x120 => match (streamGet s 0).wait with
      | some w => w.name + 2 ^ 31
      | none => 0
    | 0x134 => cfgStat s
    | 0x138 => s.seq.resetCause
    | _ => 0

/-- Tile sequencer registers (Table 9.19). -/
def viewSeqT (s : State) (t o : Nat) : Nat :=
  if 0x400 ≤ o ∧ o < 0x7fc then cidGet s t ((o - 0x400) / 4)
  else match o with
    | 0x100 => (streamGet s (t + 1)).spc
    | 0x104 => match (streamGet s (t + 1)).wait with
      | some w => w.name + w.op * 2 ^ 16 + 2 ^ 31
      | none => 0
    | 0x108 => min 15 (spares s t).length
        + min 15 ((List.range 192).countP (fun k => (arrGet s (t * 192 + k)).st == .dark)) * 2 ^ 8
    | 0x10c => ((List.range 64).map (fun u => (aget (fun _ => []) s.seq.issueQ (t * 64 + u)).length)).sum
    | _ => 0

/-- Update unit registers (Table 10.9). -/
def viewUpd (s : State) (u o : Nat) : Nat :=
  let r := updGet s u
  match o with
  | 0x100 => match r.active with
    | some a => a.1 + 2 ^ 31
    | none => 0
  | 0x104 => r.lastNorm.toNat
  | 0x108 => r.lastClip.toNat
  | 0x10c => match r.touchErr with
    | some k => k + 2 ^ 31
    | none => 0
  | 0x110 => r.touchN
  | _ => 0

/-- CFL_LEDGER_N: committed entries, or in replay the first entry of the current step or later. -/
def ledgerN (s : State) : Nat :=
  let n := memNat s s.cfl.ledgerH 0 8
  if s.cfl.ledgerMode = 2 then
    (List.range n).countP (fun i => decide (memNat s s.cfl.ledgerH (16 + 16 * i) 8 < (stepS s).toNat))
  else if s.cfl.ledgerMode = 1 then n
  else 0

/-- Confluence registers (Table 11.17). -/
def viewCfl (s : State) (o : Nat) : Nat :=
  match o with
  | 0x104 => myIndex s + bitIf (myIndex s == 0) 6
  | 0x10c => s.cfl.policyNow.toNat
  | 0x120 => s.cfl.ledgerH + s.cfl.ledgerMode * 2 ^ 24
  | 0x124 => ledgerN s
  | 0x128 => s.cfl.lateMap.toNat
  | 0x12c => s.cfl.lateMap.toNat / 2 ^ 32
  | 0x130 => match s.cfl.err with
    | some k => k + 2 ^ 31
    | none => 0
  | 0x134 => s.cfl.peer.toNat
  | _ => 0

/-- Peer port registers (Table 11.16). -/
def viewNgl (s : State) (p o : Nat) : Nat :=
  match (portGet s p).nbr with
  | none => 0
  | some r => match o with
    | 0x10c => r.moduleId.toNat
    | 0x110 => r.moduleId.toNat / 2 ^ 32
    | 0x114 => r.pop.toNat % 2 + r.port.toNat % 8 * 2 + r.coord.toNat % 64 * 2 ^ 8 + r.shape.toNat * 2 ^ 16 + r.reachIndex.toNat * 2 ^ 24
    | _ => 0

/-- Pages with nonzero INT_STAT of present blocks, with their types. -/
def intPages (s : State) : List (Pg × Nat) :=
  pageKinds.flatMap (fun p => ((List.range p.count).filter (fun i => presentPage s.fit p i && intStat s p i != 0)).map (fun i => (p, i)))

/-- Host port registers (Tables 12.11, 17.5). -/
def viewHst (s : State) (o : Nat) : Nat :=
  if 0x140 ≤ o ∧ o < 0x180 then
    let q := queueGet s ((o - 0x140) / 4)
    q.head % 2 ^ 16 + q.tail % 2 ^ 16 * 2 ^ 16
  else match o with
    | 0x138 => leNat (s.fit.mac.take 4)
    | 0x13c => leNat ((s.fit.mac.drop 4).take 2)
    | 0x184 => ((List.range 19).map (fun c => bitIf ((intPages s).any (fun e => e.1.type == c)) c)).sum
    | 0x18c => (intPages s).countP (fun e => irqRouted s e.1)
    | _ => 0

/-- A mailbox channel. -/
def chanGet (s : State) (c : Nat) : Chan := aget (fun _ => {}) s.mp.chans c

/-- The firmware slot that runs. -/
def fwSlot (s : State) (k : Nat) : FwSlot := s.mp.fw.getD k {}
/-- VERSION in a slot, 0 when its signature fails. -/
def fwVersion (s : State) (k : Nat) : Nat := if (fwSlot s k).sigOk then (fwSlot s k).version else 0
/-- MIN_VER: its flash record, or 0 when the record's signature fails (R414). -/
def minVerNow (m : Mgmt) : Nat := if m.minBad then 0 else m.minVer
/-- VERSION that SEC_FW_A, SEC_FW_B and INFO show: 0 when the slot is invalid (R414, Table 15.17). -/
def fwShown (s : State) (k : Nat) : Nat := if minVerNow s.mp ≤ fwVersion s k then fwVersion s k else 0

/-- Mailbox registers (Table 15.14). -/
def viewMbx (s : State) (o : Nat) : Nat :=
  if o < 0x120 then
    let c := chanGet s ((o - 0x100) / 4)
    c.inb + bitIf c.outWait 2 + c.chunks % 256 * 2 ^ 8 + c.tag.toNat * 2 ^ 16
  else match o with
    | 0x120 => s.mp.util
    | 0x128 => if s.mp.started then fwVersion s s.mp.slot else 0
    | 0x12c => if s.mp.ring = [] then 0 else s.mp.ringBase + s.mp.ring.length - 1
    | _ => 0

/-- Security registers (Table 15.16). -/
def viewSec (s : State) (o : Nat) : Nat :=
  if 0x200 ≤ o ∧ o < 0x400 then leNat (((measure s ((o - 0x200) / 64)).drop ((o - 0x200) % 64)).take 4)
  else match o with
    | 0x100 => (moduleId s).toNat
    | 0x104 => (moduleId s).toNat / 2 ^ 32
    | 0x108 => (opkeyId s).toNat
    | 0x10c => (opkeyId s).toNat / 2 ^ 32
    | 0x110 => s.mp.counter.toNat
    | 0x114 => s.mp.counter.toNat / 2 ^ 32
    | 0x118 => fwShown s 0
    | 0x11c => fwShown s 1
    | 0x120 => minVerNow s.mp
    | 0x128 => s.fit.pufErr
    | _ => 0

/-- PWR_ARR STATE (Table 13.13). -/
def reguState (s : State) (a : Nat) : Nat :=
  match (reguGet s a).ramp with
  | some 1 => 1
  | some _ => 2
  | none => match (arrGet s a).st with
    | .retention => 3
    | .idle | .running | .atWeir => 4
    | _ => 0

/-- Current limit of a regulator in 0.1 A by its phases (R361). -/
def reguLimit (w : Nat) : Nat := 15 * w

/-- A regulator drives its phases: its domain is powered, or in its lehr ramp from the pre-charge on. -/
def reguDrives (s : State) (a : Nat) : Bool := 2 ≤ reguState s a

/-- PWR_ARR (Table 13.13). -/
def viewRegu (s : State) (a : Nat) : Nat :=
  let r := reguGet s a
  let w := if reguDrives s a then phasesW r else 0
  r.fail.toNat + bitIf r.ctrlFail 6 + bitIf r.lendM 7 + bitIf r.lendP 8 + bitIf r.borM 9 + bitIf r.borP 10
    + bitIf r.tiedTo.isSome 11 + bitIf r.hosts.isSome 12 + bitIf ((arrGet s a).st == .dark) 13 + bitIf r.exclReq 14
    + w * 2 ^ 16 + reguLimit w * 2 ^ 20 + reguState s a * 2 ^ 28

/-- What a block-specific register that is computed from the state reads; `none` for one held in `regs`. -/
def blkView (s : State) (p : Pg) (i o : Nat) : Option Nat :=
  if (blkReg p o).isSome then none
  else match p with
    | .arr => some (viewArr s i o)
    | .row => some (viewRow s i o)
    | .grg => if o < 0x180 then some (viewRing ((arrGet s i).rings.getD ((o - 0x100) / 0x20) {}) (o % 0x20)) else some 0
    | .dma => some (viewDma s i o)
    | .msc => if o = 0x104 then some (dirtyLines s i) else none
    | .hbm => some (viewHbm s i o)
    | .plc => some (viewPlc s o)
    | .seqR => some (viewSeqR s o)
    | .seqT => some (viewSeqT s i o)
    | .upd => some (viewUpd s i o)
    | .cfl => some (viewCfl s o)
    | .ngl => if o = 0x124 then none else some (viewNgl s i o)
    | .lcu => if o = 0x100 then some (heldItems s i).length else some 0
    | .hst => some (viewHst s o)
    | .mbx => if o = 0x124 ∨ o = 0x130 then none else if o < 0x134 then some (viewMbx s o) else some 0
    | .sec => if o = 0x124 then none else some (viewSec s o)
    | .pwrM => if o = 0x110 then some s.pwr.lastOff else none
    | .pwrT => if 0x200 ≤ o ∧ o < 0x500 then some (viewRegu s (i * 192 + (o - 0x200) / 4)) else none
    | _ => none

/-! ### Reads (R443, R444, R451, R452) -/

/-- Whether a page's test registers are open (R472). -/
def tstOpen (s : State) (p : Pg) : Bool := match tstScope p with
  | some b => (pgGet s .sec 0 0x124).getLsbD b
  | none => false

/-- A half of a live counter or of its latched copy. -/
def ctrWord (m : AMap DWord) (off : Nat) : Word :=
  let v := aget ctrReset m (off / 8 * 8)
  if off % 8 = 0 then v.truncate 32 else (v >>> 32).truncate 32

/-- Register `o` of a present page as it stands. -/
def readPage (s : State) (p : Pg) (i o : Nat) : Word :=
  let base := pageBase p i
  if o < 0x20 && 0x10 ≤ o && p.intMask = 0 then 0
  else if o < 0x28 then
    match o with
    | 0x00 => blkId s p i
    | 0x04 => w32 (blkCap s p i)
    | 0x08 => pgGet s p i 8
    | 0x0c => w32 (blkStat s p i)
    | 0x10 | 0x18 => pgGet s p i 0x10
    | 0x14 => pgGet s p i 0x14
    | 0x1c => intStat s p i
    | 0x24 => aget (fun _ => s.perSeq) s.perPage base
    | _ => 0
  else if o < 0x80 then 0
  else if o < 0x100 then (if tstOpen s p && ((tstReg p o).isSome || tstDone p == some o) then pgGet s p i o else 0)
  else if o < 0xc00 then
    match blkView s p i o with
    | some n => w32 n
    | none => if woReg p o then 0 else pgGet s p i o
  else if o < 0xe00 then ctrWord s.ctr (base + o)
  else ctrWord s.lat (base + o - 0x200)

/-- What an offset reads, the holding register left out: unmapped offsets and absent pages read zero (Table 17.1). -/
def readNow (s : State) (off : Nat) : Word :=
  match pageOf off with
  | none => 0
  | some (p, i) => if presentPage s.fit p i then readPage s p i (off % 0x1000) else 0

/-- Low halves of 64-bit pairs (R452). -/
def lowHalf (off : Nat) : Bool :=
  match pageOf off with
  | none => false
  | some (p, _) =>
    let o := off % 0x1000
    (0xc00 ≤ o && o % 8 == 0) || (p == .seqR && o == 0x104) || (p == .sec && o == 0x110) || (p == .tel && o == 0x100)

/-- Readings of sensors that the manual leaves to the unit, by the lowest and highest value that it allows: each read takes
a free value, assumption 26. A tile rail is regulated to 1.60 V within 2 % unless its stage is in fault (R358, R360). -/
def freeReading (s : State) (off : Nat) : Option (Nat × Nat) :=
  match pageOf off with
  | none => none
  | some (p, i) =>
    let o := off % 0x1000
    if !presentPage s.fit p i then none
    else match p, o with
      | .pwrT, 0x100 => some (if (stageGet s i).fault then (0, 0) else (1568, 1632))
      | .hbm, 0x118 => some (0, 0xff)
      | _, _ => none

/-- Fields of BLK_STAT that depend on time or temperature: SLOPE_HOLD while a decrement may wait, and REFRESH of a stack in
operation, at least the rate that TST_REF_CTRL asks for (R198, R385, R476). Free, assumption 26. -/
def freeField (s : State) (off : Nat) : Word × State :=
  match pageOf off with
  | some (.thm, _) =>
    if off % 0x1000 = 0x0c ∧ slopeMay s = true then
      let (n, s) := draw s
      (w32 (bitIf (Config.freeBool n) 3), s)
    else (0, s)
  | some (.hbm, i) =>
    if off % 0x1000 = 0x0c ∧ (hbmGet s i).st = .operating then
      let (n, s) := draw s
      (w32 (min 2 (max ((Config.freeWord n).toNat % 3) ((pgGet s .hbm i 0x080).toNat % 4)) * 2 ^ 4), s)
    else (0, s)
  | _ => (0, s)

/-- The holding register of a requester. -/
def holdOf (s : State) : Requester → Option Hold
  | .host => s.holdHost
  | .mp => s.holdMp
/-- Sets the holding register of a requester. -/
def setHold (s : State) (r : Requester) (h : Hold) : State := match r with
  | .host => { s with holdHost := some h }
  | .mp => { s with holdMp := some h }

/-- A read without the holding register. -/
def readPlain (s : State) (off : Nat) : Word × State :=
  let r := freeField s off
  (readNow s off ||| r.1, r.2)

/-- A register read by a requester (R443, R452). -/
def readReg (s : State) (r : Requester) (off : Nat) : Word × State :=
  match freeReading s off with
  | some (lo, hi) =>
    let (v, s) := freeUpTo s (hi - lo)
    (w32 (lo + v), s)
  | none =>
    if lowHalf off then (readNow s off, setHold s r { off := off, val := readNow s (off + 4) })
    else match holdOf s r with
      | some h => if off = h.off + 4 then (h.val, s) else readPlain s off
      | none => readPlain s off

/-! ### Writes (R8, R9, R443) -/

/-- Access of a register offset (Table 17.2). -/
inductive Acc where
  | ro | wo | rw | w1s | w1c | snap
deriving DecidableEq, Repr

/-- Access of register `o` of a page. -/
def regAcc (p : Pg) (o : Nat) : Acc :=
  if o = 0x08 then .rw
  else if o = 0x10 then (if p.intMask = 0 then .ro else .w1s)
  else if o = 0x14 then (if p.intMask = 0 then .ro else .rw)
  else if o = 0x18 then (if p.intMask = 0 then .ro else .w1c)
  else if o = 0x20 then .snap
  else if woReg p o then .wo
  else if (tstReg p o).isSome || (blkReg p o).isSome then .rw
  else .ro

/-- Writable bits of an RW register. -/
def regMask (p : Pg) (o : Nat) : Word :=
  if o = 0x08 then (ctrlReg p).2
  else if o = 0x14 then p.intMask
  else match blkReg p o with
    | some r => r.2
    | none => match tstReg p o with
      | some r => r.2
      | none => 0

/-- A value outside a range. -/
def outside (lo hi n : Nat) : Bool := decide (n < lo ∨ hi < n)

/-- The register's own rule on a write (home chapters): the status, OK when it may be written. -/
def regRule (s : State) (p : Pg) (o : Nat) (v : Word) : Half :=
  let n := (v &&& regMask p o).toNat
  let run := s.seq.dev == .running
  let len (b : Bool) : Half := if b then stLen else stOK
  let res (b : Bool) : Half := if b then stField else stOK
  if (tstReg p o).isSome then
    (if !tstOpen s p then stAuth
     else match p, o with
      | .ngl, 0x084 | .hst, 0x084 => len (decide (1000000 < n))
      | .ngl, 0x088 | .hst, 0x088 => len (n == 0)
      | .grg, 0x088 => len (outside 1 16 n)
      | .hbm, 0x080 => res (n % 4 == 3)
      | .hbm, 0x084 => len (n == 0)
      | .hbm, 0x088 => len (n / 2 ^ 16 == 0)
      | .grg, _ => stOK
      | .ngl, _ | .hst, _ => stOK
      | _, 0x088 => len (decide (256 < n))
      | _, _ => stOK)
  else match p, o with
    | .hbm, 0x100 => len (decide (16 < n % 16 + n / 16 % 16 + n / 256 % 16 + n / 4096 % 16))
    | .hbm, 0x104 => res (n == 0)
    -- OFFSET is a seven-bit two's complement number from -32 to 32 (Table 8.5)
    | .hbm, 0x10c => len (decide (32 < n / 2 ^ 8 % 128 ∧ n / 2 ^ 8 % 128 < 96))
    | .seqR, 0x114 => len (outside 640 65535 n)
    | .seqR, 0x118 => res (n == 0)
    | .cfl, 0x100 => if run then stState else stOK
    | .cfl, 0x108 =>
      let bad := (List.range 4).any (fun c => decide (n / 4 ^ c % 4 = 3))
      if s.seq.mode = 4 ∧ n ≠ 0 then stState else res bad
    | .cfl, 0x110 | .cfl, 0x114 | .cfl, 0x118 | .cfl, 0x11c => res (n == 0)
    | .ngl, 0x100 | .ngl, 0x104 | .ngl, 0x108 => if run then stState else stOK
    | .ngl, 0x11c => len (decide (63 < n % 64 + n / 64 % 64 + n / 4096 % 64))
    | .hst, 0x124 | .hst, 0x128 => res (n == 0)
    | .hst, 0x134 => res (n / 2 ^ 16 == 0)
    | .pwrT, 0x108 => len (decide (560 < n))
    | .pwrT, 0x10c => len (outside 1000 9000 n)
    | .pwrT, 0x110 => len (outside 1 1000 n)
    | .pwrT, 0x114 => len (outside 1 8 n)
    | .thm, 0x100 => len (outside 1000 4000 n)
    | .thm, 0x114 => len (outside 2000 200000 n)
    | .thm, 0x118 => len (outside 70 94 n)
    | .thm, 0x11c => len (outside 100 40000 n)
    | .thm, 0x120 => len (outside 5000 40000 n)
    | .thm, 0x124 => len (outside 10 1000 n)
    | .thm, 0x128 => len (outside 1 3600 n)
    | _, _ => stOK

/-- A peer port enters TRAINING: the PMD is read (Table 11.14). -/
def portTrain (s : State) (i : Nat) : State :=
  portMod s i (fun r => { r with st := .training, attempts := 0, pmd := ((pgGet s .ngl i 8).toNat / 2) % 2 })

/-- ENABLE of a peer port or of the host port acts (Table 11.2, R329). -/
def ctrlAction (s : State) (p : Pg) (i : Nat) : State :=
  let en := (pgGet s p i 8).getLsbD 0
  match p with
  | .plc => checkMigs s
  | .ngl =>
    let st := (portGet s i).st
    if en && st == .down then portTrain s i
    else if !en && st != .down then portMod s i (fun r => { r with st := .down, nbr := none, mismatch := 0, attempts := 0 })
    else s
  | .hst =>
    if en && s.hst.link == .down then { s with hst := { s.hst with link := .training, pmd := ((pgGet s .hst 0 8).toNat / 2) % 2 } }
    else if !en && s.hst.link != .down then
      let up := s.hst.link == .up
      let s := { s with hst := { s.hst with link := .down } }
      if up then setInt s .hst 0 2 else s
    else s
  | _ => s

/-- A write to an NGL_EXP_ register runs IDENT again on a port in HELD (Table 11.2). -/
def expAction (s : State) (i : Nat) : State :=
  if (portGet s i).st == .held then
    portIdent (portMod s i (fun r => { r with mismatch := 0, nbr := none })) i (portRecord s i)
  else s

/-- What follows the write of an RW register. -/
def afterWrite (s : State) (p : Pg) (i o : Nat) : State :=
  if o = 8 then ctrlAction s p i
  else match p, o with
    | .ngl, 0x100 | .ngl, 0x104 | .ngl, 0x108 => expAction s i
    | .thm, 0x114 => if s.thm.moved then s
        else thermalUpdate { s with thm := { s.thm with theta := (thmNat s 0x114 : Rat) / 1000000 } }
    | _, _ => s

/-- A write of a register other than a WO one, with its status (Table 17.1). -/
def rwWrite (s : State) (off : Nat) (v : Word) : State × Half :=
  if off % 4 ≠ 0 then (s, stField)
  else match pageOf off with
    | none => (s, stOK)
    | some (p, i) =>
      let o := off % 0x1000
      if !presentPage s.fit p i then (s, stOK)
      else match regAcc p o with
        | .ro | .wo => (s, if tstDone p == some o && !tstOpen s p then stAuth else stField)
        | .w1s => (setInt s p i (v &&& p.intMask), stOK)
        | .w1c => (pgSet s p i 0x10 (pgGet s p i 0x10 &&& ~~~v), stOK)
        | .snap =>
          if v.getLsbD 0 then (if s.seq.dev = .running then (s, stState) else (pageLatch s p i, stOK)) else (s, stOK)
        | .rw =>
          let e := regRule s p o v
          if e ≠ stOK then (s, e)
          else
            let before := intStat s p i
            let s := pgSet s p i o (v &&& regMask p o)
            (afterWrite (if o = 0x14 then irqTouch s p i before else s) p i o, stOK)

end Sys2Proof.Machine
end

