-- ==== Sys2Proof/Machine/Images.lean ====
section
/-! DEFINITION. Configuration images and overlays (R431 to R438): their checks, CONFIG, the three actions of OVERLAY, and the
application of due overlays at action 5. -/

namespace Sys2Proof.Machine

/-! ### Command fields (R256, R260) -/

/-- The bits of some fields, each given by its lowest bit and width. -/
def fieldMask (fs : List (Nat × Nat)) : Cmd := fs.foldl (fun m f => m ||| (BitVec.ofNat 512 (2 ^ f.2 - 1) <<< f.1)) 0

/-- A reserved bit of a command is nonzero: every bit outside opcode, flags, tag and the fields named. -/
def cmdRsvd (w : Cmd) (fs : List (Nat × Nat)) : Bool := (w &&& ~~~(fieldMask ((0, 11) :: (16, 16) :: fs))) != 0

/-- What is wrong with a tensor extent that must be of class SPILL. -/
def spillCheck (s : State) (h off len : Nat) : List Half :=
  match tensorOf s h with
  | none => [stHandle]
  | some t => chk (t.cls != 4) stHandle ++ chk (t.size < off + len) stLen

/-! ### Images (Table 16.5, R432) -/

/-- COUNT of an image's header. -/
def imgCount (bs : List Byte) : Nat := leNat ((bs.drop 8).take 4)
/-- MODE of an image's header. -/
def imgMode (bs : List Byte) : Nat := (bs.getD 5 0).toNat
/-- The entries that lie within an image: offset and value. -/
def imgEntries (bs : List Byte) : List (Nat × Word) :=
  (List.range (min (imgCount bs) ((bs.length - 64) / 8))).map (fun i =>
    (leNat ((bs.drop (64 + 8 * i)).take 4), BitVec.ofNat 32 (leNat ((bs.drop (68 + 8 * i)).take 4))))

/-- Registers that an overlay may write (Table 16.9). -/
def overlayMay (off : Nat) : Bool :=
  let o := off % 0x1000
  match pageOf off with
  | some (.cfl, _) => [0x108, 0x110, 0x114, 0x118, 0x11c].contains o
  | some (.thm, _) => [0x008, 0x100, 0x118, 0x11c, 0x120].contains o
  | some (.hbm, _) => [0x008, 0x100, 0x104].contains o
  | some (.msc, _) => o == 0x100
  | some (.plc, _) => o == 0x008
  | some (.seqR, _) => [0x114, 0x118].contains o
  | some (.ngl, _) => o == 0x118
  | some (.hst, _) => [0x12c, 0x134].contains o
  | some (.pwrT, _) => [0x108, 0x10c, 0x110, 0x114].contains o
  | _ => false

/-- The checks of R432 on one entry. -/
def entryCheck (s : State) (overlay : Bool) (e : Nat × Word) : List Half :=
  let o := e.1 % 0x1000
  chk (e.1 % 4 != 0 || (overlay && !overlayMay e.1)) stField
  ++ match pageOf e.1 with
    | none => [stField]
    | some (p, i) =>
      let acc := regAcc p o
      chk (!presentPage s.fit p i || acc == .ro || acc == .wo || (tstReg p o).isSome) stField
      ++ (if acc == .rw && (tstReg p o).isNone then [regRule s p o e.2]
          else chk (acc == .snap && e.2.getLsbD 0 && s.seq.dev == .running) stState)

/-- MODE codes that an overlay may hold (Table 16.8). -/
def modeOk (m : Nat) : Bool := m ≤ 5 || (0x80 ≤ m && m ≤ 0xff)

/-- The checks of R432 on an image. -/
def imageCheck (s : State) (overlay : Bool) (bs : List Byte) : List Half :=
  let magic := if overlay then 0x564f4b48 else 0x47434b48
  chk (leNat (bs.take 4) != magic || bs.getD 4 0 != 1 || (if overlay then !modeOk (imgMode bs) else imgMode bs != 0)
    || ((bs.drop 6).take 2).any (· != 0) || ((bs.drop 12).take 52).any (· != 0)) stField
  ++ chk ((if overlay then 256 else 4096) < imgCount bs || bs.length != 64 + 8 * imgCount bs) stLen
  ++ (imgEntries bs).flatMap (entryCheck s overlay)

/-- The checks of an image that lies within its tensor, whatever the tensor's class (R18). -/
def imageAt (s : State) (overlay : Bool) (h off len : Nat) : List Half :=
  match tensorOf s h with
  | none => []
  | some t => if t.size < off + len then [] else imageCheck s overlay (tensorBytes s h off len)

/-- Writes entries in order (R432). -/
def writeEntries (s : State) (es : List (Nat × Word)) : State := es.foldl (fun s e => (rwWrite s e.1 e.2).1) s

/-! ### CONFIG (R433) -/

/-- The checks of CONFIG and of the image it names; LENGTH 0 checks no image (R431). -/
def configCheck (s : State) (w : Cmd) : List Half :=
  let h := cmdNat w 4 3
  let off := cmdNat w 8 5
  let len := cmdNat w 16 4
  chk (cmdRsvd w [(32, 24), (64, 40), (128, 32), (160, 1)]) stField
  ++ (if len = 0 then [] else
spillCheck s h off len ++ imageAt s false h off len)

/-- CONFIG: the image is applied and becomes the base image in force; STORE keeps it in flash. -/
def configEffect (c : CmdRef) (s : State) : State :=
  let len := cmdNat c.w 16 4
  if len = 0 then complete s c stOK 0
  else
    let bs := tensorBytes s (cmdNat c.w 4 4) (cmdNat c.w 8 5) len
    let es := imgEntries bs
    let s := measExtend (writeEntries (seqReads (cmdNat c.w 4 4) (cmdNat c.w 8 5) len s) es) 4 bs
    let s := { s with seq := { s.seq with baseImage := es, cfgBase := 2, mode := 0 } }
    let s := if c.w.getLsbD 160 then { s with mp := { s.mp with stored := some bs } } else s
    complete s c stOK 0

/-! ### OVERLAY (R436) -/

/-- ACTION and SLOT of an OVERLAY. -/
def ovAction (w : Cmd) : Nat := cmdNat w 4 1
def ovSlot (w : Cmd) : Nat := fld w 40 3

/-- The overlay in a slot, and whether the slot is pending. -/
def ovGet (s : State) (k : Nat) : Option Overlay := aget (fun _ => none) s.seq.overlays k
def ovPending (s : State) (k : Nat) : Bool := s.seq.applies.any (fun a => a.slot == k)
/-- Sets a slot. -/
def ovSet (s : State) (k : Nat) (v : Option Overlay) : State :=
  { s with seq := { s.seq with overlays := aset (fun _ => none) s.seq.overlays k v } }

/-- LOAD: checks. -/
def overlayLoadCheck (s : State) (w : Cmd) : List Half :=
  let h := cmdNat w 8 3
  let off := cmdNat w 12 5
  let len := cmdNat w 20 4
  chk (cmdRsvd w [(32, 8), (40, 3), (64, 24), (96, 40), (160, 32)]) stField
  ++ (if len = 0 then [] else
chk (ovPending s (ovSlot w)) stState ++ spillCheck s h off len ++ imageAt s true h off len)

/-- LOAD: the image is stored in the slot. -/
def overlayLoadEffect (c : CmdRef) (s : State) : State :=
  let len := cmdNat c.w 20 4
  if len = 0 then complete s c stOK 0
  else
    let bs := tensorBytes s (cmdNat c.w 8 4) (cmdNat c.w 12 5) len
    let s := seqReads (cmdNat c.w 8 4) (cmdNat c.w 12 5) len s
    complete (ovSet s (ovSlot c.w) (some { mode := imgMode bs, bytes := bs, entries := imgEntries bs })) c stOK 0

/-- APPLY: checks. -/
def overlayApplyCheck (s : State) (w : Cmd) : List Half :=
  let st := cmdNat w 24 8
  chk (cmdRsvd w [(32, 8), (40, 3), (192, 64)]) stField
  ++ chk (ovPending s (ovSlot w) || (st != 0 && st < (stepS s).toNat)) stState
  ++ chk (ovGet s (ovSlot w)).isNone stSlotEmpty

/-- APPLY: the slot is pending; the completion follows when the overlay applies. -/
def overlayApplyEffect (c : CmdRef) (s : State) : State :=
  { s with seq := { s.seq with applies := s.seq.applies ++ [{ slot := ovSlot c.w, step := cmdNat c.w 24 8, cmd := c }] } }

/-- CLEAR: checks. -/
def overlayClearCheck (s : State) (w : Cmd) : List Half :=
  chk (cmdRsvd w [(32, 8), (40, 3)]) stField ++ chk (ovPending s (ovSlot w)) stState

/-- CLEAR empties the slot. -/
def overlayClearEffect (c : CmdRef) (s : State) : State := complete (ovSet s (ovSlot c.w) none) c stOK 0

/-! ### Action 5 (R437) -/

/-- Offset of CFL_POLICY. -/
def cflPolicyOff : Nat := pageBase .cfl 0 + 0x108

/-- One pending overlay applies, or its APPLY ends with the status of the entry that is rejected. -/
def applyOne (s : State) (a : Apply) : State :=
  let s := { s with seq := { s.seq with applies := s.seq.applies.erase a } }
  match ovGet s a.slot with
  | none => s
  | some v =>
    let e := pickStatus (v.entries.flatMap (entryCheck s true))
    if e ≠ stOK then reject s a.cmd e
    else
      let s := writeEntries s v.entries
      let s := if v.mode = 4 then regSet s cflPolicyOff 0 else s
      let s := measExtend { s with seq := { s.seq with mode := v.mode } } 5 v.bytes
      complete s a.cmd stOK (a.slot + v.mode * 2 ^ 8)

/-- Action 5: every overlay that is due applies, in order of acceptance. -/
def action5 (s : State) : State :=
  (s.seq.applies.filter (fun a => decide (a.step ≤ (stepS s).toNat))).foldl applyOne s

end Sys2Proof.Machine
end

