-- ==== Sys2Proof/Machine/Startup.lean ====
section
/-! DEFINITION. Start-up and resets (R413, R414, R425 to R430): what the boot sequence makes of the flash, and what each
reset keeps (Table 16.4). -/

namespace Sys2Proof.Machine

/-! ### The records of the persistent log (R223, R368) -/

/-- `n` bytes of a payload from byte `b`, as a number. -/
def payNat (e : LogEnt) (b n : Nat) : Nat := leNat ((e.payload.drop b).take n)

/-- Reapplies one power entry (Table 18.4): failed phases, loans, arrays without a controller, stage phases. -/
def replayPower (s : State) (e : LogEnt) : State :=
  match e.kind with
  | 2 => reguMod s (payNat e 0 2) (fun r => { r with fail := BitVec.ofNat 6 (payNat e 2 1) })
  | 3 =>
    let b := payNat e 0 2
    let l := payNat e 2 2
    let on := payNat e 5 1 == 1
    if payNat e 4 1 = 5 then reguMod (reguMod s l (fun r => { r with lendP := on })) b (fun r => { r with borM := on })
    else reguMod (reguMod s l (fun r => { r with lendM := on })) b (fun r => { r with borP := on })
  | 4 =>
    let a := payNat e 0 2
    arrMod (reguMod s a (fun r => { r with ctrlFail := true })) a (fun _ => { st := .dark, darkStep := w32 (payNat e 4 8) })
  | 5 =>
    let (c, s) := freeCeil s 100 1850
    stageMod s (payNat e 0 1) (fun g =>
      let g := { g with fail := g.fail ||| (1 <<< payNat e 1 1), rail := c }
      { g with fault := decide (stagePhases g < 8) })
  | _ => s

/-- Reapplies one memory entry (R223): a remap with its spare row, or a retired page. -/
def replayMemory (s : State) (e : LogEnt) : State :=
  match e.kind with
  | 6 =>
    let k := payNat e 0 1
    let pch := payNat e 1 1
    let pool := payNat e 3 1
    let n := payNat e 12 4
    hbmMod s k (fun b => { b with
      rows := aset (fun _ => {}) b.rows (rowKey pch (payNat e 2 1) (payNat e 4 4)) { count := payNat e 8 1, pool := pool, spare := n }
      prim := if pool = 1 then aset (fun _ => []) b.prim pch (poolUsed b 1 pch ++ [n]) else b.prim
      cull := if pool = 1 then b.cull else aset (fun _ => []) b.cull pch (poolUsed b 2 pch ++ [n]) })
  | 7 =>
    let k := pkey (payNat e 0 1) (payNat e 8 4)
    { s with mem := { s.mem with used := aset (fun _ => false) s.mem.used k true, retired := aset (fun _ => false) s.mem.retired k true } }
  | _ => s

/-- Arrays whose regulator lost phases: their ceilings, and the exclusion of those below four (R364, R365). -/
def reapplyRegu (s : State) : State :=
  (s.pwr.reg.map (·.1)).foldl (fun s a => if (reguGet s a).fail = 0 then s else requestExcl (setCeil s a) a) s

/-! ### Firmware (R414) -/

/-- A slot is valid. -/
def fwValid (m : Mgmt) (k : Nat) : Bool := (m.fw.getD k {}).sigOk && decide (minVerNow m ≤ (m.fw.getD k {}).version)

/-- The slot to run: a valid pending slot first, then the valid slot with the higher version, A when equal. -/
def fwSelect (m : Mgmt) : Option Nat :=
  let v (k : Nat) : Nat := (m.fw.getD k {}).version
  match m.pendSlot with
  | some k => if fwValid m k then some k else best v
  | none => best v
where
  /-- The choice between the two slots. -/
  best (v : Nat → Nat) : Option Nat :=
    if fwValid m 0 then (if fwValid m 1 && decide (v 0 < v 1) then some 1 else some 0) else if fwValid m 1 then some 1 else none

/-- The MP starts on the slot selected; it waits for ever when neither verifies. -/
def mpStart (m : Mgmt) : Mgmt :=
  match fwSelect m with
  | none => { m with started := false, pendSlot := none, fallback := m.minBad }
  | some k =>
    let v (j : Nat) : Nat := (m.fw.getD j {}).version
    { m with started := true, slot := k, pendSlot := none, fallback := m.minBad || decide (v k < max (v 0) (v 1)) }

/-! ### From power to STANDBY (R425, R434) -/

/-- Boot steps 2 to 5: identity, firmware, measurements 0 to 3. -/
def bootMgmt (s : State) : State :=
  let bad := !s.fit.pufOk || !s.fit.idSigOk || s.fit.idOther.isSome
  let m := mpStart s.mp
  let item (b : Bool) (i : MeasItem) : List MeasItem := if b then [i] else []
  let s := { s with mp := { m with
      idFault := bad
      meas := [[.bootRom], item m.started (.item (m.fw.getD m.slot {}).image), [.identity],
               [.item (m.opkey.getD (List.replicate 64 0))], [], [], [], []] } }
  if bad then setInt s .sec 0 8 else s

/-- The stored base image is applied when R432 accepts it; else 64 zero bytes are measured (R434). -/
def bootImage (s : State) : State :=
  match s.mp.stored with
  | some bs =>
    if pickStatus (imageCheck s false bs) = stOK then
      let s := measExtend (writeEntries s (imgEntries bs)) 4 bs
      { s with seq := { s.seq with baseImage := imgEntries bs, cfgBase := 0 } }
    else measExtend { s with seq := { s.seq with baseImage := [], cfgBase := 1 } } 4 (List.replicate 64 0)
  | none => measExtend { s with seq := { s.seq with baseImage := [], cfgBase := 1 } } 4 (List.replicate 64 0)

/-- The device as power or a hub reset leaves it before boot: what the flash holds, and the model's own fields. -/
def blank (s : State) : State :=
  { fit := s.fit, seq := { dev := .off }, hst := {}, log := { s.log with boot := s.log.boot + 1, todo := [] }, mp := flashOf s.mp,
    pwr := { lastOff := s.pwr.lastOff }, wire := s.wire, drawn := s.drawn, pending := s.pending }

/-- A LOG_LOST entry: entries lost, and why (Table 18.4). -/
def lostEntry (s : State) (n why : Nat) : State := if n = 0 then s else logTask s 0x0f .plc 0 0 (leBytes 4 n ++ leBytes 1 why)

/-- Entries that verify in neither copy are counted in one LOG_LOST entry (R470). -/
def logSkipped (s : State) : State := lostEntry s (s.log.records.length - (logReadable s).length) 2

/-- Entries that were still on chip when power went are counted in one LOG_LOST entry (R469). -/
def logLost (s : State) : State :=
  match (s.log.events.filter (fun e => e.kind == 1)).getLast? with
  | none => s
  | some e => lostEntry s (payNat e 2 2) 1

/-- A FIRMWARE entry (Table 18.4). -/
def logFirmware (s : State) (what version : Nat) : State := logTask s 0x0d .mbx 0 0 (leBytes 1 what ++ leBytes 4 version)
/-- A RESET entry (R429, Table 18.4). -/
def logReset (s : State) (cause : Nat) : State := logTask s 0x0a .seqR 0 0 (leBytes 1 cause)

/-- A firmware that is not the newest one has come to run. -/
def logFallback (s : State) : State := if s.mp.started && s.mp.fallback then logFirmware s 3 (fwVersion s s.mp.slot) else s

/-- What the log records of a boot (R429, R469, Table 18.4). -/
def logBoot (cause : Nat) (s : State) : State :=
  let s := logFallback (logReset (logSkipped (if cause = 0 then logLost s else s)) cause)
  if s.mp.idFault || s.fit.pufErr != 0 then logTask s 0x0e .sec 0 0 (leBytes 2 s.fit.pufErr ++ leBytes 1 (if s.mp.idFault then 1 else 0)) else s

/-- The restarted error-logging task finds what it missed: one INT entry for each page whose INT_RAW is not zero (R465). -/
def logMissed (s : State) : State :=
  pageKinds.foldl (fun s p => (List.range p.count).foldl (fun s i =>
    let v := pgGet s p i 0x10
    if presentPage s.fit p i && v != 0 then logTask s 0x0b p i 0 (leBytes 4 (pageBase p i) ++ leBytes 4 v.toNat) else s) s) s

/-- A stage that cannot start is reported at STANDBY (R360, R373). -/
def stageReport (s : State) : State :=
  if s.pwr.stage.any (fun e => e.2.fault) then setInt (haltDev s .dead stPower 0) .pwrM 0 8 else s

/-- The sequence of Table 16.1 to STANDBY (R425), with the cause for SEQ_RESET_CAUSE. -/
def bootUp (cause : Nat) (s : State) : State :=
  let s := blank s
  let es := logReadable s ++ s.log.kept
  let s := reapplyRegu (es.foldl replayPower s)
  let s := bootImage (bootMgmt s)
  let s := es.foldl replayMemory s
  let s := { s with seq := { s.seq with dev := .standby, resetCause := cause } }
  ctrlAction (stageReport (logBoot cause s)) .hst 0

/-! ### Resets (R429, R430) -/

/-- The test scope changes (R421): the register, SEC INT_RAW bit 2, and the log, with the envelope's COUNTER or 0. Registers
whose bit goes back to 0 return to their reset values (R472). -/
def scopeWrite (s : State) (v : Word) (counter : DWord) : State :=
  let old := pgGet s .sec 0 0x124
  let closed (off : Nat) : Bool := match pageOf off with
    | some (p, _) => ((tstReg p (off % 0x1000)).isSome || tstDone p == some (off % 0x1000))
        && (match tstScope p with
            | some b => old.getLsbD b && !v.getLsbD b
            | none => false)
    | none => false
  let s := { s with regs := s.regs.filter (fun e => !closed e.1) }
  let s := pgSet s .sec 0 0x124 v
  logTask (setInt s .sec 0 4) 0x0c .sec 0 0 (leBytes 4 v.toNat ++ leBytes 8 counter.toNat)

/-- TEST_ENABLE sets the scope and extends measurement 7 with it (R419, R421). -/
def setScope (s : State) (v : Word) (counter : DWord) : State := measExtend (scopeWrite s v counter) 7 (leBytes 4 v.toNat)

/-- The scope goes back to 0; without access nothing changes. -/
def closeScope (s : State) : State := if pgGet s .sec 0 0x124 = 0 then s else scopeWrite s 0 0

/-- TEST_DISABLE: each extends measurement 7 with four zero bytes, with or without access (Table 15.10). -/
def endScope (s : State) : State := measExtend (closeScope s) 7 (leBytes 4 0)

/-- What an MP reset leaves of a channel (R403): an assembly is lost; a request in service stays in its slot, to be served again
from its start. A request that was refused before any command ran is refused again. -/
def chanRestart (c : Chan) : Chan :=
  if c.inb = 1 then {}
  else if c.inb = 2 then { c with out := if c.refused.isSome then c.out else [], stale := c.outWait, waits := false }
  else c

/-- The counts of the requests that a restarted MP refuses again (Tables 15.15, 15.18). -/
def refusedAgain (s : State) : State :=
  s.mp.chans.foldl (fun s e => match e.2.refused with
    | some st =>
      let s := bump s .mbx 0 0xc20 1
      if st = stAuth then bump s .sec 0 0xc08 1 else s
    | none => s) s

/-- MP reset (R403, R415): the MP starts again, on a pending slot if there is one; the test scope and measurement 7 return to 0
(Table 16.4); once it runs, the reset is logged (R403, R429, R465). -/
def mpResetEffect (cause : Nat) (s : State) : State :=
  if s.seq.dev = .off then s
  else
    let m := mpStart s.mp
    let s := { s with mp := { m with overloaded := false, low := 0, chans := amapMap {} chanRestart m.chans },
                      seq := { s.seq with resetCause := cause }, log := { s.log with todo := [] } }
    let s := measZero (closeScope (if s.mp.started then refusedAgain s else s)) 7
    let s := logFallback (logReset (logMissed s) cause)
    if cause = 2 then logFirmware s 4 (fwVersion s s.mp.slot) else s

/-- Registers that a run reset keeps (Table 16.4): those of the HST_ and NGL_ pages, CFL_COORD, and read-only ones; test
registers never. -/
def runKeeps (off : Nat) : Bool :=
  let o := off % 0x1000
  match pageOf off with
  | none => false
  | some (p, _) =>
    if (tstReg p o).isSome || tstDone p == some o then false
    else p == .hst || p == .ngl || off == pageBase .cfl 0 + 0x100 || regAcc p o == .ro

/-- Every store of the program is released (R257). Host writes of scale records that wait for a release take effect
(assumption 129). -/
def dropProgram (s : State) : State :=
  let s := measZero (abandonStep (clearSlots (takeScaleWrites (discardWork s)))) 6
  { s with
    cfl := { s.cfl with ledgerH := 0, ledgerMode := 0, err := none, lateMap := 0, policyNow := 0 }
    seq := { s.seq with prog := none, hostEv := [], stepsLeft := 0, halt := none, ramp := none, act := 0, probeCnt := [], scales := [],
                        layers := [], wide := [], streams := [{}, {}, {}, {}, {}], cid := [], ev := [],
                        closed := [], parts := [], arrived := [], monitors := [], issued := 0, done := 0, lastTrig := [], reserveOwed := false } }

/-- Usable arrays that are neither dark nor excluded begin their lehr ramp (Table 16.2). -/
def rampAll (s : State) : State :=
  (List.range 768).foldl (fun s a =>
    if arrAvail s a && !(reguGet s a).ctrlFail then requestCredit s a else s) s

/-- Registers that a test accepts keep what they hold; the others return to their reset values. -/
def keepRegs (f : Nat → Bool) (s : State) : State := { s with regs := s.regs.filter (fun e => f e.1) }

/-- A run reset clears the counters and latencies, the applies that wait, the overlays and the mode. -/
def clearRun (s : State) : State :=
  { s with ctr := [], lat := [], perSeq := 0, perPage := [],
           seq := { s.seq with overlays := [], applies := [], mode := 0, resetCause := 3 } }

/-- The ramps begun are awaited for the end of the run reset. -/
def awaitRamps (s : State) : State := { s with seq := { s.seq with ramp := some .runReset } }

/-- Every array that is neither dark nor excluded loses its contents. -/
def loseArrays (s : State) : State :=
  let lose (r : Arr) : Arr := if r.st = .dark ∨ r.st = .excluded then r else arrShell r
  { s with arr := amapMap {} lose s.arr }

/-- Run reset (R430): ends in READY; the arrays lose their contents and ramp to idle. -/
def runResetEffect (s : State) : State :=
  let s := failRamp s stState
  let s := dropProgram s
  let as := s.seq.applies
  let s := logReset (setDev (clearRun (keepRegs runKeeps s)) .ready) 3
  let s := keepRegs (fun o => o != pageBase .seqR 0 + 0x10) s
  let s := as.foldl (fun s a => reject s a.cmd stState) s
  let s := writeEntries s (s.seq.baseImage.filter (fun e => !runKeeps e.1))
  awaitRamps (resendIdent (rampAll (reapplyRegu ((List.range 768).foldl readmit (loseArrays s)))))

/-- Hub reset (R430): the boot sequence with power applied. -/
def hubResetEffect (s : State) : State := bootUp 4 s

/-- COLD_START (R425): power-enable is asserted, with no trip latched. -/
def coldStartEffect (s : State) : State :=
  if s.seq.dev = .off ∧ s.pwr.peu = .off ∧ s.pwr.enable = false ∧ s.pwr.latched = false then bootUp 0 s else s

/-- PEU_RESTART (R355): the input is back in range after undervoltage, with power-enable still asserted. -/
def peuRestartEffect (s : State) : State :=
  if s.pwr.under = true ∧ s.pwr.enable = true ∧ s.pwr.peu = .off then bootUp 0 s else s

end Sys2Proof.Machine
end

