-- ==== Sys2Proof/Machine/RegOps.lean ====
section
/-! DEFINITION. Register operations (R443) with the registers that act when they are written: resets, margining, retraining
and interrupt marks. -/

namespace Sys2Proof.Machine

/-- States from which a reset of a kind may start (Table 16.3). -/
def resetLegal (kind : Nat) (d : DevSt) : Bool :=
  match kind with
  | 1 => d != .off
  | 2 => d == .ready || d == .loaded || d == .paused || d == .halted
  | _ => d == .standby || d == .ready || d == .loaded || d == .paused || d == .halted

/-- A reset of a kind (Table 16.3). -/
def resetStart (kind : Nat) (s : State) : State :=
  match kind with
  | 1 => mpResetEffect 1 s
  | 2 => runResetEffect s
  | _ => hubResetEffect s

/-- SEQ_RESET (R429, Table 16.7). -/
def seqResetWrite (s : State) (v : Word) : State × Half :=
  let kind := v.toNat % 8
  if v.toNat / 2 ^ 16 ≠ 0x7e51 ∨ kind = 0 ∨ 3 < kind then (s, stField)
  else if resetLegal kind s.seq.dev = false then (noteReject (bump s .seqR 0 0xc08 1) 0 0 true, stState)
  else (resetStart kind s, stOK)

/-- HBM_MARGIN_GO (R225): only in READY and with test access; MODE 0 is no run and completes at once with zero errors. -/
def marginGoWrite (s : State) (k : Nat) (v : Word) : State × Half :=
  if v.getLsbD 0 = false then (s, stOK)
  else if (pgGet s .sec 0 0x124).getLsbD 4 = false then (s, stAuth)
  else if s.seq.dev ≠ .ready ∨ (hbmGet s k).st ≠ .operating then (s, stState)
  else
    let s := hbmMod s k (fun b => { b with st := .margining, marginErr := 0, marginDone := false })
    (if (pgGet s .hbm k 0x10c).toNat % 4 = 0 then marginDoneEffect k 0 s else s, stOK)

/-- NGL_RETRAIN: TRAINING from UP or FAILED (Table 11.2). -/
def retrainWrite (s : State) (p : Nat) (v : Word) : State × Half :=
  let st := (portGet s p).st
  (if v.getLsbD 0 && (st == .up || st == .failed) then portTrain s p else s, stOK)

/-- Marks pending every routed page whose INT_STAT is nonzero (R456); with HST_COAL = 0 the entries go at once. -/
def markPages (s : State) : State :=
  let es := (intPages s).filter (fun e => irqRouted s e.1)
  if pgGet s .hst 0 0x12c = 0 then sendIrq s (es.map (fun e => (pageBase e.1 e.2, intStat s e.1 e.2)))
  else { s with irq := s.irq ++ (es.map (fun e => pageBase e.1 e.2)).filter (fun b => !s.irq.contains b) }

/-- HST_IRQ_RESEND (R456). -/
def irqResendWrite (s : State) (v : Word) : State × Half := (if v.getLsbD 0 then markPages s else s, stOK)

/-- A register write by a requester, with its status (Table 17.1). -/
def regWrite (s : State) (off : Nat) (v : Word) : State × Half :=
  if off % 4 ≠ 0 then (s, stField)
  else match pageOf off with
    | none => (s, stOK)
    | some (p, i) =>
      if !presentPage s.fit p i then (s, stOK)
      else match p, off % 0x1000 with
        | .seqR, 0x130 => seqResetWrite s v
        | .hbm, 0x110 => marginGoWrite s i v
        | .ngl, 0x120 => retrainWrite s i v
        | .hst, 0x188 => irqResendWrite s v
        | _, _ => rwWrite s off v

/-- A register write in a state in which registers answer (R444). -/
def regWriteEffect (off : Nat) (v : Word) (s : State) : State := if s.seq.dev = .off then s else (regWrite s off v).1

/-- One operation of a REG_REQ (R345): the value read or written, and its status. -/
def regOp (s : State) (r : Requester) (op : Word × Word) : (Word × Half) × State :=
  let wr := op.1.getLsbD 0
  let off := (op.1 &&& ~~~(1 : Word)).toNat
  if wr then
    let x := regWrite s off op.2
    ((op.2, x.2), x.1)
  else if off % 4 ≠ 0 then ((0, stField), s)
  else
    let x := readReg s r off
    ((x.1, stOK), x.2)

/-- The operations of a REG_REQ in order. -/
def regOps (s : State) (r : Requester) : List (Word × Word) → List (Word × Half) × State
  | [] => ([], s)
  | o :: rest =>
    let x := regOp s r o
    let y := regOps x.2 r rest
    (x.1 :: y.1, y.2)

end Sys2Proof.Machine
end

