-- ==== Sys2Proof/Machine/Transport.lean ====
section
/-! DEFINITION. The host transport (R328 to R353): delivery, READ and WRITE data, register requests, mailbox and basin
frames, SYNC and unreachability, IPv6 neighbours, completions and interrupts. -/

namespace Sys2Proof.Machine

/-! ### Reads of STATE and data of tensors (R215, R342, R343) -/

/-- Whether queue `q` reads tensor `h` in the version before the latest commit (R216). -/
def readsOld (s : State) (q h : Nat) : Bool := s.mem.fences.any (fun f => f.q == q && f.handle == h && fenceOld s f)

/-- Byte `off` of tensor `h` as a host read of queue `q` sees it, with whether it is poisoned. -/
def hostByte (s : State) (old : Bool) (h off : Nat) : Byte × Bool :=
  let k := tkey h off
  if old && aget (fun _ => false) s.mem.swapped (h * 2 ^ 20 + off / pageSize) then
    (if aget (fun _ => 0) s.mem.wpoison (k / 32) != 0 then (0, true) else (workByte s k, false))
  else if aget (fun _ => 0) s.mem.poison (k / 32) != 0 then (0, true) else (memByte s k, false)

/-- `n` bytes as a host read sees them: poisoned bytes as zero. -/
def hostBytes (s : State) (q h off n : Nat) : List Byte × Bool :=
  let old := readsOld s q h
  let bs := (List.range n).map (fun j => hostByte s old h (off + j))
  (bs.map (·.1), bs.any (·.2))

/-- An extent lies on a tile whose stage is in fault (R360). -/
def onFault (s : State) (h off n : Nat) : Bool :=
  (pageParts off n).any (fun p => (stageGet s (pageStack s h p.1 / 3)).fault)

/-- Tensors that a READ or WRITE in progress names. -/
def accessNames (a : Access) (h : Nat) : Bool := a.entries.any (fun e => e.h == h)

/-- Frees that waited for accesses which are over (R201). -/
def doLateFrees (s : State) : State :=
  let go (s : State) (f : Nat × CmdRef) : State :=
    if s.hst.access.any (fun a => accessNames a f.1) then s
    else complete (freeTensor { s with mem := { s.mem with lateFree := s.mem.lateFree.erase f } } f.1) f.2 stOK 0
  s.mem.lateFree.foldl go s

/-- An access ends with a status: its fences lift (R215) and the command completes. -/
def endAccess (s : State) (a : Access) (st : Half) : State :=
  let s := { s with hst := { s.hst with access := s.hst.access.filter (fun b => b.cmd.q != a.cmd.q) },
                    mem := { s.mem with fences := s.mem.fences.filter (fun f => f.q != a.cmd.q) } }
  let s := liftAdvance s
  doLateFrees (if st = stField ∨ st = stLen then reject s a.cmd st else complete s a.cmd st a.moved)

/-- Bytes of a DATA frame. -/
def dataMax : Nat := 8192

/-- A host read passes the slice: a read of STATE never allocates, and takes the version that it is served from (R206, R209,
R210). -/
def hostReads (q h off n : Nat) (s : State) : State :=
  let old := readsOld s q h
  (pageParts off n).foldl (fun s p =>
    memAccess prioHost .read (isState s h) (old && aget (fun _ => false) s.mem.swapped (h * 2 ^ 20 + p.1)) h
      (max off (p.1 * pageSize)) p.2 s) s

/-- The next DATA frame of a READ, if one is left: its access record after it, with the frame and what it reads of a tensor
(R342). -/
def nextData (s : State) (a : Access) : Option (Access × Frame × Extent) :=
  let rest := (a.entries.drop a.entry).mapIdx (fun k e => (a.entry + k, e))
  match rest.find? (fun e => decide ((if e.1 = a.entry then a.off else 0) < e.2.len)) with
  | none => none
  | some (k, e) =>
    let o := if k = a.entry then a.off else 0
    let n := min dataMax (e.len - o)
    let bad := onFault s e.h (e.off + o) n
    let b := if bad then (List.replicate n 0, false) else hostBytes s a.cmd.q e.h (e.off + o) n
    let st := if bad then stPower else if b.2 && a.st = stOK then stMemPoison else a.st
    some ({ a with entry := k, off := o + n, st := st, moved := a.moved + n },
          .data a.cmd.q (cmdTag a.cmd.w) k o b.1, { h := e.h, off := e.off + o, len := if bad then 0 else n })

/-- Replaces the access of a queue. -/
def accessPut (s : State) (a : Access) : State :=
  { s with hst := { s.hst with access := s.hst.access.map (fun b => if b.cmd.q = a.cmd.q then a else b) } }

/-- A DATA frame of a READ is queued, and its access record follows. -/
def putData (s : State) (x : Access × Frame × Extent) : State :=
  sendFrame (accessPut (hostReads x.1.cmd.q x.2.2.h x.2.2.off x.2.2.len s) x.1) .host x.2.1

/-- Queues DATA frames of READs while the window of 256 frames has room (R336). -/
def feedReads : Nat → State → State
  | 0, s => s
  | k + 1, s =>
    if 256 ≤ s.hst.host.txq.length + s.hst.host.unacked.length then s
    else match s.hst.access.find? (fun a => !a.write && !a.sent) with
      | none => s
      | some a => match nextData s a with
        | none => feedReads k (accessPut s { a with sent := true })
        | some x => feedReads k (putData s x)

/-- A frame that belongs to a READ of queue `q`. -/
def isReadData (q : Nat) : Frame → Bool
  | .data k _ _ _ _ => k == q
  | _ => false

/-- READs whose last DATA frame has been acknowledged complete (R342). -/
def finishReads (s : State) : State :=
  let done (a : Access) : Bool := !a.write && a.sent && !s.hst.host.txq.any (isReadData a.cmd.q)
    && !s.hst.host.unacked.any (fun u => isReadData a.cmd.q u.f)
  (s.hst.access.filter done).foldl (fun s a => endAccess s a a.st) s

/-- READs go on: frames are queued, and those acknowledged whole complete. -/
def runReads (s : State) : State := finishReads (feedReads 512 s)

/-! ### WRITE data (R102, R137, R217, R343) -/

/-- Contents of `n` bytes from `off` of a tensor after buffered writes. -/
def overlaid (s : State) (h off n : Nat) (ws : List (Nat × List Byte)) : List Byte :=
  (List.range n).map (fun j =>
    match ws.find? (fun w => decide (w.1 ≤ off + j ∧ off + j < w.1 + w.2.length)) with
    | some w => w.2.getD (off + j - w.1) 0
    | none => memByte s (tkey h (off + j)))

/-- A scale record is in range (R102). -/
def scaleRecOk (r : List Byte) : Bool :=
  let k := (r.getD 0x42 0).toInt
  (r.getD 0x40 0).toNat ≤ 15 && (r.getD 0x41 0).toNat ≤ 16 && decide (-64 ≤ k ∧ k ≤ 64) && (r.getD 0x43 0).toNat < 16
  && (List.range 16).all (fun i =>
      match f32V (BitVec.ofNat 32 (leNat ((r.drop (4 * i)).take 4))) with
      | .fin g m _ => !g || m == 0
      | _ => false)

/-- A layer record holds no reserved value (Table 5.5). -/
def layerRecOk (r : List Byte) : Bool :=
  let b (k : Nat) : Nat := (r.getD k 0).toNat
  b 0 ≤ 2 && b 1 < 0x40 && 1 ≤ b 2 && b 2 ≤ 8 && 1 ≤ b 3 && b 3 ≤ 15 && 1 ≤ b 6 && b 7 < 8 && b 0x0b = 0 && b 0x40 < 0x40
  && b 0x41 < 0x10 && ((r.drop 0x54).take 12).all (· == 0)

/-- Records of `size` bytes that an extent covers: first and one past the last. -/
def recsIn (size off len : Nat) : List Nat := if len = 0 then [] else (List.range ((off + len - 1) / size + 1)).drop (off / size)

/-- Number `n` of a tensor of records is a record: a scale record that is allocated (R102), or a record of a layer of the
program (R137). -/
def isRec (s : State) (kind n : Nat) : Bool := if kind = 1 then recAllocated s n else s.seq.prog.any (fun p => decide (n < p.layers))

/-- What a tensor is to the loaded program: 1 its scale records, 2 its layer records. -/
def recKind (s : State) (h : Nat) : Nat := match s.seq.prog with
  | some p => if h = p.scaleRec ∧ h ≠ 0 then 1 else if h = p.layerRec ∧ h ≠ 0 then 2 else 0
  | none => 0

/-- A write of scale records keeps offsets 0x44 to 0x4f at zero (R480). -/
def scaleMask (s : State) (off : Nat) (bs : List Byte) : List Byte :=
  bs.mapIdx (fun j b => if 0x44 ≤ (off + j) % 80 ∧ recAllocated s ((off + j) / 80) then 0 else b)

/-- Whether WIDE_NUM `wn` lets the T2 and W2 forward copies of a layer's DENSE descriptors fit their tensors (R284). -/
def wideNumFits (s : State) (l wn : Nat) : Bool := match s.seq.prog with
  | none => true
  | some p => (updList s p).all (fun x =>
      let d := x.2
      match fmtOfCode d.fcf.toNat with
      | some f =>
        x.1 != 1 || d.layer.toNat != l || !f.lowBit
        || (match tensorOf s d.fcH.toNat with
            | some g => decide ((d.first.toNat + d.count.toNat) * slotSize f wn ≤ g.size)
            | none => true)
      | none => true)

/-- A buffered WRITE of records is checked whole, then written: at once, or for scale records in RUNNING at the next
release. Layer records whose data arrive in RUNNING are written at once (assumption 121). -/
def writeRecords (s : State) (a : Access) (e : Extent) : State :=
  let kind := recKind s e.h
  let size := if kind = 1 then 80 else 96
  let rs := (recsIn size e.off e.len).filter (isRec s kind)
  let ok := rs.all (fun n =>
    if kind = 1 then scaleRecOk (overlaid s e.h (size * n) size (a.buf ++ s.seq.scaleWrites.reverse))
    else layerRecOk (overlaid s e.h (size * n) size a.buf))
  let fits := kind = 1 || rs.all (fun n =>
    wideNumFits s n ((overlaid s e.h (size * n) size a.buf).getD 4 0).toNat)
  if !ok then endAccess s { a with moved := 0 } stField
  else if !fits then endAccess s { a with moved := 0 } stLen
  else
    let s := a.buf.foldl (fun s w =>
      let bs := if kind = 1 then scaleMask s w.1 w.2 else w.2
      if kind = 1 ∧ s.seq.dev = .running then { s with seq := { s.seq with scaleWrites := s.seq.scaleWrites ++ [(w.1, bs)] } }
      else memWrite (memWrites prioHost e.h w.1 w.2.length s) e.h w.1 bs) s
    endAccess s { a with moved := e.len } stOK

/-- A WRITE has given a STATE tensor new contents (R101). -/
def noteRestore (s : State) (h : Nat) : State :=
  if isState s h && !s.mem.restored.contains h then { s with mem := { s.mem with restored := h :: s.mem.restored } } else s

/-- A chunk of a granted WRITE; `none` when the frame breaks the rule of R343. -/
def writeChunk (s : State) (q : Nat) (tag : Half) (entry off : Nat) (bs : List Byte) : Option State :=
  match s.hst.access.find? (fun a => a.write && a.cmd.q == q && cmdTag a.cmd.w == tag) with
  | none => none
  | some a =>
    match a.entries with
    | [] => none
    | e :: _ =>
      if entry ≠ 0 ∨ off % dataMax ≠ 0 ∨ e.len ≤ off ∨ bs.length ≠ min dataMax (e.len - off) then none
      else
        let fresh := !a.chunks.contains (off / dataMax)
        let a := { a with chunks := if fresh then (off / dataMax) :: a.chunks else a.chunks,
                          moved := if fresh then a.moved + bs.length else a.moved }
        let full := decide ((e.len + dataMax - 1) / dataMax ≤ a.chunks.length)
        let s := bump s .hst 0 0xc10 bs.length
        if recKind s e.h ≠ 0 ∨ a.buf ≠ [] then
          let a := { a with buf := (e.off + off, bs) :: a.buf.filter (fun w => w.1 != e.off + off) }
          some (if full then writeRecords s a e else accessPut s a)
        else
          let s := memWrites prioHost e.h (e.off + off) bs.length s
          let s := accessPut (noteRestore (memWrite s e.h (e.off + off) bs) e.h) a
          some (if full then endAccess s a stOK else s)

/-! ### Mailbox frames (R346, R404 to R407) -/

/-- Changes a channel. -/
def chanMod (s : State) (c : Nat) (f : Chan → Chan) : State :=
  { s with mp := { s.mp with chans := aset (fun _ => {}) s.mp.chans c (f (chanGet s c)) } }

/-- Sends the next chunk of a response, once the one before it has been acknowledged; a channel whose last chunk is
acknowledged is empty again (R407). While no frame may leave to the host the chunk waits. -/
def chanPump (s : State) (c : Nat) : State :=
  let r := chanGet s c
  if r.outWait || s.hst.unreachable || !s.hst.synced then s
  else match r.out with
    | [] => s
    | m :: _ => sendFrame (chanMod s c (fun r => { r with outWait := true })) .host (.mailbox c m)

/-- A frame that carries a chunk of channel `c`. -/
def isChunk (c : Nat) : Frame → Bool
  | .mailbox k _ => k == c
  | _ => false

/-- Channels whose chunk is no longer outstanding go on. -/
def chansAcked (s : State) : State :=
  (List.range 8).foldl (fun s c =>
    let r := chanGet s c
    if r.outWait && !s.hst.host.txq.any (isChunk c) && !s.hst.host.unacked.any (fun u => isChunk c u.f) then
      let s := bump (chanMod s c (fun r => { r with outWait := false, stale := false, out := if r.stale then r.out else r.out.drop 1 })) .mbx 0 0xc08 1
      -- a chunk that a restart cut off frees no slot
      if r.stale then chanPump s c
      else if (chanGet s c).out.isEmpty then chanMod s c (fun _ => {}) else chanPump s c
    else s) s

/-- A response in messages of 256 bytes with up to 240 bytes of data each (Table 15.3). -/
def respMsgs (op : Nat) (tag st : Half) (bs : List Byte) : List (List Byte) :=
  let n := max 1 ((bs.length + 239) / 240)
  (List.range n).map (fun k =>
    let d := (bs.drop (240 * k)).take 240
    leBytes 1 op ++ leBytes 1 ((if k = 0 then 1 else 0) + (if k + 1 = n then 2 else 0)) ++ leBytes 2 tag.toNat
    ++ leBytes 2 k ++ leBytes 2 st.toNat ++ leBytes 4 (if k = 0 then bs.length else 0) ++ leBytes 4 0 ++ d
    ++ List.replicate (240 - d.length) 0)

/-- A response leaves on a channel. -/
def respond (s : State) (c op : Nat) (tag st : Half) (bs : List Byte) : State :=
  chanPump (chanMod s c (fun r => { r with inb := 2, op := op, tag := tag, out := r.out ++ respMsgs op tag st bs })) c

end Sys2Proof.Machine
end

