-- ==== Sys2Proof/Machine/Mgmt.lean ====
section
/-! DEFINITION. The management processor and the security engine (R401 to R422): mailbox assembly, the non-secure and the
signed commands, overload, telemetry and MIN_VER. -/

namespace Sys2Proof.Machine

/-! ### Requests (R404, R406) -/

/-- Commands that a channel accepts (Table 15.2). -/
def chanTakes (c op : Nat) : Bool :=
  match c with
  | 0 => op == 1 || op == 4
  | 1 => op == 2
  | 2 => op == 3
  | 3 => op == 5 || op == 4
  | 4 => op == 1 || op == 2
  | 5 => op == 0x10
  | 6 => op == 0x20
  | _ => op == 0x30

/-- A response, counted when its status is not OK (Table 15.15). -/
def answer (s : State) (c op : Nat) (tag st : Half) (bs : List Byte) : State :=
  respond (if st = stOK then s else bump s .mbx 0 0xc20 1) c op tag st bs

/-- Chunks of a request or response of `n` bytes (R405). -/
def chunksOf (n : Nat) : Nat := max 1 ((n + 239) / 240)

/-- A whole request takes its channel's slot; it discards an assembly left open (R406, R423). -/
def takeRequest (c op : Nat) (tag : Half) (req : List Byte) (s : State) : State :=
  let s := if (chanGet s c).inb = 1 then setIntOnce (bump s .mbx 0 0xc18 1) .mbx 0 2 else s
  let n := chunksOf req.length
  bump (chanMod s c (fun _ => { inb := 2, op := op, tag := tag, total := req.length, chunks := n, buf := req })) .mbx 0 0xc00 n

/-- A request on a channel is served: it arrives whole, or it stands in the slot; the MP must run. -/
def serve (c op : Nat) (tag : Half) (req : List Byte) (eff : State → State) (s : State) : State :=
  let r := chanGet s c
  if s.seq.dev = .off ∨ s.mp.started = false ∨ r.out ≠ [] then s
  else if r.inb < 2 then eff (takeRequest c op tag req s)
  else if r.op = op ∧ r.tag = tag ∧ r.buf = req then eff s
  else s

/-! ### Envelopes and requests that are refused (R404, R409, R410) -/

/-- Bytes 0x00 to 0x3f + PLEN of an envelope (Table 15.6). -/
def envBytes (e : Envelope) : List Byte :=
  let r := padTo 30 e.rsvd
  leBytes 4 e.magic.toNat ++ [e.version, e.cmd] ++ r.take 2 ++ leBytes 8 e.moduleId.toNat ++ leBytes 8 e.counter.toNat
  ++ leBytes 4 e.payload.length ++ (r.drop 2).take 4 ++ leBytes 8 e.opkeyId.toNat ++ r.drop 6 ++ e.payload

/-- The key that must have signed: the enrolled one, or with none the new key of an ENROLL. -/
def envKey (s : State) (e : Envelope) : List Byte := s.mp.opkey.getD e.payload

/-- Check 2 of R410 but for MODULE_ID; CMD is the OP of the envelope's chunks (R409). -/
def envSigned (s : State) (cmd : Nat) (e : Envelope) : Bool :=
  let k := envKey s e
  e.magic == 0x43534b48 && e.version == 1 && e.opkeyId == BitVec.ofNat 64 (leNat ((sha3_512 k).take 8))
  && Config.mldsaVerify k (sha3_512 (envBytes e)) [] e.sig && e.cmd.toNat == cmd

/-- MODULE_ID of check 2: it needs the device key, without which the check returns ID_FAULT (R413, R417, assumption 127). -/
def envModule (s : State) (e : Envelope) : Half :=
  if s.fit.pufOk = false then stIdFault else if e.moduleId = moduleId s ∧ e.moduleId ≠ 0 then stOK else stAuth

/-- AUTH_REQUIRED is counted (R410). -/
def authFail (s : State) : State := setIntOnce (bump s .sec 0 0xc08 1) .sec 0 0

/-- States in which a signed command is legal (Table 15.7). -/
def envLegal (cmd : Nat) (d : DevSt) : Bool :=
  if cmd = 0x10 then d == .ready || d == .loaded || d == .running || d == .paused || d == .halted else d != .off

/-- Payload checks of Table 15.7. -/
def envPayload (cmd : Nat) (p : List Byte) : List Half :=
  let z (a b : Nat) : Bool := ((p.drop a).take (b - a)).all (· == 0)
  match cmd with
  | 0x01 => chk (p.length != 2592) stLen
  | 0x02 => chk (p.length != 0) stLen
  | 0x10 => chk (p.length != 84) stLen ++ chk (!z 3 8 || !z 13 16) stField
  | 0x20 => chk (p.length != 64) stLen
  | _ => chk (p.length != 4) stLen ++ chk (leNat p = 0 || 32 ≤ leNat p) stField

/-- The checks of R410 in order, with their counts: the first failure, OK when there is none; `more` joins the fifth check. -/
def envCheck (s : State) (cmd : Nat) (e : Envelope) (more : List Half) : Half × State :=
  if s.mp.opkey.isNone ∧ cmd ≠ 1 then (stKeyAbsent, s)
  else if envSigned s cmd e = false then (stAuth, authFail s)
  else if envModule s e ≠ stOK then (envModule s e, if envModule s e = stAuth then authFail s else s)
  else
    let s := bump s .sec 0 0xc00 1
    if e.counter ≤ s.mp.counter then (stCounterStale, bump s .sec 0 0xc10 1)
    else if envLegal cmd s.seq.dev = false then (stState, noteReject (bump s .seqR 0 0xc08 1) cmd 0 false)
    else (pickStatus (chk (e.rsvd.any (· != 0)) stField ++ envPayload cmd e.payload ++ more), s)

/-- What is wrong with a request that has arrived whole, as far as its length and channel tell. -/
def requestCheck (c op : Nat) (bs : List Byte) : List Half :=
  chk (!chanTakes c op) stField
  ++ chk (bs.length != (if 4 ≤ c then 64 + leNat ((bs.drop 0x18).take 4) + 4627 else if op = 2 ∨ op = 3 then 6 else 0)) stLen

/-- The envelope that the bytes of a request spell (Table 15.6). -/
def envOf (bs : List Byte) : Envelope :=
  let f (o n : Nat) : List Byte := (bs.drop o).take n
  let n := leNat (f 0x18 4)
  { magic := BitVec.ofNat 32 (leNat (f 0 4)), version := bs.getD 4 0, cmd := bs.getD 5 0, rsvd := f 6 2 ++ f 0x1c 4 ++ f 0x28 24,
    moduleId := BitVec.ofNat 64 (leNat (f 8 8)), counter := BitVec.ofNat 64 (leNat (f 0x10 8)),
    opkeyId := BitVec.ofNat 64 (leNat (f 0x20 8)), payload := f 0x40 n, sig := f (0x40 + n) 4627 }

/-- A request on a secure channel is no verified envelope, as check 2 of R410 verifies one. -/
def unverified (s : State) (op : Nat) (e : Envelope) : Bool :=
  (s.mp.opkey.isNone && op != 1) || !envSigned s op e || envModule s e == stAuth

/-- The answer to a request that `requestCheck` refuses. On a secure channel what is no verified envelope is answered
AUTH_REQUIRED, and a command that the channel does not accept FIELD_RESERVED, before any code that R18 does not list (R404, R478);
a command that it does accept goes through the checks of R410. -/
def refuseRequest (c op : Nat) (tag : Half) (bs : List Byte) (s : State) : State :=
  let sts := requestCheck c op bs
  let k := if c < 4 then (pickStatus sts, s)
    else if chanTakes c op then envCheck s op (envOf bs) sts
    else if unverified s op (envOf bs) then (stAuth, authFail s)
    else (pickStatus sts, s)
  answer (chanMod k.2 c (fun r => { r with refused := some k.1 })) c op tag k.1 []

/-! ### Non-secure commands (Table 15.4) -/

/-- INFO. -/
def infoBytes (s : State) : List Byte :=
  leBytes 8 (moduleId s).toNat ++ leBytes 1 (if s.fit.full then 0 else 1) ++ padTo 6 s.fit.mac ++ leBytes 1 s.mp.slot
  ++ leBytes 4 (fwShown s 0) ++ leBytes 4 (fwShown s 1) ++ leBytes 4 (minVerNow s.mp) ++ leBytes 8 (opkeyId s).toNat
  ++ leBytes 4 (pgGet s .sec 0 0x124).toNat

def infoEffect (tag : Half) (s : State) : State := serve 0 1 tag [] (fun s => answer s 0 1 tag stOK (infoBytes s)) s

/-- The 64 bytes of a log entry (Table 18.3). -/
def entryBytes (e : LogEnt) : List Byte :=
  let b := leBytes 4 e.seq ++ leBytes 1 e.kind ++ leBytes 1 e.flags ++ leBytes 2 e.count ++ leBytes 4 e.source.toNat
    ++ leBytes 2 e.status.toNat ++ leBytes 2 (e.boot % 65536) ++ leBytes 4 e.ms ++ leBytes 4 0 ++ leBytes 8 e.s.toNat ++ padTo 28 e.payload
  b ++ leBytes 4 (crc32 b).toNat

/-- Entries of both regions by SEQ: a merge of two lists that are in order. -/
def mergeLog : Nat → List LogEnt → List LogEnt → List LogEnt
  | 0, _, _ => []
  | _ + 1, [], b => b
  | _ + 1, a, [] => a
  | k + 1, x :: a, y :: b => if x.seq ≤ y.seq then x :: mergeLog k a (y :: b) else y :: mergeLog k (x :: a) b

/-- LOG_READ (R468); an entry that verifies in neither copy is not read. -/
def logEntries (s : State) (first count : Nat) : List LogEnt :=
  ((mergeLog (s.log.records.length + s.log.events.length + 1) (logReadable s) s.log.events).filter (fun e => first ≤ e.seq)).take count

def logReadEffect (tag : Half) (first count : Nat) (s : State) : State :=
  serve 1 2 tag (leBytes 4 first ++ leBytes 2 count) (fun s =>
    if 256 < count then answer s 1 2 tag stLen [] else answer s 1 2 tag stOK ((logEntries s first count).flatMap entryBytes)) s

/-- TEL_READ: an index older than the ring starts at the oldest sample; the response begins with the index of its first. -/
def telReadEffect (tag : Half) (first count : Nat) (s : State) : State :=
  serve 2 3 tag (leBytes 4 first ++ leBytes 2 count) (fun s =>
    let i := max first s.mp.ringBase
    if 4096 < count then answer s 2 3 tag stLen []
    else answer s 2 3 tag stOK (leBytes 4 i ++ ((s.mp.ring.drop (i - s.mp.ringBase)).take count).flatten)) s

/-- MP_STATUS (Table 15.4). -/
def mpStatusBytes (s : State) : List Byte :=
  leBytes 1 s.mp.util ++ leBytes 1 (pgGet s .mbx 0 0x124).toNat ++ leBytes 1 (blkStat s .mbx 0 % 4)
  ++ leBytes 1 (if s.mp.overloaded then 1 else 0) ++ leBytes 4 (pgGet s .mbx 0 0x130).toNat ++ leBytes 4 (fwVersion s s.mp.slot) ++ leBytes 4 0

/-- MP_STATUS: a channel that does not accept it refuses it (R404). -/
def mpStatusEffect (c : Nat) (tag : Half) (s : State) : State :=
  serve c 4 tag [] (fun s => if chanTakes c 4 then answer s c 4 tag stOK (mpStatusBytes s) else refuseRequest c 4 tag [] s) s

/-- TEST_DISABLE (R421). -/
def testDisableEffect (tag : Half) (s : State) : State := serve 3 5 tag [] (fun s => answer (endScope s) 3 5 tag stOK []) s

/-! ### Signed commands (R409 to R412) -/

/-- Commits the counter of an envelope whose action is performed (R411). -/
def commitCounter (s : State) (e : Envelope) : State := { s with mp := { s.mp with counter := e.counter } }

/-- A signed command on its channel: the checks of R410, `more` with the fifth, then the action with its status and response. -/
def signed (c cmd : Nat) (tag : Half) (e : Envelope) (more : State → List Half) (act : State → Half × List Byte × State) (s : State) : State :=
  serve c cmd tag (envBytes e ++ e.sig) (fun s =>
    -- a TOTAL that PLEN does not give leaves a signature of another length (R409)
    let k := envCheck s cmd { e with sig := e.sig.take 4627 } (chk (e.sig.length != 4627) stLen ++ more s)
    if k.1 ≠ stOK then answer k.2 c cmd tag k.1 []
    else
      let r := act k.2
      answer (if r.1 = stOK then commitCounter r.2.2 e else r.2.2) c cmd tag r.1 r.2.1) s

/-- ENROLL. -/
def enrollEffect (tag : Half) (e : Envelope) : State → State :=
  signed 4 0x01 tag e (fun _ => []) (fun s => (stOK, [], measExtend { s with mp := { s.mp with opkey := some e.payload } } 3 e.payload))

/-- RELEASE. -/
def releaseEffect (tag : Half) (e : Envelope) : State → State :=
  signed 4 0x02 tag e (fun _ => []) (fun s => (stOK, [], measExtend { s with mp := { s.mp with opkey := none } } 3 (List.replicate 64 0)))

/-- A firmware image of R414: header, body and signature under the root key. -/
def fwImageOk (bs : List Byte) : Bool :=
  let body := leNat ((bs.drop 12).take 4)
  bs.length == 256 + body + 4627 && leNat (bs.take 4) == 0x57464b48 && ((bs.drop 16).take 240).all (· == 0)
  && Config.mldsaVerify Config.rootKey (sha3_512 (bs.take (256 + body))) [] (bs.drop (256 + body))

/-- HANDLE, OFFSET and LENGTH of a FW_UPDATE (Table 15.7). -/
def fwExtent (e : Envelope) : Extent :=
  { h := leNat (e.payload.take 3), off := leNat ((e.payload.drop 8).take 5), len := leNat ((e.payload.drop 16).take 4) }

/-- The handle and length checks of a FW_UPDATE, which stand in the fifth check of R410 (R415). -/
def fwUpdateCheck (e : Envelope) (s : State) : List Half :=
  let x := fwExtent e
  if e.payload.length < 3 then [] else spillCheck s x.h x.off x.len ++ chk (2 ^ 24 < x.len) stLen

/-- FW_UPDATE (R415): the status, and the state with the image in the slot that does not run. -/
def fwUpdateAct (e : Envelope) (s : State) : Half × List Byte × State :=
  let p := e.payload
  let { h, off, len } := fwExtent e
  if len = 0 then (stOK, [], s)
  else
    let bs := tensorBytes s h off len
    let s := memReads prioHost h off len s
    let v := leNat ((bs.drop 4).take 4)
    if sha3_512 bs ≠ (p.drop 20).take 64 ∨ fwImageOk bs = false ∨ v < minVerNow s.mp then (stImageInvalid, [], s)
    else
      let k := if s.mp.slot = 0 then 1 else 0
      let f : FwSlot := { image := bs, sigOk := true, version := v, minAfter := leNat ((bs.drop 8).take 4) }
      let s := logFirmware s 1 v
      (stOK, [], setInt { s with mp := { s.mp with fw := s.mp.fw.set k f, pendSlot := some k } } .sec 0 2)

/-- A slot write waits while LOG_FULL is set: compaction of the log runs ahead of it (R469). -/
def fwWaits (e : Envelope) (s : State) : Bool :=
  !s.log.kept.isEmpty && (fwExtent e).len != 0
  && (envCheck s 0x10 { e with sig := e.sig.take 4627 } (chk (e.sig.length != 4627) stLen ++ fwUpdateCheck e s)).1 == stOK
  && (fwUpdateAct e s).1 == stOK

/-- FW_UPDATE; while its slot write waits, the request stands in its channel. -/
def fwUpdateEffect (tag : Half) (e : Envelope) (s : State) : State :=
  if fwWaits e s then serve 5 0x10 tag (envBytes e ++ e.sig) (fun s => chanMod s 5 (fun r => { r with waits := true })) s else signed 5 0x10 tag e (fwUpdateCheck e) (fwUpdateAct e) s

/-- Body of a quote (Table 15.11). -/
def quoteBody (s : State) (nonce : List Byte) : List Byte :=
  leBytes 4 0x54514b48 ++ leBytes 2 1 ++ leBytes 1 (devCode s.seq.dev) ++ leBytes 1 0 ++ leBytes 8 (moduleId s).toNat
  ++ leBytes 8 (stepS s).toNat ++ leBytes 4 (fwVersion s s.mp.slot) ++ leBytes 4 (minVerNow s.mp) ++ leBytes 4 (pgGet s .sec 0 0x124).toNat
  ++ leBytes 4 (bitIf s.mp.fallback 0 + bitIf s.mp.opkey.isSome 1 + bitIf s.mp.pendSlot.isSome 2) ++ leBytes 24 0
  ++ padTo 64 nonce ++ (List.range 8).flatMap (measure s) ++ List.replicate 384 0

/-- ATTEST (R420): none while an identity fault is present (R413). -/
def attestAct (e : Envelope) (s : State) : Half × List Byte × State :=
  if s.mp.idFault then (stIdFault, [], s)
  else
    let b := quoteBody s e.payload
    (stOK, b ++ padTo 4627 (Config.mldsaSign (devSeed s) (sha3_512 b) []), bump s .sec 0 0xc18 1)

/-- ATTEST. -/
def attestEffect (tag : Half) (e : Envelope) : State → State := signed 6 0x20 tag e (fun _ => []) (attestAct e)

/-- TEST_ENABLE (R421, R471). -/
def testEnableEffect (tag : Half) (e : Envelope) : State → State :=
  signed 7 0x30 tag e (fun _ => []) (fun s => (stOK, [], setScope s (BitVec.ofNat 32 (leNat e.payload)) e.counter))

/-! ### Chunks of a request (R406, R407) -/

/-- A request is refused with one response message; an open assembly is discarded. -/
def refuseChunk (s : State) (c op : Nat) (tag st : Half) : State :=
  let s := if (chanGet s c).inb = 1 then setIntOnce (bump s .mbx 0 0xc18 1) .mbx 0 2 else s
  answer (chanMod s c (fun _ => { refused := some st })) c op tag st []

/-- A MAILBOX message is taken; false when it waits because the slot is occupied (R407). What fails while the request is
assembled is answered as R406 states, beside an OP that the channel does not accept (R404, R478, assumption 109). -/
def takeChunk (s : State) (c : Nat) (m : List Byte) : State × Bool :=
  let r := chanGet s c
  if r.inb = 2 ∨ r.out ≠ [] then (bump s .mbx 0 0xc10 1, false)
  else
    let s := bump s .mbx 0 0xc00 1
    let b (k : Nat) : Nat := (m.getD k 0).toNat
    let op := b 0
    let first := b 1 % 2 == 1
    let last := b 1 / 2 % 2 == 1
    let tag : Half := BitVec.ofNat 16 (leNat ((m.drop 2).take 2))
    let chunk := leNat ((m.drop 4).take 2)
    let total := leNat ((m.drop 8).take 4)
    if s.mp.started = false then (chanMod s c (fun r => { r with inb := 2, op := op, tag := tag, total := total, buf := m.drop 16 }), true)
    else
      -- a FIRST chunk discards a partial assembly
      let s := if first && r.inb = 1 then chanMod (setIntOnce (bump s .mbx 0 0xc18 1) .mbx 0 2) c (fun _ => {}) else s
      let r := chanGet s c
      let whole := if first then total else r.total
      let n := chunksOf whole
      let share := min 240 (whole - 240 * chunk)
      let misplaced := if first then chunk != 0 else r.inb != 1 || chunk != r.chunks || n ≤ chunk || op != r.op || tag != r.tag
      let rsvd := 4 ≤ b 1 || leNat ((m.drop 6).take 2) != 0 || leNat ((m.drop 12).take 4) != 0 || (!first && total != 0)
        || (!misplaced && ((m.drop 16).drop share).any (· != 0))
      let sts := chk rsvd stField ++ chk (first && 8192 < total) stLen ++ chk (misplaced || last != (chunk + 1 == n)) stMbxSequence
      if sts ≠ [] then (refuseChunk s c op tag (pickStatus (sts ++ chk (!chanTakes c op) stField)), true)
      else
        let buf := r.buf ++ (m.drop 16).take share
        let s := chanMod s c (fun _ =>
          { inb := if last then 2 else 1, op := op, tag := tag, total := whole, chunks := chunk + 1, buf := buf })
        if last && requestCheck c op buf != [] then (refuseRequest c op tag buf s, true) else (s, true)

/-! ### The management processor (R401 to R403, R414) -/

/-- UTIL_WINDOW (R402): the end of a 10 ms window with its utilization in percent. -/
def utilWindowEffect (u : Nat) (s : State) : State :=
  if s.seq.dev = .off ∨ s.mp.started = false then s
  else
    let per := (pgGet s .mbx 0 0x124).toNat
    let s := { s with mp := { s.mp with util := u % 128, winSeq := s.log.next } }
    if 95 ≤ u then
      let s := if s.mp.overloaded then s else setInt { s with mp := { s.mp with overloaded := true } } .mbx 0 1
      let s := { s with mp := { s.mp with low := 0 } }
      if per < 64 then bump (pgSet s .mbx 0 0x124 (w32 (min 64 (2 * per)))) .mbx 0 0xc28 1 else s
    else if s.mp.overloaded then
      (if u ≤ 50 then
        let s := pgSet s .mbx 0 0x124 (w32 (max 1 (per / 2)))
        if 10 ≤ s.mp.low + 1 then { s with mp := { s.mp with overloaded := false, low := 0 } }
        else { s with mp := { s.mp with low := s.mp.low + 1 } }
      else { s with mp := { s.mp with low := 0 } })
    else s

/-- TELEMETRY_SAMPLE (Table 15.5): the ring holds 4096 samples; the task runs when none above it has work (R400). The time
since power-up is not part of the state and is free, assumption 13. -/
def telemetryEffect (s : State) : State :=
  if !mpRuns s || mailWork s || !s.log.todo.isEmpty then s
  else
    let (n, s) := draw s
    let sample := leBytes 4 (Config.freeWord n).toNat ++ leBytes 2 (thmNat s 0x12c) ++ leBytes 2 (thmNat s 0x130) ++ leBytes 2 (thmNat s 0x134)
      ++ leBytes 2 (pgGet s .pwrM 0 0x10c).toNat ++ leBytes 2 (thmNat s 0x138 % 2 ^ 16) ++ leBytes 1 (pgGet s .mbx 0 0x124).toNat
      ++ leBytes 1 (devCode s.seq.dev)
    let ring := s.mp.ring ++ [sample]
    { s with mp := { s.mp with ring := newest 4096 ring, ringBase := s.mp.ringBase + (ring.length - (newest 4096 ring).length) } }

/-- MIN_VER_RAISE (R414): the image has run for 60 s without a watchdog reset. -/
def minVerEffect (s : State) : State :=
  let v := (fwSlot s s.mp.slot).minAfter
  if s.mp.started ∧ minVerNow s.mp < v then logFirmware { s with mp := { s.mp with minVer := v, minBad := false } } 2 (fwVersion s s.mp.slot) else s

/-- MP_WATCHDOG (R403). -/
def watchdogEffect (s : State) : State :=
  if s.seq.dev = .off ∨ s.mp.started = false then s
  else
    let n := (pgGet s .mbx 0 0x130).toNat
    let s := pgSet (bump s .mbx 0 0xc38 1) .mbx 0 0x130 (w32 (min 0xffffffff (n + 1)))
    mpResetEffect 2 (setInt s .mbx 0 2)

end Sys2Proof.Machine
end

