-- ==== Sys2Proof/Machine/LoadCheck.lean ====
section
/-! DEFINITION. The load checks (R57, R162, R172 to R185, R230 to R243, R285, R313) over a program image: every status that
applies; R18 picks one. -/

namespace Sys2Proof.Machine

/-! ### Counts over every path and every combination of modes (R241) -/

/-- What must hold of the modes for a part of the program to run: one layer's MODE, or nothing. -/
abbrev Guard := Option (Nat × Bool)
/-- Amounts with their guards. -/
abbrev Tally := List (Guard × Nat)

/-- Sum of the amounts under one guard. -/
def tallyAt (c : Tally) (g : Guard) : Nat := ((c.filter (fun e => e.1 == g)).map (·.2)).sum
/-- Layers whose modes the amounts depend on. -/
def tallyLayers (c : Tally) : List Nat := (c.filterMap (fun e => e.1.map (·.1))).eraseDups
/-- The sum when layer `l` takes mode `v l`. -/
def tallySum (c : Tally) (v : Nat → Nat) : Nat := tallyAt c none + ((tallyLayers c).map v).sum
/-- The least sum over the combinations of modes in which guard `g` holds. -/
def tallyMin (c : Tally) (g : Guard) : Nat :=
  tallySum c (fun l => match g with
    | some (k, v) => if k = l then tallyAt c (some (l, v)) else min (tallyAt c (some (l, true))) (tallyAt c (some (l, false)))
    | none => min (tallyAt c (some (l, true))) (tallyAt c (some (l, false))))
/-- The greatest sum over the combinations of modes. -/
def tallyMax (c : Tally) : Nat := tallySum c (fun l => max (tallyAt c (some (l, true))) (tallyAt c (some (l, false))))
/-- Every combination of modes gives one sum. -/
def tallySame (c : Tally) : Bool := (tallyLayers c).all (fun l => tallyAt c (some (l, true)) == tallyAt c (some (l, false)))
/-- Two tallies agree, the second multiplied by `m`, in every combination of modes. -/
def tallyEq (a b : Tally) (m : Nat) : Bool :=
  let ls := (tallyLayers a ++ tallyLayers b).eraseDups
  let at' (c : Tally) (l : Nat) (v : Bool) : Nat := tallyAt c (some (l, v))
  ls.all (fun l => at' a l true + m * at' b l false == at' a l false + m * at' b l true)
  && tallyAt a none + (ls.map (fun l => at' a l true)).sum == m * (tallyAt b none + (ls.map (fun l => at' b l true)).sum)
/-- Some combination of modes meets both guards. -/
def compat (g h : Guard) : Bool :=
  match g, h with
  | some (k, v), some (l, w) => k != l || v == w
  | _, _ => true
/-- Whenever `g` holds, one of the guards does. -/
def covered (g : Guard) (ws : List Guard) : Bool :=
  ws.contains none || (g.isSome && ws.contains g) || ws.any (fun w => match w with
    | some (l, v) => ws.contains (some (l, !v))
    | none => true)
/-- Unordered pairs of a list. -/
def pairs (l : List α) : List (α × α) := match l with
  | [] => []
  | a :: r => r.map (fun b => (a, b)) ++ pairs r

/-- Sublists: the layers that take MODE = 1. -/
def subsets : List Nat → List (List Nat)
  | [] => [[]]
  | a :: r => subsets r ++ (subsets r).map (a :: ·)

/-! ### Streams (R238 to R241) -/

/-- Instructions of a stream. -/
def streamList (s : State) (p : Prog) (st : Nat) : List (Nat × StreamInst × Bool) :=
  (List.range (streamLen s p st)).map (fun k => streamParse (streamInst s p st k))

/-- Guard of a stream instruction. -/
def instGuard (i : StreamInst) : Guard := if i.vguard then some (i.layer.toNat, i.variant) else none

/-- The instructions of a stream that a frozen layer does not drop (R153, R238). -/
def streamKept (s : State) (p : Prog) (st : Nat) : List (Nat × StreamInst) :=
  ((streamList s p st).filter (fun x => !(x.2.1.dwguard && layerFrozen p x.2.1.layer.toNat))).map (fun x => (x.1, x.2.1))

/-- A descriptor that a stream issues. -/
structure Issued where
  st : Nat := 0
  unit : Nat := 0
  idx : Nat := 0
  guard : Guard := none
  /-- The guards of the WAITE instructions before it, with their event counters. -/
  waits : List (Nat × Guard) := []
deriving DecidableEq, Repr

/-- Every descriptor that a stream issues, with what comes before it. -/
def streamIssues (st : Nat) : List (Nat × Guard) → List (Nat × StreamInst) → List Issued
  | _, [] => []
  | ws, (op, i) :: r =>
    if op = 1 then
      (List.range i.b.toNat).map (fun k =>
        { st := st, unit := fld i.a 0 8, idx := fld i.a 8 24 + k, guard := instGuard i, waits := ws })
      ++ streamIssues st ws r
    else if op = 3 then streamIssues st ((fld i.a 0 6, instGuard i) :: ws) r
    else streamIssues st ws r

/-- Unit codes of a section's table. -/
def unitCodes (st : Nat) : List Nat := if st = 0 then (List.range 16).map (48 + ·) else List.range 48

/-- Every descriptor of the unit lists that some streams, or all, issue in a step. -/
def issuedFrom (s : State) (p : Prog) (sts : List Nat) : List Issued :=
  (sts.flatMap (fun st => streamIssues st [] (streamKept s p st))).filter (fun x =>
    (unitCodes x.st).contains x.unit && decide (x.idx < unitLen s p x.st x.unit))
def issuedAll (s : State) (p : Prog) : List Issued := issuedFrom s p (List.range 5)

/-- Completion counter of a descriptor of a tile's unit; 255 for none. -/
def descCid (s : State) (p : Prog) (x : Issued) : Nat :=
  let w := unitDesc s p x.st x.unit x.idx
  if x.unit < 24 then fld w 16 8 else fld w 24 8
/-- Event counter of a descriptor of a root unit; 255 for none: EV is byte 2 of both kinds. -/
def descEv (s : State) (p : Prog) (x : Issued) : Nat := fld (unitDesc s p x.st x.unit x.idx) 16 8

/-- Completions of counter `c` of tile `t` in a step. -/
def cidTally (s : State) (p : Prog) (is : List Issued) (t c : Nat) : Tally :=
  (is.filter (fun x => x.st == t + 1 && descCid s p x == c)).map (fun x => (x.guard, 1))
/-- Increments of event counter `e` in a step (R240). -/
def evTally (s : State) (p : Prog) (is : List Issued) (e : Nat) : Tally :=
  ((List.range 5).flatMap (fun st => ((streamKept s p st).filter (fun x => x.1 == 6 && fld x.2.a 0 6 == e)).map (fun x => (instGuard x.2, x.2.b.toNat))))
  ++ (is.filter (fun x => x.st == 0 && descEv s p x == e)).map (fun x => (x.guard, 1))

/-! ### Slots (R235, R236) -/

/-- Guard of a segment. -/
def segGuard (g : Seg) : Guard := if g.var = 0 then none else some (g.layer, g.var == 2)
/-- The segments of a slot that some assembled program holds. -/
def segsKept (s : State) (p : Prog) (t k : Nat) : List Seg :=
  (segs s p t k).filter (fun g => !(g.dw && layerFrozen p g.layer))

/-- Sum of what each instruction gives over one run, a loop's body counted COUNT times. -/
def runSum (f : Nat → ArrInst → Nat) : List Nat → List (Nat × ArrInst × Bool) → Nat
  | _, [] => 0
  | ms, (op, i, _) :: r =>
    if op = 6 then runSum f (i.count.toNat :: ms) r
    else if op = 7 then runSum f (ms.drop 1) r
    else f op i * ms.foldl (· * ·) 1 + runSum f ms r

/-- What the segments of a slot give in a step. -/
def slotTally (s : State) (p : Prog) (t k : Nat) (f : Nat → ArrInst → Nat) : Tally :=
  (segsKept s p t k).map (fun g => (segGuard g, runSum f [] (segInstrs s p g)))

/-- Arrivals at weir `w` of one participant each (R243): slots, then streams. -/
def weirTallies (s : State) (p : Prog) (w : Nat) : List Tally :=
  ((List.range 736).filterMap (fun l =>
    let has := (segsKept s p (l / 184) (l % 184)).any (fun g => (segInstrs s p g).any (fun x => x.1 == 5 && x.2.1.count.toNat == w))
    if has then some (slotTally s p (l / 184) (l % 184) (fun op i => if op = 5 ∧ i.count.toNat = w then 1 else 0)) else none))
  ++ ((List.range 5).filter (fun st => streamArrives s p st w)).map (fun st =>
    ((streamKept s p st).filter (fun x => x.1 == 5 && fld x.2.a 0 12 == w)).map (fun x => (instGuard x.2, 1)))

/-- C_w: 0 for a weir without participant (R243). -/
def closingCount (ts : List Tally) : Nat := match ts with
  | [] => 0
  | c :: _ => tallyMin c none
/-- Every participant arrives the same number of times over every path. -/
def closingOk (ts : List Tally) : Bool := ts.all (fun c => tallySame c && tallyMin c none == closingCount ts)

/-! ### An assembled program (R57, R162, R481) -/

/-- The program that one combination of modes assembles; TARGET and POS may pass 4095 here and are checked as
numbers. -/
structure AsmAt where
  /-- Name, opcode, fields and TARGET of each instruction. -/
  instrs : List (Nat × Nat × ArrInst × Nat) := []
  /-- Opcode, fields and POS of each row descriptor. -/
  rows : List (Nat × RowDesc × Nat) := []
deriving DecidableEq, Repr

/-- Assembles the segments that belong to the modes. -/
def asmAt (s : State) (p : Prog) (wide : Nat → Bool) (t k : Nat) : AsmAt :=
  (((segs s p t k).mapIdx (fun j g => (j, g))).filter (fun x => segIn p wide x.2)).foldl (fun acc x =>
    let base := acc.instrs.length
    { instrs := acc.instrs ++ (segInstrs s p x.2).mapIdx (fun n y => (x.1 * 2 ^ 32 + n, y.1, y.2.1, base + y.2.1.target.toNat))
      rows := acc.rows ++ (segRows s p x.2).map (fun y => (y.1, y.2.1, base + y.2.1.pos.toNat)) }) {}

/-- LOOP and NEXT match by counter and nest: the open loops are counter, place and TARGET. A TARGET beyond a program of
`len` instructions is another matter (Table 2.9). That a TARGET inside the program must be that of the pair, and that a loop
holds no other loop of its own counter, is the model's choice (assumption 133). -/
def loopsOk (len : Nat) : Nat → List (Nat × Nat × Nat) → List (Nat × Nat × ArrInst × Nat) → Bool
  | _, st, [] => st.isEmpty
  | n, st, (_, op, i, tgt) :: r =>
    if op = 6 then !(st.any (fun e => e.1 == i.lctr.toNat)) && loopsOk len (n + 1) ((i.lctr.toNat, n, tgt) :: st) r
    else if op = 7 then
      match st with
      | [] => false
      | (c, at', t) :: st =>
        c == i.lctr.toNat && (tgt == at' + 1 || decide (len ≤ tgt)) && (t == n + 1 || decide (len ≤ t)) && loopsOk len (n + 1) st r
    else loopsOk len (n + 1) st r

/-- What a trace of a program knows: the plane each PLANE value names with its format, and whether it is whole; N of
the statistics written; product instructions with the plane format found; and that a rule was broken. -/
structure Trace where
  planes : List (Nat × Fmt × Bool) := []
  stats : AMap Nat := []
  uses : List (Nat × Fmt) := []
  bad : Bool := false

/-- LDP of plane `q` in format `f` (R481): the planes whose bits it writes are no longer whole. -/
def traceLdp (x : Trace) (q : Nat) (f : Fmt) : Trace :=
  let hit (e : Nat × Fmt × Bool) : Bool := overlap (e.1 * e.2.1.bits, e.2.1.bits) (q * f.bits, f.bits)
  { x with planes := (q, f, true) :: ((x.planes.filter (fun e => e.1 != q)).map (fun e => if hit e then (e.1, e.2.1, false) else e)) }

/-- A product instruction: the plane must be there, whole, and pair with the streamed format (R38, R481). -/
def traceProduct (x : Trace) (name : Nat) (i : ArrInst) : Trace :=
  match x.planes.find? (fun e => e.1 == i.plane.toNat) with
  | none => { x with bad := true }
  | some (_, f, whole) =>
    let ok := whole && (fmtOfCode i.fmt.toNat).elim true (fun g => pairOk f g)
    { x with bad := x.bad || !ok, uses := (name, f) :: x.uses }

/-- A row descriptor (R162): a forward without RECOMP writes statistics; a backward without it needs them. -/
def traceRow (x : Trace) (op : Nat) (d : RowDesc) : Trace :=
  if d.recomp || d.n = 0 || d.rows = 0 then x
  else if rowIsF op then { x with stats := asetR (fun _ => 0) x.stats d.stat.toNat d.rows.toNat (fun _ => d.n.toNat) }
  else
    { x with bad := x.bad || !(List.range d.rows.toNat).all (fun j => aget (fun _ => 0) x.stats (d.stat.toNat + j) == d.n.toNat) }

/-- Follows a program from `pc` with loop counters; a body runs at most twice, after which nothing changes. -/
def traceGo (a : AsmAt) : Nat → Nat → List Nat → Trace → Trace
  | 0, _, _, x => x
  | k + 1, pc, ctr, x =>
    match a.instrs.drop pc with
    | [] => x
    | (name, op, i, tgt) :: _ =>
      let x := (a.rows.filter (fun r => r.2.2 == pc)).foldl (fun x r => traceRow x r.1 r.2.1) x
      match op with
      | 1 => traceGo a k (pc + 1) ctr (match fmtOfCode i.fmt.toNat with
          | some f => traceLdp x i.plane.toNat f
          | none => x)
      | 2 | 3 => traceGo a k (pc + 1) ctr (traceProduct x name i)
      | 6 => if i.count = 0 then traceGo a k tgt ctr x else traceGo a k (pc + 1) (ctr.set i.lctr.toNat (min 2 i.count.toNat)) x
      | 7 =>
        let c := ctr.getD i.lctr.toNat 0 - 1
        traceGo a k (if c = 0 then pc + 1 else tgt) (ctr.set i.lctr.toNat c) x
      | _ => traceGo a k (pc + 1) ctr x

/-- The checks on one assembled program, with its uses of planes; one whose loops do not nest has no path to follow. An END
before the last instruction is refused as well (assumption 133). -/
def asmCheck (a : AsmAt) : List Half × List (Nat × Fmt) :=
  let n := a.instrs.length
  let shape := chk (!loopsOk n 0 [] a.instrs || (a.instrs.getLast?.elim 0 (fun x => x.2.1)) != 8
      || (a.instrs.take (n - 1)).any (fun x => x.2.1 == 8)
      || !((a.rows.zip (a.rows.drop 1)).all (fun x => decide (x.1.2.2 ≤ x.2.2.2)))) stField
  let size := chk (a.instrs.any (fun x => (x.2.1 == 6 || x.2.1 == 7) && decide (n ≤ x.2.2.2))
      || a.rows.any (fun r => decide (n ≤ r.2.2)) || decide (4096 < n + 4 * a.rows.length)) stLen
  if shape ≠ [] then (shape ++ size, [])
  else
    let x := traceGo a (16 * n + 1) 0 [0, 0, 0, 0] {}
    (size ++ chk x.bad stFmt, x.uses)

/-! ### The checks of a slot (R172 to R174, R235, R236) -/

/-- The code of a segment lies within the image. -/
def segPlaced (p : Prog) (g : Seg) : Bool := decide (g.off + 16 * g.ninstr + 64 * g.ndesc ≤ p.len)

/-- The header of a segment. -/
def segCheck (p : Prog) (g : Seg) : List Half :=
  chk (g.rsvd || g.var = 3 || (g.var = 0 && !g.dw && g.layer != 0) || g.off % 64 != 0) stField
  ++ chk ((!(g.var = 0 && !g.dw) && p.layers ≤ g.layer) || !segPlaced p g) stLen

/-- The instructions and row descriptors of one segment against the ring records. -/
def codeCheck (s : State) (p : Prog) (rs : List Ring) (g : Seg) : List Half :=
  let region (e : Nat × Nat) : Bool := rs.any (fun r => r.en && overlap e (ringRegion r))
  (segInstrs s p g).flatMap (fun x =>
    let i := x.2.1
    let r := rs.getD i.ring.toNat {}
    let ringRead := (x.1 = 2 || x.1 = 3) && i.src == 1
    chk x.2.2 stField ++ arrCheck x.1 i p.layers p.weirs ++ chk (ringRead && !r.en) stField
    ++ chk ((ringRead && r.en && (fmtOfCode i.fmt.toNat).elim false (fun f => decide (r.rowWords * 16 < f.stored 3)))
      || (arrExtents x.1 i).any region) stLen)
  ++ (segRows s p g).flatMap (fun x =>
    chk x.2.2 stField ++ rowCheck x.1 x.2.1 ++ chk ((rowExtents x.1 x.2.1).any region) stLen)

/-- Layers whose mode decides a slot's program. -/
def slotLayers (s : State) (p : Prog) (t k : Nat) : List Nat :=
  ((segsKept s p t k).filterMap (fun g => if g.var = 0 then none else some g.layer)).eraseDups

/-- Every program that some combination of modes assembles for a slot; one product reads one plane format in all. -/
def asmChecks (s : State) (p : Prog) (t k : Nat) : List Half :=
  let rs := (subsets (slotLayers s p t k)).map (fun w => asmCheck (asmAt s p (fun l => w.contains l) t k))
  let uses := (rs.flatMap (·.2)).eraseDups
  rs.flatMap (·.1) ++ chk (uses.any (fun u => uses.any (fun v => u.1 == v.1 && u.2 != v.2))) stFmt

/-- The segment list of a slot lies within the image, and so does the code of each. -/
def segsIn (s : State) (p : Prog) (t k : Nat) : Bool := decide (segOff s p t k + 16 * segCount s p t k ≤ p.len)
def slotIn (s : State) (p : Prog) (t k : Nat) : Bool := segsIn s p t k && (segs s p t k).all (segPlaced p)

/-- END stands at the end of the last segment, which is common, and nowhere else (R236). -/
def endsOk (s : State) (p : Prog) (gs : List Seg) : Bool :=
  let isEnd (x : Nat × ArrInst × Bool) : Bool := x.1 == 8
  (gs.getLast?.elim true (fun g => g.var == 0 && !g.dw && (!segPlaced p g || (segInstrs s p g).getLast?.elim false isEnd)))
  && (gs.take (gs.length - 1)).all (fun g => !(segPlaced p g && (segInstrs s p g).any isEnd))

/-- The checks of slot `k` of tile `t`: code that lies outside the image is not looked into. -/
def slotCheck (s : State) (p : Prog) (t k : Nat) : List Half :=
  let rr := slotRings s p t k
  let rs := rr.map (·.1)
  let n := segCount s p t k
  let size : Tally := (segsKept s p t k).map (fun g => (segGuard g, g.ninstr + 4 * g.ndesc))
  rr.flatMap (·.2) ++ chk ((pairs (rs.filter (·.en))).any (fun x => overlap (ringRegion x.1) (ringRegion x.2))) stLen
  ++ chk (imgNat s p (slotEnt s p t k + 72) 56 != 0 || segOff s p t k % 64 != 0) stField ++ chk (n = 0 || 4096 < n || !segsIn s p t k) stLen
  ++ (if segsIn s p t k then
        (segs s p t k).flatMap (segCheck p) ++ chk (!endsOk s p (segs s p t k)) stField ++ chk (4096 < tallyMax size) stLen
        ++ ((segsKept s p t k).filter (segPlaced p)).flatMap (codeCheck s p rs)
      else [])
  ++ (if slotIn s p t k && n != 0 then asmChecks s p t k else [])

/-! ### Descriptors (R184, R185, R285, R313) -/

/-- A DMA descriptor of a list of tile `t`. -/
def loadDma (s : State) (p : Prog) (t : Nat) (w : Cmd) : List Half :=
  let (op, d, rsvd) := dmaParse w
  let ringOf (e : Endpoint) : Ring := ((slotRings s p t (epSlot e)).getD (epRing e) ({}, [])).1
  let hits (e : Endpoint) (row : Nat) : Bool :=
    epKind e = 1 && epSlot e < 184
    && (slotRings s p t (epSlot e)).any (fun r => r.1.en && overlap (epOff e, dmaExtent d e row) (ringRegion r.1))
  let fill := epKind d.dst = 2 && epSlot d.dst < 184
  let r := ringOf d.dst
  chk rsvd stField ++ dmaCheck op d ++ dmaCheckMem op d s ++ chk (fill && !r.en) stField
  ++ chk ((fill && r.en && (d.rows.toNat != r.slotRows || r.rowWords * 16 < dmaDstRow d))
    || hits d.src d.length.toNat || hits d.dst (dmaDstRow d)) stLen

/-- An update descriptor with its rule record. -/
def loadUpd (s : State) (p : Prog) (w : Cmd) : List Half :=
  let (op, d, rsvd) := updParse w
  let r := ruleAt s p d.ruleOff.toNat
  chk rsvd stField ++ updCheck op d p.layers ++ ruleCheck s p d.ruleOff.toNat ++ chk (d.clip && r.normEv = 0xff) stField
  ++ updCheckMem s op d r (layerByte s p d.layer.toNat 4).toNat

/-- A confluence descriptor. -/
def loadCfl (s : State) (w : Cmd) : List Half :=
  let (op, d, rsvd) := cflParse w
  chk rsvd stField ++ cflCheck op d (hasLcu s) ++ cflCheckMem s op d (reachD s) (myIndex s)

/-- A DRAIN (R317). -/
def loadDrain (w : Cmd) : List Half :=
  let ev := fld w 16 8
  chk (fld w 0 8 != 1 || fld w 8 8 != 0 || fld w 24 488 != 0 || !(ev = 0xff || (32 ≤ ev && ev < 64))) stField

/-- The statuses of one descriptor of unit `u`. -/
def loadDesc (s : State) (p : Prog) (st u : Nat) (w : Cmd) : List Half :=
  if u < 24 then loadDma s p (st - 1) w
  else if 32 ≤ u ∧ u < 35 then loadUpd s p w
  else if u = 48 then loadCfl s w
  else if 56 ≤ u ∧ u < 62 then loadDrain w
  else []

/-- The descriptor list of a unit lies within the image. -/
def listIn (s : State) (p : Prog) (st u : Nat) : Bool := decide (unitOff s p st u + 64 * unitLen s p st u ≤ p.len)

/-- The unit table of a section: entries, and the descriptors of the lists. -/
def unitsCheck (s : State) (p : Prog) (st : Nat) : List Half :=
  (unitCodes st).flatMap (fun u =>
    let n := unitLen s p st u
    chk (unitOff s p st u % 64 != 0) stField ++ chk (2 ^ 24 ≤ n || !listIn s p st u) stLen
    ++ (if listIn s p st u then (List.range n).flatMap (fun k => loadDesc s p st u (unitDesc s p st u k)) else []))

/-! ### Rules over all descriptors of a step -/

/-- Tensor extents that a DENSE or LAZY descriptor writes (R276): none for a layer with FROZEN = 1 (R282). -/
def updSpans (s : State) (p : Prog) (d : UpdDesc) (op : Nat) : List (Nat × Nat × Nat) :=
  if layerFrozen p d.layer.toNat then []
  else
  let r := ruleAt s p d.ruleOff.toNat
  let wn := (layerByte s p d.layer.toNat 4).toNat
  let full := (updExtents op d r wn).filter (fun e => e.2.2)
  let before := if op = 2 then [] else (updExtents 1 { d with count := d.first, first := 0 } r wn).filter (fun e => e.2.2)
  full.mapIdx (fun k e =>
    let lo := if op = 2 ∨ d.first = 0 then 0 else (before.getD k (0, 0, false)).2.1
    (e.1.toNat, lo, e.2.1 - lo))

/-- Two extents of one tensor touch a page in common (R277). -/
def sharePage (a b : Nat × Nat × Nat) : Bool :=
  a.1 == b.1 && a.2.2 != 0 && b.2.2 != 0 && a.2.1 / pageSize ≤ (b.2.1 + b.2.2 - 1) / pageSize && b.2.1 / pageSize ≤ (a.2.1 + a.2.2 - 1) / pageSize

/-- The update descriptors among those issued. -/
def updIssued (s : State) (p : Prog) (is : List Issued) : List (Issued × (Nat × UpdDesc × Bool)) :=
  (is.filter (fun x => 32 ≤ x.unit && x.unit < 35)).map (fun x => (x, updParse (unitDesc s p x.st x.unit x.idx)))

/-- The formats of Table 10.7 over the update descriptors `listed` and those issued. -/
def updFormats (s : State) (p : Prog) (is : List Issued) (listed : List UpdDesc) : List Half :=
  let clipOk (x : Issued) (d : UpdDesc) : Bool :=
    let ev := (ruleAt s p d.ruleOff.toNat).normEv
    !d.clip || covered x.guard ((x.waits.filter (fun w => w.1 == ev)).map (·.2))
  chk (((updIssued s p is).any (fun x => !clipOk x.1 x.2.2.1))
    || listed.any (fun d => listed.any (fun e => d.layer == e.layer && d.fcf != e.fcf))) stFmt

/-- The extents of Table 10.7 over the update descriptors of a step. -/
def updStep (s : State) (p : Prog) (is : List Issued) : List Half :=
  let us := updIssued s p is
  chk ((pairs us).any (fun x => compat x.1.1.guard x.2.1.guard
      && ((x.1.1.st == x.2.1.st && x.1.1.unit == x.2.1.unit && x.1.1.idx == x.2.1.idx)
        || (updSpans s p x.1.2.2.1 x.1.2.1).any (fun a => (updSpans s p x.2.2.2.1 x.2.2.1).any (fun b =>
              sharePage a b || (a.1 == b.1 && a.2.2 != 0 && b.2.2 != 0 && (x.1.2.1 == 2 || x.2.2.1 == 2))))))) stLen

/-- Extents of E_H and D_H of a REDUCE. -/
def redExtents (d : CflDesc) : List (Nat × Nat × Nat) :=
  (if d.cmp then [(d.eH.toNat, 0, 64 * d.count.toNat)] else []) ++ (if d.dH = 0 then [] else [(d.dH.toNat, 0, 128 * d.count.toNat)])

/-- Table 11.9 over the descriptors of the root's units of a step. -/
def cflStep (s : State) (p : Prog) (is : List Issued) : List Half :=
  let us := (is.filter (fun x => x.st == 0)).map (fun x => (x, cflParse (unitDesc s p 0 x.unit x.idx)))
  let red (x : Issued × Nat × CflDesc × Bool) : Bool := x.1.unit == 48 && x.2.1 == 1
  chk ((pairs us).any (fun x => compat x.1.1.guard x.2.1.guard
      && ((x.1.1.unit == x.2.1.unit && x.1.1.idx == x.2.1.idx)
        || (red x.1 && red x.2 && (redExtents x.1.2.2.1).any (fun a => (redExtents x.2.2.2.1).any (fun b =>
              a.1 == b.1 && overlap (a.2.1, a.2.2) (b.2.1, b.2.2))))))) stLen

/-- Probe descriptors of record `n` issued in a step (R242). -/
def probeTally (s : State) (p : Prog) (is : List Issued) (n : Nat) : Tally :=
  (is.filter (fun x => x.st != 0 && x.unit < 24
    && (let d := (dmaParse (unitDesc s p x.st x.unit x.idx)).2.1
        d.probe && (fwSid d.fmtw).toNat == n))).map (fun x => (x.guard, 1))
/-- Records that a probe of the step names. -/
def probeRecs (s : State) (p : Prog) (is : List Issued) : List Nat :=
  (is.filterMap (fun x =>
    let d := (dmaParse (unitDesc s p x.st x.unit x.idx)).2.1
    if x.st != 0 && x.unit < 24 && d.probe then some (fwSid d.fmtw).toNat else none)).eraseDups

/-- Fills of ring `r` of slot `k` of tile `t` (R179). -/
def fillTally (s : State) (p : Prog) (is : List Issued) (t k r : Nat) : Tally :=
  (is.filter (fun x => x.st == t + 1 && x.unit < 24
    && (let d := (dmaParse (unitDesc s p x.st x.unit x.idx)).2.1
        epKind d.dst == 2 && epSlot d.dst == k && epRing d.dst == r))).map (fun x => (x.guard, 1))

/-- The rows read from every ring are the rows that its fills deliver (R179). -/
def ringsBalance (s : State) (p : Prog) (is : List Issued) : Bool :=
  (List.range 4).all (fun t => (List.range 184).all (fun k => (List.range 4).all (fun r =>
    let g := ((slotRings s p t k).getD r ({}, [])).1
    let reads := slotTally s p t k (fun op i => if (op = 2 ∨ op = 3) ∧ i.src = 1 ∧ i.ring.toNat = r then i.rows.toNat else 0)
    tallyEq reads (fillTally s p is t k r) (g.slotRows * g.uses))))

/-- The values that the waits of a stream may ask for (Tables 9.9, 9.17). -/
def waitsCheck (s : State) (p : Prog) (is : List Issued) (st : Nat) : List Half :=
  chk ((streamKept s p st).any (fun x =>
    let i := x.2
    let g := instGuard i
    match x.1 with
    | 2 => decide (tallyMin (cidTally s p is (st - 1) (fld i.a 0 8)) g < i.b.toNat)
    | 3 => decide (32 ≤ fld i.a 0 6) && decide (tallyMin (evTally s p is (fld i.a 0 6)) g < i.b.toNat)
    | 4 => decide (closingCount (weirTallies s p (fld i.a 0 12)) < i.b.toNat)
    | _ => false)) stLen

/-! ### Header, sections and the whole image (R230 to R234) -/

/-- An array that LOAD may give a slot (R65): usable, not dark and not asked to be excluded; one whose EXCLUDE bit has been
cleared is readmitted by the LOAD. -/
def schedulable (s : State) (a : Nat) : Bool :=
  arrUsable s a && (arrGet s a).st != .dark && !(pgGet s .arr a 8).getLsbD 0

/-- The header (Table 9.2). Layer records are not looked at (assumption 120). -/
def headerCheck (s : State) (p : Prog) : List Half :=
  let h (o n : Nat) : Nat := imgNat s p o n
  let req := h 0x10 4
  let nst := req / 2 ^ 8 % 16
  let tens (w : Nat) (cls size : Nat) : List Half := match tensorOf s (w % 2 ^ 24) with
    | none => [stHandle]
    | some t => chk (t.cls != cls) stHandle ++ chk (decide (t.size < size)) stLen
  let offs := [(h 0x24 4, 16 * p.layers), (h 0x28 4, 4 * p.weirs), (h 0x2c 4, 64)] ++ p.tileOff.map (fun o => (o, 64))
  chk (h 0 1 != 1 || 128 ≤ p.shape || (shapeDoubled p && !(shapeX p == 4 && shapeY p == 4 && shapeZ p == 1)) || h 3 1 != 0
    || req / 2 ^ 7 % 2 != 0 || 2 ^ 12 ≤ req || p.stepLimit = 0
    || [0x18, 0x1c, 0x20, 0x40].any (fun o => decide (2 ^ 24 ≤ h o 4)) || h 0x44 60 != 0
    || offs.any (fun e => e.1 % 64 != 0)) stField
  ++ chk (p.shape % 4 = 3 || p.shape / 4 % 4 = 3 || p.shape / 16 % 4 = 3 || 2048 < p.layers || 4095 < p.weirs || 3 < nst
    || offs.any (fun e => decide (p.len < e.1 + e.2))) stLen
  ++ chk ((List.range 6).any (fun k => req.testBit k && !portFitted s.fit k) || (req.testBit 6 && !hasLcu s)
    || (nst ≤ 3 && (List.range 4).any (fun t => decide (tileStacks s t < nst)))
    || (shapePorts p).any (fun k => !portFitted s.fit k)
    || (List.range 4).any (fun t => decide ((List.range 192).countP (fun k => schedulable s (t * 192 + k)) < 184))) stCap
  ++ tens (h 0x18 4) 0 8 ++ (if p.layers = 0 then chk (h 0x1c 4 != 0) stHandle else tens (h 0x1c 4) 0 (96 * p.layers))
  ++ (if h 0x20 4 = 0 then [] else tens (h 0x20 4) 1 0) ++ (if h 0x40 4 = 0 then [] else tens (h 0x40 4) 0 0)

/-- Layer entries (Table 9.3). An adapter whose A or B has no layer record names no handle (R157). -/
def layersCheck (s : State) (p : Prog) : List Half :=
  (List.range p.layers).flatMap (fun l =>
    let b (o n : Nat) : Nat := imgNat s p (p.layerOff + 16 * l + o) n
    let ad := b 0 1 / 2 % 2 == 1
    let out := ad && (p.layers ≤ b 4 2 || p.layers ≤ b 6 2)
    chk (4 ≤ b 0 1 || b 2 2 != 0 || b 8 8 != 0 || (!ad && (b 1 1 != 0 || b 4 4 != 0))) stField
    ++ chk out stHandle ++ chk out stLen)

/-- Weir entries (R233). -/
def weirsCheck (s : State) (p : Prog) : List Half :=
  (List.range p.weirs).flatMap (fun w => chk (decide (2 ≤ imgNat s p (p.weirOff + 4 * w) 4)) stField)

/-- The parts of a section that lie within the image: its header, its stream, its unit table, its slot table. -/
def sectionIn (p : Prog) (st : Nat) : Bool := decide (secOff p st + 64 ≤ p.len)
def streamIn (s : State) (p : Prog) (st : Nat) : Bool := sectionIn p st && decide (streamOff s p st + 16 * streamLen s p st ≤ p.len)
def unitsIn (s : State) (p : Prog) (st : Nat) : Bool :=
  sectionIn p st && decide (unitTab s p st + (if st = 0 then 128 else 384) ≤ p.len)
def slotsIn (s : State) (p : Prog) (t : Nat) : Bool := sectionIn p (t + 1) && decide (slotTab s p t + 184 * 128 ≤ p.len)

/-- The header of a section (Table 9.4). -/
def sectionCheck (s : State) (p : Prog) (st : Nat) : List Half :=
  let n := streamLen s p st
  let sl := if st = 0 then 0 else slotTab s p (st - 1)
  chk (streamOff s p st % 64 != 0 || unitTab s p st % 64 != 0 || sl % 64 != 0 || imgNat s p (secOff p st + 0x10) 48 != 0
    || (st = 0 && imgNat s p (secOff p st + 12) 4 != 0)) stField
  ++ chk (n = 0 || 2 ^ 24 ≤ n || !streamIn s p st || !unitsIn s p st || (st != 0 && !slotsIn s p (st - 1))) stLen

/-- The instructions of a stream. -/
def streamsCheck (s : State) (p : Prog) (st : Nat) : List Half :=
  let l := streamList s p st
  l.flatMap (fun x => chk x.2.2 stField ++ streamCheck st x.1 x.2.1 p.layers p.weirs ++ (if x.1 = 1 then issueCheck s st x.2.1 else []))
  ++ chk (!l.isEmpty && ((l.getLast?.elim 0 (·.1)) != 7 || (l.take (l.length - 1)).any (fun x => x.1 == 7))) stField

/-- What every part of a section gives. -/
def sectionStatuses (s : State) (p : Prog) (st : Nat) : List Half :=
  if sectionIn p st then
    sectionCheck s p st ++ (if unitsIn s p st then unitsCheck s p st else []) ++ (if streamIn s p st then streamsCheck s p st else [])
    ++ (if st != 0 && slotsIn s p (st - 1) then (List.range 184).flatMap (slotCheck s p (st - 1)) else [])
  else []

/-- Every stream and every descriptor list lies within the image, and every slot program does. -/
def stepIn (s : State) (p : Prog) : Bool :=
  (List.range 5).all (fun st => streamIn s p st && unitsIn s p st && (unitCodes st).all (listIn s p st))
def programsIn (s : State) (p : Prog) : Bool :=
  (List.range 4).all (fun t => slotsIn s p t && (List.range 184).all (slotIn s p t))

/-- The format rules over update descriptors, as far as streams and lists lie within the image. -/
def formatsCheck (s : State) (p : Prog) : List Half :=
  let lists (st u : Nat) : Bool := unitsIn s p st && listIn s p st u
  let is := (issuedFrom s p ((List.range 5).filter (streamIn s p))).filter (fun x => lists x.st x.unit)
  let listed := (List.range 4).flatMap (fun t => ([32, 33, 34].filter (lists (t + 1))).flatMap (fun u =>
    (List.range (unitLen s p (t + 1) u)).map (fun k => (updParse (unitDesc s p (t + 1) u k)).2.1)))
  updFormats s p is listed

/-- Rules over all that a step issues. -/
def stepCheck (s : State) (p : Prog) : List Half :=
  let is := issuedAll s p
  updStep s p is ++ cflStep s p is
  ++ chk ((probeRecs s p is).any (fun n => !tallySame (probeTally s p is n))) stLen
  ++ chk ((List.range 32).any (fun e => decide (2 ^ 32 ≤ tallyMax (evTally s p is (32 + e))))) stLen

/-- Rules over all that a step issues and runs. -/
def wholeCheck (s : State) (p : Prog) : List Half :=
  let is := issuedAll s p
  chk (!ringsBalance s p is) stLen
  ++ chk ((List.range p.weirs).any (fun w => !closingOk (weirTallies s p (w + 1)))) stLen
  ++ (List.range 5).flatMap (waitsCheck s p is)

/-- Every status that applies to an image: only what lies outside the image is not looked into. -/
def imageStatuses (s : State) (p : Prog) : List Half :=
  headerCheck s p ++ (if p.layerOff + 16 * p.layers ≤ p.len then layersCheck s p else [])
  ++ (if p.weirOff + 4 * p.weirs ≤ p.len then weirsCheck s p else [])
  ++ (List.range 5).flatMap (sectionStatuses s p)
  ++ formatsCheck s p ++ (if stepIn s p then stepCheck s p else []) ++ (if stepIn s p && programsIn s p then wholeCheck s p else [])

/-! ### LOAD (R256, R257) -/

/-- The state in which a candidate program is checked: its header in force. -/
def withProg (s : State) (p : Prog) : State := { s with seq := { s.seq with prog := some p } }

/-- Image handle, offset and length of a LOAD (Table 9.14). -/
def loadH (w : Cmd) : Nat := cmdNat w 4 3
def loadOff (w : Cmd) : Nat := cmdNat w 8 5
def loadLen (w : Cmd) : Nat := cmdNat w 16 4

/-- The checks of LOAD. A length of zero names no image. -/
def loadCheck (s : State) (w : Cmd) : List Half :=
  let own := chk (cmdRsvd w [(32, 24), (64, 40), (128, 32)] || loadOff w % 64 != 0) stField
  if loadLen w = 0 then own
  else match tensorOf s (loadH w) with
    | none => own ++ [stHandle]
    | some t =>
      let out := decide (loadLen w < 128 ∨ t.size < loadOff w + loadLen w)
      let p := progOf s (loadH w) (loadOff w) (loadLen w)
      own ++ chk (t.cls == 0) stHandle ++ chk out stLen ++ (if out then [] else imageStatuses (withProg s p) p)

/-- Handles that a DMA, update or confluence descriptor names. -/
def descHandles (s : State) (p : Prog) (st u k : Nat) : List Nat :=
  let w := unitDesc s p st u k
  if u < 24 then
    let d := (dmaParse w).2.1
    ((if epKind d.src = 0 then [epHandle d.src] else []) ++ (if epKind d.dst = 0 then [epHandle d.dst] else []))
  else if 32 ≤ u ∧ u < 35 then (updHandles (updParse w).2.1).map (·.toNat)
  else if u = 48 then
    let d := (cflParse w).2.1
    [d.srcH, d.dstH, d.eH, d.dH, d.nH].map (·.toNat)
  else []

/-- Every handle that a program names (R201, R230). -/
def progHandles (s : State) (p : Prog) : List Nat :=
  (([p.handle, p.runRec, p.layerRec, p.wideRes, p.scaleRec]
    ++ (List.range 5).flatMap (fun st => (unitCodes st).flatMap (fun u => (List.range (unitLen s p st u)).flatMap (descHandles s p st u)))).filter
      (· != 0)).eraseDups

/-- Exclusions asked for while no program was loaded take effect (Table 2.11, EXCLUDE). -/
def loadExcl (s : State) : State :=
  (List.range 768).foldl (fun s a => if exclPending s a then exclude s a else s) ((List.range 768).foldl readmit s)

/-- Arrays that hold no slot are off; one that holds a slot and has no power waits for action 7 (R369). -/
def loadPower (s : State) : State :=
  (List.range 768).foldl (fun s a =>
    let r := arrGet s a
    if r.st = .dark ∨ r.st = .excluded then s
    else if r.slot.isNone then reguMod (if r = {} then s else arrMod s a arrShell) a (fun g => { g with ramp := none })
    else s) s

/-- The state after `loadExcl` takes the program, counts its probes (R242) and forgets what its predecessor left. -/
def armProbes (s : State) (tallies : List (Nat × Nat)) : State :=
  { s with seq := { s.seq with
      probeCnt := tallies.foldl (fun m e => aset (fun _ => 0) m e.1 e.2) []
      hostEv := [], halt := none, stepsLeft := 0 } }

/-- The bytes of a record past K and CTRL, of every allocated record, read zero in both versions from LOAD on (R102, R480,
assumption 105). -/
def clearRecs (s : State) : State :=
  let h := scaleH s
  let held (e : Nat × Byte) : Bool :=
    let o := e.1 - tkey h 0
    decide (tkey h 0 + 80 ≤ e.1 ∧ e.1 < tkey (h + 1) 0) && recAllocated s (o / 80) && decide (0x44 ≤ o % 80)
  if h = 0 then s
  else { s with mem := { s.mem with bytes := s.mem.bytes.filter (fun e => !held e), work := s.mem.work.filter (fun e => !held e) } }

/-- LOAD: the program is written, and the device enters LOADED. -/
def loadEffect (c : CmdRef) (s : State) : State :=
  if loadLen c.w = 0 then complete s c stOK 0
  else
    let s := loadExcl s
    let p0 := progOf s (loadH c.w) (loadOff c.w) (loadLen c.w)
    let p := { p0 with handles := progHandles s p0 }
    let s := clearRecs (withProg s p)
    let is := issuedAll s p
    let s := armProbes s ((probeRecs s p is).map (fun n => (n, tallyMin (probeTally s p is n) none)))
    let s := setWide s p
    let s := loadPower (assignSlots s p (runsWide s))
    let s := seqReads p.handle p.off p.len (measExtend s 6 (tensorBytes s p.handle p.off p.len))
    complete (resendIdent (setDev s .loaded)) c stOK 0

end Sys2Proof.Machine
end

