-- ==== Sys2Proof/Machine/Commit.lean ====
section
/-! DEFINITION. What a step boundary does to training state: the commit (R98, R104, R105, R214, R322), the jump detector and
the layer actions of action 4 (R135 to R140), and the checks of action 4 that a RESUME repeats. -/

namespace Sys2Proof.Machine

/-! ### Writes of boundary actions (R213, R214) -/

/-- A boundary action writes STATE bytes into the version committed at this boundary (R213, R214). -/
def boundaryWrite (s : State) (h off : Nat) (bs : List Byte) : State :=
  if bs.isEmpty then s
  else
    let s := (pageParts off bs.length).foldl (fun s p => if swappedPage s h p.1 then s else freshPage s h p.1) s
    seqWrites h off bs.length (memWrite s h off bs)

/-- Writes bytes that differ from what the committed version holds. -/
def boundaryPut (s : State) (h off : Nat) (bs : List Byte) : State :=
  if memRead s h off bs.length = bs then s else boundaryWrite s h off bs

/-! ### Scale records (R104, R105) -/

/-- The push of a record that the step used; HEAD counts modulo 16 (assumption 116). -/
def pushScale (s : State) (e : Nat × ScaleRun) : State :=
  if e.2.used && recAllocated s e.1 then
    let head := (recByte s e.1 0x40).toNat % 16
    let s := boundaryWrite s (scaleH s) (recOff e.1 + 4 * head) (leBytes 4 e.2.amax.toNat)
    boundaryWrite s (scaleH s) (recOff e.1 + 0x40) (leBytes 1 ((head + 1) % 16) ++ leBytes 1 (min 16 (recValid s e.1 + 1)))
  else s

/-- The largest entry of a record's history. -/
def histMax (s : State) (n : Nat) : F32 :=
  (List.range 16).foldl (fun a i => fmax a (BitVec.ofNat 32 (memNat s (scaleH s) (recOff n + 4 * i) 4))) 0

/-- K for the next step of a record whose history is full. -/
def setNextK (s : State) (n : Nat) : State :=
  if recValid s n = 16 then
    let k := scaleK (f32V (histMax s n)) (recMax s n) (recMargin s n)
    boundaryPut s (scaleH s) (recOff n + 0x42) [BitVec.ofInt 8 k]
  else s

/-! ### The ledger (R322) -/

/-- The entries of the step are appended, and the count follows. -/
def ledgerCommit (s : State) : State :=
  if s.cfl.ledgerMode = 1 ∧ s.cfl.ledgerNew ≠ [] then
    let n := memNat s s.cfl.ledgerH 0 8
    let bs := s.cfl.ledgerNew.flatMap (fun e => leBytes 8 (stepS s).toNat ++ leBytes 2 e.1 ++ leBytes 1 e.2.1 ++ leBytes 1 e.2.2 ++ leBytes 4 0)
    let s' := cflWrite (cflWrite s s.cfl.ledgerH (16 + 16 * n) bs) s.cfl.ledgerH 0 (leBytes 8 (n + s.cfl.ledgerNew.length))
    { s' with cfl := { s'.cfl with ledgerNew := [] } }
  else s

/-! ### Layer triggers (R135, R136, R138) -/

/-- LAST of quantity `q` of layer `l`, when the monitor has seen a contribution. -/
def monLast (s : State) (l q : Nat) : Option F32 :=
  let m := aget (fun _ => {}) s.seq.monitors (8 * l + q)
  if m.seen then some (monValue m) else none

/-- 32-bit field of a layer record. -/
def layerF32 (s : State) (p : Prog) (l o : Nat) : F32 := BitVec.ofNat 32 (layerNat s p l o 4)

/-- What the detector finds of quantity `q`: JUMP and NONFINITE, and the average that follows. -/
def detect (s : State) (p : Prog) (l q : Nat) (last : F32) : Bool × Bool × F32 :=
  let avg := layerF32 s p l (0x10 + 4 * q)
  let beta := layerNat s p l 2 1
  let warm := layerNat s p l 8 2
  let bad := (f32V last).nonfinite
  let jump := !bad && (layerByte s p l 1).getLsbD q && decide (2 ^ beta ≤ warm) && ((f32V avg).shift (layerNat s p l 3 1)).lt (f32V last)
  let w : F32 := BitVec.ofNat 32 ((127 - beta) * 2 ^ 23)
  (jump, bad, if jump || bad then avg else if warm = 0 then last else fadd avg (fmul (fsub last avg) w))

/-- The quantities of a layer that the step has seen, with what the detector finds. -/
def detections (s : State) (p : Prog) (l : Nat) : List (Nat × F32 × Bool × Bool × F32) :=
  (List.range 6).filterMap (fun q => (monLast s l q).map (fun v => (q, v, detect s p l q v)))

/-- What the projections of the step gave for a layer. -/
def layerRun (s : State) (l : Nat) : LayerRun := aget (fun _ => {}) s.seq.layers l

/-- The device's own triggers of layer `l`: JUMP, NONFINITE, FMT_EVENT in bits 0 to 2. -/
def ownTrigger (s : State) (p : Prog) (l : Nat) : BitVec 3 :=
  let ds := detections s p l
  BitVec.ofNat 3 (bitIf (ds.any (fun d => d.2.2.1)) 0 + bitIf (ds.any (fun d => d.2.2.2.1) || (layerRun s l).nonfinite) 1
    + bitIf (layerRun s l).fmtEvent 2)

/-- The trigger map of R301. -/
def ownTriggers (s : State) (p : Prog) : List (BitVec 3) := (List.range p.layers).map (ownTrigger s p)

/-- The triggers of all devices, bit by bit (R138). -/
def combined (n : Nat) (maps : List (List (BitVec 3))) : List (BitVec 3) :=
  (List.range n).map (fun l => maps.foldl (fun t m => t ||| m.getD l 0) 0)

/-! ### Action 4 (R136 to R140) -/

/-- A field of a record put at an offset. -/
def putAt (r : List Byte) (o : Nat) (bs : List Byte) : List Byte := r.take o ++ bs ++ r.drop (o + bs.length)

/-- What the detector and the projections leave in a layer record (Table 5.5). -/
def recordNotes (s : State) (p : Prog) (l : Nat) (r : List Byte) : List Byte :=
  let ds := detections s p l
  let x := layerRun s l
  let folded := ds.any (fun d => !d.2.2.1 && !d.2.2.2.1)
  let warm := layerNat s p l 8 2
  let fired := (ds.map (fun d => bitIf (d.2.2.1 || d.2.2.2.1) d.1)).sum
  let flags := layerNat s p l 7 1
  let live := if x.efClear then false else if x.efSet then true else flags / 2 % 2 == 1
  let r := ds.foldl (fun r d => putAt (putAt r (0x28 + 4 * d.1) (leBytes 4 d.2.1.toNat)) (0x10 + 4 * d.1) (leBytes 4 d.2.2.2.2.toNat)) r
  let r := putAt r 7 (leBytes 1 (flags % 2 + bitIf live 1 + flags / 4 * 4))
  let r := putAt r 8 (leBytes 2 (if folded then min 65535 (warm + 1) else warm))
  let r := putAt r 0x40 (leBytes 1 fired ++ leBytes 1 (ownTrigger s p l).toNat ++ leBytes 2 x.wideMax)
  let r := putAt r 0x44 (leBytes 4 x.wide ++ leBytes 4 x.spill ++ leBytes 4 x.invalid)
  if runsWide s l then putAt r 0x50 (leBytes 4 (layerNat s p l 0x50 4 + 1)) else r

/-- Whether a layer's action on its combined trigger is a halt (Table 5.6). -/
def layerHalts (s : State) (p : Prog) (l : Nat) (t : BitVec 3) : Bool := layerByte s p l 0 == 2 && t != 0

/-- MODE and FB_LEFT after the layer's action (R139): an FB_LEFT of 0 stays 0, and the latest projection is this device's own
(assumptions 117 to 119). -/
def layerMode (s : State) (p : Prog) (l : Nat) (t : BitVec 3) : Bool × Nat :=
  let act := layerNat s p l 0 1
  let mode := layerWide s p l
  let left := layerNat s p l 0x0a 1
  if layerHalts s p l t then (mode, left)
  else if (act = 1 ∧ t ≠ 0) ∨ (act = 0 ∧ t.getLsbD 2 = true) then (true, layerNat s p l 6 1)
  else if mode then
    (if left - 1 = 0 then (if aget (fun _ => false) s.seq.projFmt (p.layerRec * 2 ^ 16 + l) then (true, 1) else (false, 0)) else (true, left - 1))
  else (mode, left)

/-- The record of layer `l` after action 4. -/
def layerAct (s : State) (p : Prog) (l : Nat) (t : BitVec 3) : State :=
  let r := recordNotes s p l (memRead s p.layerRec (96 * l) 96)
  let m := layerMode s p l t
  let flags := (r.getD 7 0).toNat
  let r := putAt r 7 (leBytes 1 (flags % 4 + bitIf m.1 2))
  boundaryPut s p.layerRec (96 * l) (putAt r 0x0a (leBytes 1 m.2))

/-- Layers with MODE = 1. -/
def wideList (s : State) (p : Prog) : List Nat := (List.range p.layers).filter (layerWide s p)

/-- WIDE_PAGES of a layer in bytes. -/
def widePages (s : State) (p : Prog) (l : Nat) : Nat := layerNat s p l 0x0c 4 * 4096

/-- Size of the wide reserve. -/
def wideSize (s : State) (p : Prog) : Nat := match tensorOf s p.wideRes with
  | some t => if p.wideRes = 0 then 0 else t.size
  | none => 0

/-- End of the extents on WIDE_RES of a layer's wide-variant descriptors (R239). -/
def wideNeed (s : State) (p : Prog) (l : Nat) : Nat :=
  ((issuedAll s p).filter (fun x => x.st != 0 && x.unit < 24 && x.guard == some (l, true))).foldl (fun m x =>
    let d := (dmaParse (unitDesc s p x.st x.unit x.idx)).2.1
    let e (p' : Endpoint) (row : Nat) : Nat := if epKind p' = 0 ∧ epHandle p' = p.wideRes ∧ p.wideRes ≠ 0 then epOff p' + dmaExtent d p' row else 0
    max m (max (e d.src d.length.toNat) (e d.dst (dmaDstRow d)))) 0

/-- Layers whose wide variants do not fit (R140): all that are wide when the reserve is short, else those that pass their
own pages. -/
def reserveShort (s : State) (p : Prog) : List Nat :=
  let ls := wideList s p
  if wideSize s p < (ls.map (widePages s p)).sum then ls else ls.filter (fun l => decide (widePages s p l < wideNeed s p l))

/-- CAUSE bit RESERVE_SHORT. -/
def markShort (s : State) (p : Prog) (ls : List Nat) : State :=
  ls.foldl (fun s l => boundaryPut s p.layerRec (96 * l + 0x41) [layerByte s p l 0x41 ||| 8]) s

/-- The halts of action 4 that hold, in the order of Table 9.15. -/
def act4Causes (s : State) (p : Prog) : List Half :=
  chk ((List.range p.layers).any (fun l => layerHalts s p l (s.seq.lastTrig.getD l 0))) stLayerHalt
    ++ chk (reserveShort s p != []) stMemReserve ++ chk s.mem.exhausted stPageExhausted

/-- The halt of action 4: the status, and the state with RESERVE_SHORT recorded where no layer's own halt goes before it
(R140). -/
def action4Halt (s : State) (p : Prog) : Half × State :=
  let st := (act4Causes s p).headD stOK
  (st, if st = stLayerHalt then s else markShort s p (reserveShort s p))

/-- Action 4: every layer acts on its combined trigger; then the halts, the first of which is returned and the others are
logged (R258). -/
def action4 (s : State) (p : Prog) (trig : List (BitVec 3)) : Half × State :=
  let s := (List.range p.layers).foldl (fun s l => layerAct s p l (trig.getD l 0)) { s with seq := { s.seq with lastTrig := trig } }
  let x := action4Halt s p
  (x.1, logFaults ((act4Causes s p).drop 1) 4 x.2)

/-! ### The commit (action 2) -/

/-- The latest projections of the layers whose forward copy the step has written: of several, that of the descriptor swept
last (assumption 118). -/
def noteProjections (s : State) (p : Prog) : State :=
  let put (m : AMap Bool) (e : Nat × LayerRun) : AMap Bool :=
    if e.2.projected then aset (fun _ => false) m (p.layerRec * 2 ^ 16 + e.1) e.2.lastFmt else m
  { s with seq := { s.seq with projFmt := s.seq.layers.foldl put s.seq.projFmt } }

/-- The step commits: written pages swap, S rises by one, scale records push, the ledger gains its entries. -/
def commitStep (s : State) (p : Prog) : State :=
  let s := ledgerCommit (coldNote s)
  let ws := s.mem.written
  let s := { s with mem := { s.mem with swapped := [], written := [], commits := s.mem.commits + 1 } }
  let s := ws.foldl (fun s e => swapPage s (e.1 / 2 ^ 20) (e.1 % 2 ^ 20)) s
  let s := boundaryWrite s p.runRec 0 (leBytes 8 ((stepS s).toNat + 1))
  let s := s.seq.scales.foldl pushScale s
  let s := (recList s).foldl setNextK s
  let s := noteProjections s p
  { s with seq := { s.seq with stepsLeft := s.seq.stepsLeft - 1 } }

/-- The cause of the device itself that governs the weir's close without commit. -/
def ownNoCommit (s : State) : Option Half := (ownCauses s).head?

end Sys2Proof.Machine
end

