-- ==== Sys2Proof/Machine/HostCommands.lean ====
section
/-! DEFINITION. The host commands (R253 to R261, Tables 9.13 to 9.16): the checks and the effect of each, the command queues
(R338, R339), and the order in which commands start. -/

namespace Sys2Proof.Machine

/-! ### WAKE and SLEEP (R427, R428) -/

/-- Stacks that have power: fitted, beside a tile whose vertical stage works (R354, R360). -/
def liveStacks (s : State) : List Nat := s.fit.hbmFitted.filter (fun k => !(stageGet s (k / 3)).fault)

/-- WAKE: untrained stacks train, and those in self-refresh leave it and retrain; HBM_TRAINING_DONE follows. -/
def wakeEffect (c : CmdRef) (s : State) : State :=
  let s := (liveStacks s).foldl (fun s k => hbmMod s k (fun b => { b with st := if b.st = .operating then .operating else .training })) s
  { s with seq := { s.seq with ramp := some (.wakeTrain c) } }

/-- HBM_TRAINING_DONE: phase 2 begins, or the WAKE ends in STANDBY. -/
def trainingDoneHbm (failed : List Nat) (s : State) : State :=
  match s.seq.ramp with
  | some (.wakeTrain c) =>
    let ks := liveStacks s
    let s := ks.foldl (fun s k => hbmMod s k (fun b => { b with st := if failed.contains k then .untrained else .operating })) s
    let s := { s with seq := { s.seq with ramp := none } }
    if s.fit.hbmFitted.any (fun k => failed.contains k || !ks.contains k) then complete s c stHbmTrain 0
    else if s.fit.idSigOk = false then complete s c stIdFault 0
    else rampAll { s with seq := { s.seq with ramp := some (.wakeRamp c) } }
  | _ => s

/-- Every array domain is off and its stores are lost; dark and excluded arrays stay so. -/
def arraysOff (s : State) : State :=
  let off (r : Arr) : Arr := if r.st = .dark ∨ r.st = .excluded then r else arrShell r
  { s with arr := amapMap {} off s.arr, pwr := { s.pwr with reg := amapMap {} (fun r => { r with ramp := none, boost := 0 }) s.pwr.reg } }

/-- SLEEP. -/
def sleepEffect (c : CmdRef) (s : State) : State :=
  let s := (liveStacks s).foldl (fun s k => hbmMod s k (fun b => { b with st := .selfRefresh })) (arraysOff s)
  complete (setDev s .standby) c stOK 0

/-! ### The basin table (R349) -/

/-- An IPv6 address from four registers of the HST_ page, byte 0 lowest (Table 12.11). -/
def regIp (s : State) (o : Nat) : BitVec 128 :=
  BitVec.ofNat 128 (((List.range 4).map (fun k => (pgGet s .hst 0 (o + 4 * k)).toNat * 2 ^ (32 * k))).sum)

/-- Handle of the basin table, 0 for none. -/
def basinH (s : State) : Nat := (pgGet s .hst 0 0x130).toNat

/-- The basin table (Table 12.8), with `n` positions and `k` reductions. -/
def basinRead (s : State) (n k : Nat) : Basin :=
  let h := basinH s
  { self := memNat s h 1 1, addrs := (List.range n).map (fun r => BitVec.ofNat 128 (memNat s h (0x10 + 32 * r) 16)),
    ridx := (List.range n).map (fun r => memNat s h (0x20 + 32 * r) 1),
    rids := (List.range k).map (fun k => memNat s h (0x110 + 2 * k) 2) }

/-- Strictly increasing. -/
def rising : List Nat → Bool
  | a :: b :: r => decide (a < b) && rising (b :: r)
  | _ => true

/-- The checks of R349, all of them, on what of the table lies within the tensor and its ranges (R18). -/
def basinCheck (s : State) (p : Prog) : List Half :=
  let h := basinH s
  if h = 0 then []
  else match tensorOf s h with
    | none => [stHandle]
    | some t =>
      let n := memNat s h 0 1
      let rids := memNat s h 4 4
      let b := basinRead s (min n 8) (min rids (min 4096 ((t.size - 0x110) / 2)))
      chk (t.cls != 4) stHandle
        ++ chk (t.size < 0x110 || n = 0 || 8 < n || 4096 < rids || t.size < 0x110 + 2 * rids) stLen
        ++ chk (memNat s h 2 2 != 0 || memNat s h 8 8 != 0 || (List.range (min n 8)).any (fun r => memNat s h (0x21 + 32 * r) 15 != 0)
            || !rising b.rids || decide (b.ridx.eraseDups.length < min n 8)
            || (1 ≤ n && n ≤ 8 && (decide (n ≤ b.self) || b.addrs.getD b.self 0 != regIp s 0x100 || b.ridx.getD b.self 0 != p.reach))) stField

/-- Delivery goes on with a peer whose address stands in both tables; one that is new begins anew (R336). -/
def basinPeers (old new : Option Basin) (m : AMap Peer) : AMap Peer :=
  match old, new with
  | some o, some n => (List.range (min 8 n.addrs.length)).filterMap (fun r =>
      match (List.range (min 8 o.addrs.length)).find? (fun k => o.addrs.getD k 0 == n.addrs.getD r 0) with
      | some k => if aget (fun _ => {}) m k = {} then none else some (r, aget (fun _ => {}) m k)
      | none => none)
  | _, _ => []

/-- The table that governs until the next START or RESUME: the copy made at each, with the state of its peers. -/
def basinTake (s : State) : State :=
  let new := if basinH s = 0 then none else some (basinRead s (memNat s (basinH s) 0 1) (memNat s (basinH s) 4 4))
  { s with hst := { s.hst with basin := new, peers := basinPeers s.hst.basin new s.hst.peers } }

/-! ### START, RESUME, PAUSE and ABORT (R257, R258, R298) -/

/-- Used ports that fail the check of R298. -/
def badPorts (s : State) : List Nat := match s.seq.prog with
  | some p => (shapePorts p).filter (fun k => !nbrOk s p (progDigest s) k)
  | none => []

/-- STEPS (Table 9.14). -/
def cmdSteps (w : Cmd) : Nat := cmdNat w 8 4

/-- A RESUME that meets LINK_DOWN again does not come to the check of R298. -/
def linkDownAgain (s : State) : Bool :=
  s.seq.dev == .halted && s.seq.halt == some .linkDown && (List.range 6).any (fun k => portUsed s k && (portGet s k).st != .up)

/-- The checks of START and RESUME; STEPS of zero runs nothing and needs none. -/
def startCheck (s : State) (w : Cmd) : List Half :=
  chk (cmdRsvd w [(64, 32)]) stField
  ++ (if cmdSteps w = 0 then [] else match s.seq.prog with
      | none => []
      | some p => basinCheck s p ++ chk (!linkDownAgain s && s.seq.halt != some .dead && !(badPorts s).isEmpty) stNeighbour)

/-- Ports that made a START or RESUME fail show it in MISMATCH bit 7 (Table 11.15). -/
def markPorts (s : State) : State := (badPorts s).foldl (fun s k => portMod s k (fun r => { r with mismatch := r.mismatch ||| 8 })) s

/-- Actions 5 to 7 outside a boundary; false when a dark array finds no spare. -/
def actions57 (s : State) : State × Bool := action7 (action6 (action5 s))

/-- The release that ends a START or RESUME, after the lehr ramps of action 7. -/
def openStep (c : CmdRef) (s : State) : State :=
  if ramping s then { s with seq := { s.seq with ramp := some (.release c) } } else complete (releaseStep s) c stOK 0

/-- A START or RESUME halts (again), and completes with the halt's status; a halt at a boundary action is told to the
peers (R302). -/
def rehalt (c : CmdRef) (kind : HaltKind) (st : Half) (action : Nat) (notice : Bool) (s : State) : State :=
  let s := haltDev s kind st action
  complete (if notice then noticeAll s (myIndex s) st false none else s) c st 0

/-- Actions 5 to 7 and the release. -/
def openFrom5 (c : CmdRef) (s : State) : State :=
  let x := actions57 s
  if x.2 then openStep c x.1 else rehalt c .boundary7 stPower 7 true x.1

/-- Action 7 and the release. -/
def openFrom7 (c : CmdRef) (kind : HaltKind) (s : State) : State :=
  let x := action7 s
  if x.2 then openStep c x.1 else rehalt c kind stPower 7 true x.1

/-- The step is repeated; action 7 comes first where an array that holds a slot has gone dark since (R367). -/
def openAgain (c : CmdRef) (s : State) : State :=
  if s.arr.any (fun e => e.2.st == .dark && e.2.slot.isSome) then openFrom7 c .power7 s else openStep c s

/-- What START and RESUME take once they have latched: the basin table and STEPS (R349). -/
def openTake (c : CmdRef) (s : State) : State :=
  let s := basinTake (dropCarries (thawArrs s))
  { s with seq := { s.seq with stepsLeft := cmdSteps c.w }, cfl := { s.cfl with forwarded := [] } }

/-- START. A release after a halt of action 4 repeats the reserve check first (R140). -/
def startEffect (c : CmdRef) (s : State) : State :=
  match s.seq.prog with
  | none => s
  | some p =>
    if cmdSteps c.w = 0 then complete s c stOK 0
    else
    let s := latchNow s
    -- a stage in fault ends every run before it begins (R360, assumption 106)
    if s.pwr.stage.any (fun e => e.2.fault) then rehalt c .dead stPower 0 false s
    else
      let s := openTake c s
      let short := reserveShort s p
      if s.seq.reserveOwed ∧ short ≠ [] then rehalt c .boundary4 stMemReserve 4 true (markShort s p short)
      else openFrom5 c s

/-- A step that was kept goes on. -/
def continueStep (c : CmdRef) (s : State) : State :=
  complete (liftAdvance (setDev { s with seq := { s.seq with halt := none } } .running)) c stOK 0

/-- PAUSE waits for the boundary. -/
def pauseEffect (c : CmdRef) (s : State) : State := { s with seq := { s.seq with pause := s.seq.pause ++ [c] } }

/-- RESUME (Table 9.15). One that is taken while a PAUSE waits, waits behind it (R253, assumption 104); any other latches
before what it performs (R440). -/
def resumeEffect (c : CmdRef) (s : State) : State :=
  if cmdSteps c.w = 0 then complete s c stOK 0
  else if s.seq.dev = .running ∧ s.seq.prog.isSome then pauseEffect c s
  else
  let s := latchNow s
  if s.seq.dev = .halted ∧ s.seq.halt = some .dead then rehalt c .dead stPower 0 false s
  else match s.seq.prog with
  | none => s
  | some p =>
    if s.seq.dev = .paused then openFrom5 c (openTake c s)
    else match s.seq.halt with
      | some .linkDown => if linkDownAgain s then rehalt c .linkDown stLinkDown 0 false s else openAgain c (openTake c s)
      | some .discarded => openAgain c (openTake c s)
      | some .kept => continueStep c (openTake c s)
      | some .clocks => continueStep c (openTake c s)
      | some .power7 => openFrom7 c .power7 (openTake c s)
      | some .boundary7 => openFrom7 c .boundary7 (openTake c s)
      | some .boundary4 =>
        let x := action4Halt s p
        if x.1 = stOK then openFrom5 c (openTake c x.2) else rehalt c .boundary4 x.1 4 true x.2
      | some .dead | none => openFrom5 c (openTake c s)


/-- Arrays of a step that has ended hold nothing of it: they wait, idle. -/
def idleArrs (s : State) : State :=
  let idle (r : Arr) : Arr :=
    { r with st := if r.st = .running ∨ r.st = .atWeir ∨ r.st = .retention then .idle else r.st, weir := none, eddy := 0, rel := false }
  { s with arr := amapMap {} idle s.arr }

/-- ABORT: the step in progress is discarded; S keeps the value of the last commit. A step that has committed stays
committed (Table 9.16). -/
def abortEffect (c : CmdRef) (s : State) : State :=
  let wasRunning := s.seq.dev == .running
  let s := idleArrs (discardStep s)
  let s := { s with seq := { s.seq with halt := none, ramp := none, hostEv := [], stepsLeft := 0 } }
  let s := failPause (setDev s .loaded)
  let s := if wasRunning then noticeAll s (myIndex s) stOK false none else s
  complete (identSync s) c stOK 0

/-- UNLOAD. Behind a PAUSE that waits it ends the step that runs, as ABORT does (R253). -/
def unloadEffect (c : CmdRef) (s : State) : State :=
  let s := if s.seq.dev = .running then noticeAll (discardStep s) (myIndex s) stOK false none else s
  let s := failPause (setDev (idleArrs (dropProgram s)) .ready)
  complete (resendIdent s) c stOK 0

/-! ### ALLOC and FREE (R199 to R202) -/

/-- SIZE, CLASS and STRIPE (Table 12.6). -/
def allocSize (w : Cmd) : Nat := cmdNat w 8 5
def allocClass (w : Cmd) : Nat := cmdNat w 16 1
def allocStripe (w : Cmd) : Nat := if w.getLsbD 143 then fld w 136 2 else 0xff

/-- Handles in use. -/
def liveHandles (s : State) : Nat := s.mem.tensors.length

/-- The checks of ALLOC. -/
def allocCheck (s : State) (w : Cmd) : List Half :=
  let own := chk (cmdRsvd w [(64, 40), (128, 8), (136, 2), (143, 1)] || 4 < allocClass w) stField
    ++ chk (262144 ≤ liveHandles s) stLen
  own ++ (if own = [] then chk (placeTensor s (allocSize w) (allocClass w) (allocStripe w)).isNone 0x0803 else [])

/-- ALLOC. -/
def allocEffect (c : CmdRef) (s : State) : State :=
  match placeTensor s (allocSize c.w) (allocClass c.w) (allocStripe c.w) with
  | none => s
  | some (ps, used) =>
    let x := allocTensor s (allocSize c.w) (allocClass c.w) ps used
    complete x.2 c stOK x.1

/-- The checks of FREE. -/
def freeCheck (s : State) (w : Cmd) : List Half :=
  let h := cmdNat w 4 4 % 2 ^ 24
  chk (cmdRsvd w [(32, 24)]) stField ++ chk (tensorOf s h).isNone stHandle
  ++ chk (match s.seq.prog with
      | some p => p.handles.contains h
      | none => false) stState

/-- FREE: at once, or when the access that uses the tensor is over. -/
def freeEffect (c : CmdRef) (s : State) : State :=
  let h := cmdNat c.w 4 4 % 2 ^ 24
  if s.hst.access.any (fun a => accessNames a h) then { s with mem := { s.mem with lateFree := s.mem.lateFree ++ [(h, c)] } }
  else complete (freeTensor s h) c stOK 0

/-! ### READ and WRITE (R341 to R343) -/

/-- The extents that a READ names: the first `n` of the list's entries, or its own. -/
def readExtents (s : State) (w : Cmd) (n : Nat) : List Extent :=
  let l := cmdNat w 24 3
  if l = 0 then [{ h := cmdNat w 4 3, off := cmdNat w 8 5, len := cmdNat w 16 5 }]
  else (List.range n).map (fun k =>
    { h := memNat s l (32 * k) 3, off := memNat s l (32 * k + 8) 5, len := memNat s l (32 * k + 16) 5 })

/-- An entry of the list form with a reserved bit set. -/
def entryRsvd (s : State) (l k : Nat) : Bool :=
  memNat s l (32 * k + 3) 5 != 0 || memNat s l (32 * k + 13) 3 != 0 || memNat s l (32 * k + 21) 11 != 0

/-- What is wrong with an extent: its tensor, or its end. -/
def extentCheck (s : State) (e : Extent) : List Half :=
  match tensorOf s e.h with
  | none => [stHandle]
  | some t => chk (t.size < e.off + e.len) stLen

/-- Whether a restore of a STATE tensor is in progress (R217). -/
def restoring (s : State) (h : Nat) : Bool := isState s h && s.hst.access.any (fun a => a.write && accessNames a h)

/-- Entries of a list of `n` that lie within its tensor. -/
def entriesIn (s : State) (l n : Nat) : Nat := match tensorOf s l with
  | none => 0
  | some t => min n (t.size / 32)

/-- The checks of READ, all of them (R18): of its own fields, of its list, and of every entry that the list tensor holds. -/
def readCheck (s : State) (w : Cmd) : List Half :=
  let l := cmdNat w 24 3
  let n := cmdNat w 28 4
  let own := chk (cmdRsvd w [(32, 24), (64, 40), (128, 40), (192, 24), (224, 32)]
    || (if l = 0 then n != 0 else cmdNat w 4 4 != 0 || cmdNat w 8 8 != 0 || cmdNat w 16 8 != 0)) stField
  if (l = 0 ∧ cmdNat w 16 8 = 0) ∨ (l ≠ 0 ∧ n = 0) then own
  else
    let m := entriesIn s l n
    let es := readExtents s w m
    own ++ (if l = 0 then [] else chk (1024 < n) stLen ++ spillCheck s l 0 (32 * n))
    ++ chk (l != 0 && (List.range m).any (entryRsvd s l)) stField ++ es.flatMap (extentCheck s)
    ++ chk (es.any (fun e => restoring s e.h)) stState

/-- Nobody is there to send data to or to take it from (R337). -/
def hostAway (s : State) : Bool := !s.hst.synced || s.hst.unreachable

/-- READ: the version committed now is the one served, and STATE tensors are fenced (R215). -/
def readEffect (c : CmdRef) (s : State) : State :=
  let l := cmdNat c.w 24 3
  if (if l = 0 then cmdNat c.w 16 8 = 0 else cmdNat c.w 28 4 = 0) then complete s c stOK 0
  else if hostAway s then complete s c stUnreachable 0
  else
    let es := readExtents s c.w (cmdNat c.w 28 4)
    let hs := ((es.map (·.h)).eraseDups).filter (isState s)
    let s := { s with hst := { s.hst with access := s.hst.access ++ [{ cmd := c, entries := es }] },
                      mem := { s.mem with fences := s.mem.fences ++ hs.map (fun h => { q := c.q, handle := h, commits := s.mem.commits }) } }
    runReads (bump s .plc 0 0xc28 hs.length)

/-- The checks of WRITE (R217, R230, R341). -/
def writeCheck (s : State) (w : Cmd) : List Half :=
  let e : Extent := { h := cmdNat w 4 3, off := cmdNat w 8 5, len := cmdNat w 16 5 }
  let own := chk (cmdRsvd w [(32, 24), (64, 40), (128, 40)]) stField
  if e.len = 0 then own
  else
    own ++ extentCheck s e
    ++ chk ((match s.seq.prog with
          | some p => p.handle == e.h
          | none => false)
        || (s.seq.dev == .running && isState s e.h && recKind s e.h != 1)) stState

/-- WRITE: the grant is sent; data follow. -/
def writeEffect (c : CmdRef) (s : State) : State :=
  let e : Extent := { h := cmdNat c.w 4 3, off := cmdNat c.w 8 5, len := cmdNat c.w 16 5 }
  if e.len = 0 then complete s c stOK 0
  else if hostAway s then complete s c stUnreachable 0
  else sendFrame { s with hst := { s.hst with access := s.hst.access ++ [{ cmd := c, write := true, entries := [e] }] } } .host
    (.grant c.q (cmdTag c.w))

/-! ### EVENT and LEDGER (R257, R321) -/

/-- COUNTER, STEP and COUNT (Table 9.14), and the key of the post. -/
def evKey (w : Cmd) : Nat := cmdNat w 8 8 * 32 + fld w 32 5
def evCount (w : Cmd) : Nat := cmdNat w 16 4

/-- The checks of EVENT. -/
def eventCheck (s : State) (w : Cmd) : List Half :=
  let st := cmdNat w 8 8
  let own := chk (cmdRsvd w [(32, 5), (64, 64), (128, 32)]) stField
  if evCount w = 0 then own
  else own ++ chk (st < (stepS s).toNat) stState
    ++ chk ((stepS s).toNat + 15 < st || 0xffffffff < aget (fun _ => 0) s.seq.hostEv (evKey w) + evCount w) stLen

/-- EVENT. -/
def eventEffect (c : CmdRef) (s : State) : State :=
  let k := evKey c.w
  let s := if evCount c.w = 0 then s else
    { s with seq := { s.seq with hostEv := aset (fun _ => 0) s.seq.hostEv k (aget (fun _ => 0) s.seq.hostEv k + evCount c.w) } }
  complete s c stOK 0

/-- (S, RID, device) of a ledger entry as one number. -/
def ledgerKey (s : State) (h i : Nat) : Nat :=
  memNat s h (16 + 16 * i) 8 * 2 ^ 24 + memNat s h (16 + 16 * i + 8) 2 * 2 ^ 8 + memNat s h (16 + 16 * i + 10) 1

/-- The checks of LEDGER. -/
def ledgerCheck (s : State) (w : Cmd) : List Half :=
  let h := cmdNat w 4 4
  let mode := cmdNat w 8 1
  let own := chk (cmdRsvd w [(32, 24), (64, 8)] || 2 < mode || (mode = 0 && h != 0)) stField
  if mode = 0 then own
  else
    own ++ spillCheck s h 0 32 ++ match tensorOf s h with
      | none => []
      | some t =>
        if mode ≠ 2 then []
        else
          let n := memNat s h 0 8
          let is := List.range (min n ((t.size - 16) / 16))
          chk (t.size < 16 + 16 * n) stLen
          ++ chk (!rising (is.map (ledgerKey s h)) || is.any (fun i => memNat s h (16 + 16 * i + 12) 4 != 0)
            || is.any (fun i => let p := memNat s h (16 + 16 * i + 11) 1
                                p != 1 && p != 2)) stField
          ++ chk (is.any (fun i => decide (reachD s ≤ memNat s h (16 + 16 * i + 10) 1))) stLen

/-- LEDGER. -/
def ledgerEffect (c : CmdRef) (s : State) : State :=
  complete { s with cfl := { s.cfl with ledgerH := cmdNat c.w 4 4, ledgerMode := cmdNat c.w 8 1 } } c stOK 0

/-! ### What a command does when it starts (R253 to R255, R339) -/

/-- Commands without fields. -/
def bareCheck (w : Cmd) : List Half := chk (cmdRsvd w []) stField

/-- The checks of a command's own fields and of what they name. -/
def fieldsCheck (s : State) (w : Cmd) : List Half :=
  match cmdOp w with
  | 0x01 | 0x02 | 0x04 | 0x06 | 0x08 => bareCheck w
  | 0x03 => loadCheck s w
  | 0x05 | 0x07 => startCheck s w
  | 0x10 => allocCheck s w
  | 0x11 => freeCheck s w
  | 0x12 => readCheck s w
  | 0x13 => writeCheck s w
  | 0x14 => eventCheck s w
  | 0x15 => ledgerCheck s w
  | 0x18 => configCheck s w
  | 0x19 => match ovAction w with
    | 0 => overlayLoadCheck s w
    | 1 => overlayApplyCheck s w
    | 2 => overlayClearCheck s w
    | _ => [stField]
  | _ => [stField]

/-- The effect of a command that passed its checks. -/
def cmdEffect (c : CmdRef) (s : State) : State :=
  match cmdOp c.w with
  | 0x01 => wakeEffect c s
  | 0x02 => sleepEffect c s
  | 0x03 => loadEffect c s
  | 0x04 => unloadEffect c s
  | 0x05 => startEffect c s
  | 0x06 => pauseEffect c s
  | 0x07 => resumeEffect c s
  | 0x08 => abortEffect c s
  | 0x10 => allocEffect c s
  | 0x11 => freeEffect c s
  | 0x12 => readEffect c s
  | 0x13 => writeEffect c s
  | 0x14 => eventEffect c s
  | 0x15 => ledgerEffect c s
  | 0x18 => configEffect c s
  | 0x19 => match ovAction c.w with
    | 0 => overlayLoadEffect c s
    | 1 => overlayApplyEffect c s
    | _ => overlayClearEffect c s
  | _ => s

/-- The state commands. -/
def isStateCmd (w : Cmd) : Bool := 1 ≤ cmdOp w && cmdOp w ≤ 8

/-- The state against which a command is checked: while a PAUSE waits, later state commands are checked as if it had
completed (R253). -/
def stateFor (s : State) (w : Cmd) : DevSt :=
  if isStateCmd w && s.seq.dev == .running && s.seq.pause.any isPause then .paused else s.seq.dev

/-- The status of a command that starts: an undefined opcode and tag 0xffff are FIELD_RESERVED; a state in which the
command is not legal goes before everything that its fields name. -/
def cmdStatus (s : State) (w : Cmd) : Half :=
  if !cmdDefined (cmdOp w) then stField
  else if !cmdLegal (cmdOp w) (stateFor s w) then stState
  else pickStatus (chk (cmdTag w == 0xffff) stField ++ fieldsCheck s w)

/-- A command starts. -/
def runCmd (c : CmdRef) (s : State) : State :=
  let st := cmdStatus s c.w
  if st = stOK then cmdEffect c s
  else reject (if st = stNeighbour then markPorts s else s) c st

/-! ### Order of starting (R253, R338, R339) -/

/-- A state command is in progress, a PAUSE that waits excepted; a boundary's own ramps hold none back. -/
def stateBusy (s : State) : Bool := s.seq.pause.any (fun c => !isPause c) || match s.seq.ramp with
  | some (.wakeTrain _) | some (.wakeRamp _) | some (.release _) => true
  | _ => false

/-- The queue of the state command in progress. -/
def rampQ (s : State) : Option Nat := match s.seq.ramp with
  | some (.wakeTrain c) | some (.wakeRamp c) | some (.release c) => some c.q
  | _ => none

/-- A command of queue `q` has started and not completed. -/
def outstanding (s : State) (q : Nat) : Bool :=
  s.hst.access.any (fun a => a.cmd.q == q) || s.seq.pause.any (fun c => c.q == q) || s.seq.applies.any (fun a => a.cmd.q == q)
  || s.mem.lateFree.any (fun f => f.2.q == q) || rampQ s == some q

/-- Whether the command at the front of queue `q` may start. -/
def startable (s : State) (q : Nat) (w : Cmd) : Bool :=
  s.seq.dev != .off && s.seq.ramp != some .runReset
  && !(cmdFence w && outstanding s q)
  && !((cmdOp w == 0x12 || cmdOp w == 0x13) && s.hst.access.any (fun a => a.cmd.q == q))
  && !(isStateCmd w && stateBusy s)
  && !(cmdAtBoundary w && s.seq.dev == .running && s.seq.act != 4)

/-- The command at the front of a queue. -/
def frontCmd (s : State) (q : Nat) : Cmd := aget (fun _ => 0) (queueGet s q).slots ((queueGet s q).head % 256)

/-- A queue that still holds commands stands last among the fronts; the command starts. -/
def startFront (s : State) (q : Nat) : State :=
  let w := frontCmd s q
  let s := queueMod s q (fun r => { r with head := r.head + 1 })
  let hs := s.hst.heads.filter (· != q)
  let more := (queueGet s q).head < (queueGet s q).tail
  let s := { s with hst := { s.hst with heads := if more then hs ++ [q] else hs } }
  runCmd { q := q, w := w } (bump s .hst 0 0xc50 1)

/-- Commands start in the order in which they came to the front, as far as they may. -/
def settleGo : Nat → State → State
  | 0, s => s
  | k + 1, s =>
    match s.hst.heads.find? (fun q => startable s q (frontCmd s q)) with
    | none => s
    | some q => settleGo k (startFront s q)

/-- No more commands wait than 16 queues of 256 hold. -/
def settle (s : State) : State := settleGo 4097 s

/-- A RESUME that waited behind a PAUSE runs once the device is PAUSED (R253). -/
def runResume (s : State) : State :=
  match s.seq.dev, s.seq.pause with
  | .paused, c :: _ => runCmd c { s with seq := { s.seq with pause := [] } }
  | _, _ => s

/-- What an event may have let go on: a ramp that has ended, a RESUME, READs, and commands that waited; then the records of
a new S. -/
def tidy (s : State) : State := identSync (settle (runReads (runResume (afterRamps s))))

/-! ### Queues (R338) -/

/-- An SQ_WRITE or DOORBELL that is ignored. -/
def queueReject (s : State) (q : Nat) : State :=
  let s := bump s .hst 0 0xc58 1
  cplPut s { tag := 0xffff, q := q, op := 0, status := stLen, head := BitVec.ofNat 16 (queueGet s q).head }

/-- The distance from HEAD that a new TAIL would have, if it neither moves backwards nor passes 256. -/
def tailAhead (r : Queue) (tail : Nat) : Option Nat :=
  let d := (tail + 65536 - r.head % 65536) % 65536
  if r.tail - r.head ≤ d ∧ d ≤ 256 then some d else none

/-- TAIL is set; a queue that was empty comes to the front. -/
def queueRing (s : State) (q d : Nat) : State :=
  let s := queueMod s q (fun r => { r with tail := r.head + d })
  if d = 0 ∨ s.hst.heads.contains q then s else { s with hst := { s.hst with heads := s.hst.heads ++ [q] } }

/-- DOORBELL. -/
def doorbellEffect (q tail : Nat) (s : State) : State :=
  match tailAhead (queueGet s q) tail with
  | none => queueReject s q
  | some d => queueRing s q d

/-- SQ_WRITE. -/
def sqWriteEffect (q : Nat) (ring : Bool) (first : Nat) (cmds : List Cmd) (s : State) : State :=
  let r := queueGet s q
  let touches := (List.range cmds.length).any (fun j =>
    (List.range (r.tail - r.head)).any (fun k => (first + j) % 256 == (r.head + k) % 256))
  let d := tailAhead r ((first + cmds.length) % 65536)
  if touches || (ring && d.isNone) then queueReject s q
  else
    let slots := (cmds.mapIdx (fun j c => ((first + j) % 256, c))).foldl (fun m e => aset (fun _ => 0) m e.1 e.2) r.slots
    let s := queueMod s q (fun r => { r with slots := slots })
    match ring, d with
    | true, some d => queueRing s q d
    | _, _ => s

/-- The host places one command at a queue's TAIL and rings. -/
def hostCmd (q : Nat) (w : Cmd) (s : State) : State :=
  if s.seq.dev = .off then s
  else settle (sqWriteEffect q true ((queueGet s q).tail % 65536) [w] s)

/-- The opcode byte of a command, and the ACTION byte of an OVERLAY, as a row of the table names them. -/
def withOp (op : Nat) (w : Cmd) : Cmd := (w &&& ~~~(0xff : Cmd)) ||| BitVec.ofNat 512 op
def withAction (a : Nat) (w : Cmd) : Cmd := (withOp 0x19 w &&& ~~~(0xff00000000 : Cmd)) ||| BitVec.ofNat 512 (a * 2 ^ 32)

/-! ### The rows -/

/-- WAKE. -/
def execWake (q : Fin 16) (w : Cmd) (s : State) : Host.Outcome State Fault Refusal := .next (hostCmd q (withOp 0x01 w) s)
/-- SLEEP. -/
def execSleep (q : Fin 16) (w : Cmd) (s : State) : Host.Outcome State Fault Refusal := .next (hostCmd q (withOp 0x02 w) s)
/-- LOAD. -/
def execLoad (q : Fin 16) (w : Cmd) (s : State) : Host.Outcome State Fault Refusal := .next (hostCmd q (withOp 0x03 w) s)
/-- UNLOAD. -/
def execUnload (q : Fin 16) (w : Cmd) (s : State) : Host.Outcome State Fault Refusal := .next (hostCmd q (withOp 0x04 w) s)
/-- START. -/
def execStart (q : Fin 16) (w : Cmd) (s : State) : Host.Outcome State Fault Refusal := .next (hostCmd q (withOp 0x05 w) s)
/-- PAUSE. -/
def execPause (q : Fin 16) (w : Cmd) (s : State) : Host.Outcome State Fault Refusal := .next (hostCmd q (withOp 0x06 w) s)
/-- RESUME. -/
def execResume (q : Fin 16) (w : Cmd) (s : State) : Host.Outcome State Fault Refusal := .next (hostCmd q (withOp 0x07 w) s)
/-- ABORT. -/
def execAbort (q : Fin 16) (w : Cmd) (s : State) : Host.Outcome State Fault Refusal := .next (hostCmd q (withOp 0x08 w) s)
/-- ALLOC. -/
def execAlloc (q : Fin 16) (w : Cmd) (s : State) : Host.Outcome State Fault Refusal := .next (hostCmd q (withOp 0x10 w) s)
/-- FREE. -/
def execFree (q : Fin 16) (w : Cmd) (s : State) : Host.Outcome State Fault Refusal := .next (hostCmd q (withOp 0x11 w) s)
/-- READ. -/
def execRead (q : Fin 16) (w : Cmd) (s : State) : Host.Outcome State Fault Refusal := .next (hostCmd q (withOp 0x12 w) s)
/-- WRITE. -/
def execWrite (q : Fin 16) (w : Cmd) (s : State) : Host.Outcome State Fault Refusal := .next (hostCmd q (withOp 0x13 w) s)
/-- EVENT. -/
def execEvent (q : Fin 16) (w : Cmd) (s : State) : Host.Outcome State Fault Refusal := .next (hostCmd q (withOp 0x14 w) s)
/-- LEDGER. -/
def execLedger (q : Fin 16) (w : Cmd) (s : State) : Host.Outcome State Fault Refusal := .next (hostCmd q (withOp 0x15 w) s)
/-- CONFIG. -/
def execConfig (q : Fin 16) (w : Cmd) (s : State) : Host.Outcome State Fault Refusal := .next (hostCmd q (withOp 0x18 w) s)
/-- OVERLAY_LOAD. -/
def execOverlayLoad (q : Fin 16) (w : Cmd) (s : State) : Host.Outcome State Fault Refusal := .next (hostCmd q (withAction 0 w) s)
/-- OVERLAY_APPLY. -/
def execOverlayApply (q : Fin 16) (w : Cmd) (s : State) : Host.Outcome State Fault Refusal := .next (hostCmd q (withAction 1 w) s)
/-- OVERLAY_CLEAR. -/
def execOverlayClear (q : Fin 16) (w : Cmd) (s : State) : Host.Outcome State Fault Refusal := .next (hostCmd q (withAction 2 w) s)

/-- HBM_TRAINING_DONE (R427). -/
def execHbmTrainingDone (failed : List (Fin 12)) (s : State) : Host.Outcome State Fault Refusal :=
  .next (tidy (trainingDoneHbm (failed.map (·.val)) s))

end Sys2Proof.Machine
end

