-- ==== Sys2Proof/Machine/Delivery.lean ====
section
/-! DEFINITION. Delivery of the host transport (R329 to R337, R346, R351, R352, R454): received datagrams, acknowledgements
and resends, SYNC and unreachability, the IPv6 environment, the host link, and what leaves at the end of a coalescing
interval. -/

namespace Sys2Proof.Machine

/-! ### Addresses (R331, R333) -/

/-- The host port takes traffic: the device is not OFF and the port is UP. -/
def portOpen (s : State) : Bool := s.seq.dev != .off && s.hst.link == .up

/-- An address from its 16 bytes, byte 0 lowest (Table 12.11). -/
def ipOf (bs : List Byte) : BitVec 128 := BitVec.ofNat 128 (leNat bs)

/-- The link-local address: fe80::/64 with the modified EUI-64 identifier of HST_MAC. -/
def linkLocal (s : State) : BitVec 128 :=
  let m (k : Nat) : Byte := s.fit.mac.getD k 0
  ipOf ([0xfe, 0x80, 0, 0, 0, 0, 0, 0, m 0 ^^^ 2, m 1, m 2, 0xff, 0xfe, m 3, m 4, m 5])

/-- Whether an address lies in fe80::/64. -/
def isLinkLocal (a : BitVec 128) : Bool := a.toNat % 2 ^ 64 == 0x80fe

/-- One of the device's own addresses; while HST_IP is zero, the link-local one alone (R435). -/
def ownAddr (s : State) (a : BitVec 128) : Bool := a == linkLocal s || (s.hst.ip != 0 && a == s.hst.ip)

/-- The table position of a basin peer with this address. -/
def basinPos (s : State) (a : BitVec 128) : Option (Fin 8) := match s.hst.basin with
  | none => none
  | some b => (List.finRange 8).find? (fun r => decide (r.val < b.addrs.length) && r.val != b.self && b.addrs.getD r.val 0 == a)

/-- The host or a basin peer. -/
def knownAddr (s : State) (a : BitVec 128) : Bool := (s.hst.hostIp != 0 && a == s.hst.hostIp) || (basinPos s a).isSome

/-- The device's UDP port (R333). -/
def udpPort (s : State) : Half := (pgGet s .hst 0 0x124).truncate 16

/-- The accepted source that a datagram comes from (R333). -/
def acceptedFrom (s : State) (src : BitVec 128) (port : Half) : Option HctPeer :=
  if s.hst.synced && src == s.hst.hostIp && port == s.hst.hostPort then some .host
  else (basinPos s src).map .basin

/-! ### Datagrams (R335) -/

/-- Payload bytes of a frame, when they lie within the type's range (Table 12.4). -/
def framePayload : HctFrame → Option Nat
  | .sqWrite _ _ _ cmds => if 1 ≤ cmds.length ∧ cmds.length ≤ 128 then some (64 * cmds.length) else none
  | .doorbell .. => some 0
  | .data _ _ _ _ bs => if 1 ≤ bs.length ∧ bs.length ≤ 8192 then some bs.length else none
  | .regReq _ ops => if 1 ≤ ops.length ∧ ops.length ≤ 64 then some (8 * ops.length) else none
  | .mailbox _ m => if m.length = 256 then some 256 else none
  | .basin _ bs => if bs.length % 128 = 0 ∧ 1 ≤ bs.length ∧ bs.length ≤ 8192 then some bs.length else none

/-- The byte offset of a DATA frame has 40 bits; the rest of its field is reserved (Table 12.4). -/
def frameRsvd : HctFrame → Bool
  | .data _ _ _ off _ => decide (2 ^ 40 ≤ off.toNat)
  | _ => false

/-- BASIN frames come from basin peers, all others from the host (Table 12.4). -/
def frameFrom : HctFrame → HctPeer → Bool
  | .basin .., .basin _ => true
  | .basin .., .host => false
  | _, .host => true
  | _, .basin _ => false

/-- The header of a datagram is in order: its destination, VER, its reserved bytes and LEN (R331, R332, R335, R435). -/
def headerOk (s : State) (h : HctHdr) (len : Option Nat) : Bool :=
  ownAddr s h.dst && h.dport == udpPort s && h.ver == 1 && !h.rsvd && len == some h.len.toNat

/-- The peer of a datagram that passes R335. -/
def datagramPeer (s : State) (h : HctHdr) (f : HctFrame) : Option HctPeer :=
  if frameRsvd f || !headerOk s h (framePayload f) then none
  else match acceptedFrom s h.src h.port with
    | some p => if frameFrom f p then some p else none
    | none => none

/-- A frame or datagram is dropped. -/
def dropFrame (s : State) : State := bump s .hst 0 0xc28 1

/-- What a received frame does when it is the packet of its row: its codewords are counted, and one that could not be decoded
is lost (R353); one with another VID and an 802.3x PAUSE frame are dropped (R328, R330), what the last row of Table 12.2
names is dropped and counted (R332). -/
def ethTake (e : EthHdr) (eff : State → State) (s : State) : State :=
  if !portOpen s then s
  else
    let s := fecCount .hst 0 0xc30 e.toFecRx s
    if !e.fecOk || e.vid != (ethTag s false).vid then s
    else match e.stray with
      | some .pause => s
      | some _ => dropFrame s
      | none => eff s

/-! ### Receive buffers (R330) -/

/-- Bytes that a datagram takes in a receive buffer: the Ethernet header and tag, the IPv6, UDP and HCT headers, and the
payload. -/
def bufSize (h : HctHdr) : Nat := 98 + h.len.toNat

/-- Bytes that the frames of a peer hold in a buffer until they are passed on. -/
def peerHeld (r : Peer) (bulk : Bool) : Nat :=
  ((r.held.filter (fun e => e.2.1 == bulk && r.early.any (fun x => x.1 == e.1 && x.2.isSome))).map (fun e => e.2.2)).sum
/-- Bytes held in a receive buffer. -/
def bufHeld (s : State) (bulk : Bool) : Nat := peerHeld s.hst.host bulk + (s.hst.peers.map (fun e => peerHeld e.2 bulk)).sum

/-- The PFC frame that the fill of a buffer calls for: XOFF above 75 %, XON below 50 %. -/
def pfcFill (bulk : Bool) (s : State) : State :=
  let size := if bulk then 8 * 2 ^ 20 else 512 * 2 ^ 10
  let n := bufHeld s bulk
  let on := s.hst.xoff.contains bulk
  if 3 * size < 4 * n && !on then
    send (bump { s with hst := { s.hst with xoff := bulk :: s.hst.xoff } } .hst 0 0xc48 1) (.pfc (ethTag s bulk).vid (prioOf s bulk) true)
  else if 2 * n < size && on then
    send (bump { s with hst := { s.hst with xoff := s.hst.xoff.filter (· != bulk) } } .hst 0 0xc48 1) (.pfc (ethTag s bulk).vid (prioOf s bulk) false)
  else s

/-- Both receive buffers; no frame leaves while the port is not UP. -/
def pfcCheck (s : State) : State := if s.hst.link = .up then pfcFill true (pfcFill false s) else s

/-! ### Acknowledgement (R336) -/

/-- A frame is to be acknowledged: an ACK leaves after 16. -/
def noteAck (s : State) (p : HctPeer) : State :=
  let r := peerGet s p
  let s := peerSet s p { r with sinceAck := r.sinceAck + 1 }
  if 16 ≤ r.sinceAck + 1 then sendAck s p else s

/-- Frames up to `a`, and those of the bitmap, are acknowledged; frames that waited for the window leave. -/
def ackTake (s : State) (p : HctPeer) (a : Word) (map : BitVec 64) : State :=
  let r := peerGet s p
  let got (u : TxFrame) : Bool := decide (seqDist a u.seq < 2 ^ 31) || (let d := seqDist u.seq a
                                                                       decide (d ≤ 64) && map.getLsbD (d - 1))
  let s := pumpPeer p 257 (peerSet s p { r with unacked := r.unacked.filter (fun u => !got u) })
  match p with
  | .host => chansAcked (runReads s)
  | .basin _ => s

/-! ### REG_REQ (R345) -/

/-- KIND of the reset that a write of SEQ_RESET starts, when it is accepted (R429). -/
def startsReset (s : State) (op : Word × Word) : Option Nat :=
  let kind := op.2.toNat % 8
  if op.1 = w32 (pageBase .seqR 0 + 0x130) ||| 1 ∧ op.2.toNat / 2 ^ 16 = 0x7e51 ∧ 1 ≤ kind ∧ kind ≤ 3 ∧ resetLegal kind s.seq.dev = true
  then some kind else none

/-- The response leaves, and then the resets that the request has been granted start (R429). -/
def answerReset (id : Half) (done : List (Word × Half)) (kinds : List Nat) (s : State) : State :=
  kinds.foldl (fun s k => resetStart k s) (sendFrame s .host (.regResp id done))

/-- The operations in order, then the response, then the resets that were accepted: each is answered before it starts. What
follows a hub reset is lost with the port (R429, R430). -/
def regReqGo (id : Half) : List (Word × Word) → List (Word × Half) → List Nat → State → State
  | [], done, kinds, s => answerReset id done kinds s
  | o :: rest, done, kinds, s =>
    match startsReset s o with
    | some 3 => answerReset id (done ++ [(o.2, stOK)]) (kinds ++ [3]) s
    | some k => regReqGo id rest (done ++ [(o.2, stOK)]) (kinds ++ [k]) s
    | none =>
      let x := regOp s .host o
      regReqGo id rest (done ++ [x.1]) kinds x.2

/-! ### BASIN frames (R352) -/

/-- A BASIN frame from table position `r`; false when it waits unacknowledged. -/
def basinTake' (r : Nat) (ts : BasinTs) (bs : List Byte) (s : State) : State × Bool :=
  match s.hst.basin, s.seq.prog with
  | some b, none =>
    -- with no program every S is above and no REDUCE has started
    if ts.pos.toNat ≠ r ∨ ts.reachIndex.toNat ≠ b.ridx.getD r 0 then (setIntOnce (bump s .hst 0 0xc70 1) .hst 0 3, true)
    else (s, false)
  | some b, some g =>
    if ts.pos.toNat ≠ r ∨ ts.reachIndex.toNat ≠ b.ridx.getD r 0 ∨ ts.shape.toNat ≠ g.shape then
      (setIntOnce (bump s .hst 0 0xc70 1) .hst 0 3, true)
    else
      let d := seqDist ts.sLow ((stepS s).truncate 32)
      if 2 ^ 31 ≤ d then (s, true)
      else if d ≠ 0 then (s, false)
      else match s.cfl.ops.find? (fun o => o.op == 1 && o.d.rid == ts.rid && o.sLow == ts.sLow) with
        | none => (s, false)
        | some o => (basinStage o { pos := r, rid := ts.rid.toNat, shard := ts.shard.toNat, first := ts.first.toNat, bytes := bs } s, true)
  | none, _ => (setIntOnce (bump s .hst 0 0xc70 1) .hst 0 3, true)

/-! ### Passing frames on in order (R336, R346) -/

/-- The channel of a MAILBOX frame. -/
def frameChan : HctFrame → Option Nat
  | .mailbox c _ => some c.val
  | _ => none

/-- A frame is passed on; false when it waits unacknowledged (R346, R352). -/
def passFrame (p : HctPeer) (f : HctFrame) (s : State) : State × Bool :=
  match f with
  | .sqWrite q ring first cmds => (settle (sqWriteEffect q ring first.toNat cmds s), true)
  | .doorbell q tail => (settle (doorbellEffect q tail.toNat s), true)
  | .data q tag entry off bs => match writeChunk s q tag entry.toNat off.toNat bs with
    | some s => (settle s, true)
    | none => (dropFrame s, true)
  | .regReq id ops => (regReqGo id ops [] [] s, true)
  | .mailbox c m => takeChunk s c m
  | .basin ts bs => match p with
    | .basin r => basinTake' r.val ts bs s
    | .host => (s, true)

/-- Frames are passed on from `q` up while they are held. A MAILBOX frame that waits unacknowledged holds back only later frames
of its own channel: a channel that waits never holds another one (R407). Any other frame that waits holds back all that
follow it (R336). -/
def passFrames (p : HctPeer) : Nat → Word → State → State
  | 0, _, s => s
  | k + 1, q, s =>
    let r := peerGet s p
    match r.early.find? (fun e => e.1 == q) with
    | some (_, none) => passFrames p k (q + 1) s
    | some (_, some f) =>
      let others := r.early.filter (fun e => e.1 != q)
      if (frameChan f).isSome && r.refused.any (fun e => e.2 == frameChan f) then
        passFrames p k (q + 1) (bump (peerSet s p { r with early := others, refused := r.refused ++ [(q, frameChan f)] }) .mbx 0 0xc10 1)
      else
        let x := passFrame p f (peerSet s p { r with early := (q, none) :: others })
        if x.2 then passFrames p k (q + 1) x.1
        else
          let t := peerGet x.1 p
          let s := peerSet x.1 p { t with early := others, refused := t.refused ++ [(q, frameChan f)] }
          if (frameChan f).isSome then passFrames p k (q + 1) s else s
    | none => if r.refused.any (fun e => e.1 == q && e.2.isSome) then passFrames p k (q + 1) s else s

/-- The highest SEQ in order rises over frames that have been passed on. -/
def raiseRx : Nat → Peer → Peer
  | 0, r => r
  | k + 1, r =>
    if r.early.any (fun e => e.1 == r.rxSeq + 1 && e.2.isNone) then
      raiseRx k { r with rxSeq := r.rxSeq + 1, early := r.early.filter (fun e => e.1 != r.rxSeq + 1),
                         held := r.held.filter (fun e => e.1 != r.rxSeq + 1) }
    else r

/-- A frame of a peer with its SEQ: a duplicate is acknowledged again, one within the window of 256 is held and passed on in
order, any other is discarded. -/
def recvFrame (p : HctPeer) (h : HctHdr) (f : HctFrame) (s : State) : State :=
  let seq := h.seq
  let r := peerGet s p
  let d := seqDist seq r.rxSeq
  if d = 0 ∨ 2 ^ 31 ≤ d ∨ r.early.any (fun e => e.1 == seq) then noteAck s p
  else if 256 < d then s
  else
    let s := peerSet s p { r with early := (seq, some f) :: r.early, refused := r.refused.filter (fun e => e.1 != seq),
                                  held := (seq, h.prio != prioOf s false, bufSize h) :: r.held.filter (fun e => e.1 != seq) }
    let s := passFrames p 257 (r.rxSeq + 1) s
    let t := peerGet s p
    let waits := t.refused.any (fun e => e.1 == seq)
    let s := peerSet s p (raiseRx 257 t)
    -- after a hub reset there is no such peer any longer
    if waits || !portOpen s then s else noteAck s p

/-- A received HCT datagram. -/
def datagram (h : HctHdr) (f : HctFrame) : State → State :=
  ethTake h.toEthHdr (fun s => match datagramPeer s h f with
    | none => dropFrame s
    | some p =>
      -- under test every PERIOD-th datagram is refused: an ACK that leaves it out, and its sender sends it again (R475,
      -- assumption 89)
      let t := { s with hst := { s.hst with tst := linkNext s .hst 0 s.hst.tst 1 } }
      if linkRefuses s .hst 0 s.hst.tst 1 then sendAck (tstCount t .hst 0 0x090 1) p
      else
        let s := linkDelay t .hst 0 1
        tidy (pfcCheck (recvFrame p h f (ackTake (bump s .hst 0 0xc00 1) p h.ack 0))))

/-- SQ_WRITE (R338). -/
def execSqWrite (h : HctHdr) (q : Fin 16) (ring : Bool) (first : Half) (cmds : List Cmd) (s : State) : Host.Outcome State Fault Refusal :=
  .next (datagram h (.sqWrite q ring first cmds) s)
/-- DOORBELL (R338). -/
def execDoorbell (h : HctHdr) (q : Fin 16) (tail : Half) (s : State) : Host.Outcome State Fault Refusal :=
  .next (datagram h (.doorbell q tail) s)
/-- DATA (R343). -/
def execData (h : HctHdr) (q : Fin 16) (tag : Half) (entry : Word) (off : BitVec 64) (bytes : List Byte) (s : State) :
    Host.Outcome State Fault Refusal := .next (datagram h (.data q tag entry off bytes) s)
/-- REG_REQ (R345). -/
def execRegReq (h : HctHdr) (id : Half) (ops : List (Word × Word)) (s : State) : Host.Outcome State Fault Refusal :=
  .next (datagram h (.regReq id ops) s)
/-- MAILBOX (R346). -/
def execMailbox (h : HctHdr) (ch : Fin 8) (msg : List Byte) (s : State) : Host.Outcome State Fault Refusal :=
  .next (datagram h (.mailbox ch msg) s)
/-- BASIN (R352). -/
def execBasin (h : HctHdr) (ts : BasinTs) (bytes : List Byte) (s : State) : Host.Outcome State Fault Refusal :=
  .next (datagram h (.basin ts bytes) s)

/-! ### ACK and resends (R336, R337) -/

/-- ACK: the peer holds what it names. -/
def ackEffect (h : HctHdr) (map : BitVec 64) : State → State :=
  ethTake h.toEthHdr (fun s => if !headerOk s h (some 0) then dropFrame s
    else match acceptedFrom s h.src h.port with
      | none => dropFrame s
      | some p => tidy (ackTake (bump s .hst 0 0xc00 1) p h.ack map))

def execAck (p : PktHdr) (d : DgramHdr) (map : BitVec 64) (s : State) : Host.Outcome State Fault Refusal := .next (ackEffect ⟨p, d⟩ map s)

/-- ACK_DELAY: 10 µs after the first frame not yet acknowledged. -/
def ackDelayEffect (p : HctPeer) (s : State) : State :=
  if portOpen s && (peerGet s p).sinceAck != 0 then sendAck s p else s

def execAckDelay (p : HctPeer) (s : State) : Host.Outcome State Fault Refusal := .next (ackDelayEffect p s)

/-- Frames that are resent without limit. -/
def endless : Frame → Bool
  | .mailbox .. => true
  | .basin .. => true
  | _ => false

/-- Every READ and WRITE in progress ends with HOST_UNREACHABLE. -/
def endAccesses (s : State) : State := s.hst.access.foldl (fun s a => endAccess s a stUnreachable) s

/-- The completion entries of a frame. -/
def frameCpls : Frame → List Cpl
  | .completion es => es
  | _ => []

/-- The entries that have not reached the host, oldest first: in frames that are not acknowledged, in frames that wait, and
gathered. While it is unreachable they are kept (R337). -/
def keepCpls (s : State) : State :=
  let h := s.hst.host
  let es := h.unacked.flatMap (fun u => frameCpls u.f) ++ h.txq.flatMap frameCpls ++ s.hst.gather
  es.foldl cplPut { s with hst := { s.hst with gather := [] } }

/-- The host becomes unreachable (R337): the completions are kept, other frames pending to it are dropped. -/
def loseHost (s : State) : State :=
  let s := keepCpls { s with hst := { s.hst with unreachable := true } }
  let h := s.hst.host
  let s := { s with hst := { s.hst with
    host := { h with txq := h.txq.filter endless, unacked := h.unacked.filter (fun u => endless u.f) } } }
  setInt (endAccesses s) .hst 0 4

/-- RESEND_TIMEOUT: a frame unacknowledged for HST_RTO is resent. Resends go on while the link is lost (Table 12.7), and a
BASIN frame waits for its slot, as any frame does for its priority (R330, R351). -/
def resendEffect (p : HctPeer) (seq : Word) (s : State) : State :=
  let r := peerGet s p
  let shut := match p with
    | .host => false
    | .basin _ => !(pgGet s .hst 0 0x134).getLsbD s.hst.slot
  match r.unacked.find? (fun u => u.seq == seq) with
  | none => s
  | some u =>
    if s.seq.dev = .off ∨ shut = true ∨ s.hst.paused.contains (prioOf s (isBulk u.f)).toNat = true then s
    else
      let us := r.unacked.map (fun v => if v.seq = seq then { v with resends := v.resends + 1 } else v)
      let s := bump (peerSet s p { r with unacked := us }) .hst 0 0xc20 1
      let s := if s.hst.link = .up then send (bump s .hst 0 0xc08 1) (.hct p (txHdr s p (isBulk u.f)) seq u.f) else s
      if p = .host ∧ endless u.f = false ∧ 16 ≤ u.resends + 1 ∧ s.hst.unreachable = false then tidy (loseHost s) else s

def execResendTimeout (p : HctPeer) (seq : Word) (s : State) : Host.Outcome State Fault Refusal := .next (resendEffect p seq s)

/-! ### SYNC (R337, R435, R456) -/

/-- The host address that frames are exchanged with. -/
def setHostIp (src : BitVec 128) (s : State) : State := { s with hst := { s.hst with hostIp := src } }
/-- The host does not answer: accesses end (R337). -/
def hostGone (s : State) : State := { s with hst := { s.hst with unreachable := true } }
/-- Both directions begin anew with a host that has sent SYNC (R336); the kept completions are sent again after it. -/
def freshHost (port : Half) (s : State) : State :=
  { s with hst := { s.hst with synced := true, unreachable := false, hostPort := port, host := {}, kept := [], syncDue := false } }

/-- While HST_HOST_IP reads zero, the first SYNC from a link-local source at the link-local address sets it. -/
def adoptHost (src dst : BitVec 128) (s : State) : State :=
  if regIp s 0x110 = 0 ∧ isLinkLocal src = true ∧ dst = linkLocal s then
    setHostIp src ((List.range 4).foldl (fun s k => pgSet s .hst 0 (0x110 + 4 * k) (w32 (src.toNat / 2 ^ (32 * k)))) s)
  else s

/-- After a SYNC no frame carries a response chunk any longer: those that are not acknowledged leave again. -/
def resendChunks (s : State) : State :=
  (List.range 8).foldl (fun s c => chanPump (chanMod s c (fun r => { r with outWait := false, stale := false })) c) s

/-- SYNC from the host. The completions of the READs and WRITEs that it ends follow the reply (Table 12.7). -/
def syncEffect (h : HctHdr) : State → State :=
  ethTake h.toEthHdr (fun s => if !headerOk s h (some 0) then dropFrame s
    else
      let s := adoptHost h.src h.dst s
      if s.hst.hostIp = 0 ∨ h.src ≠ s.hst.hostIp then dropFrame s
      else
        let s := endAccesses (keepCpls (hostGone (bump s .hst 0 0xc00 1)))
        tidy (pfcCheck (markPages (resendChunks (sendCpls (sendSync (freshHost h.port s)) s.hst.kept)))))

def execSync (p : PktHdr) (d : DgramHdr) (s : State) : Host.Outcome State Fault Refusal := .next (syncEffect ⟨p, d⟩ s)

/-! ### IPv6 environment and flow control (R330, R332) -/

/-- Every peer sends what it may, after the ICMPv6 messages that waited. -/
def pumpAll (s : State) : State :=
  let s := pumpPeer .host 257 (pumpNd s)
  (List.finRange 8).foldl (fun s r => if (basinPos s (peerAddr s (.basin r))).isSome then pumpPeer (.basin r) 257 s else s) s

/-- NEIGHBOUR_SOLICITATION. -/
def solicitationEffect (e : EthHdr) (target : BitVec 128) : State → State :=
  ethTake e (fun s => if ownAddr s target then sendNd s (.advert target) else dropFrame s)

def execNeighbourSolicitation (p : PktHdr) (target : BitVec 128) (s : State) : Host.Outcome State Fault Refusal :=
  .next (solicitationEffect p.toEthHdr target s)

/-- An Echo Reply waits for this address. -/
def echoWaits (s : State) (a : BitVec 128) : Bool := s.hst.nd.any (fun m => match m with
  | .echo d _ => d == a
  | _ => false)

/-- The neighbour cache takes an entry. -/
def cachePut (src : BitVec 128) (mac : BitVec 48) (s : State) : State :=
  { s with hst := { s.hst with cache := (src, mac) :: s.hst.cache.filter (fun c => c.1 != src), asked := s.hst.asked.filter (· != src) } }

/-- The neighbour cache loses an entry. -/
def cacheDrop (src : BitVec 128) (s : State) : State := { s with hst := { s.hst with cache := s.hst.cache.filter (fun c => c.1 != src) } }

/-- NEIGHBOUR_ADVERTISEMENT: the cache holds the host and the basin peers; that of another address serves the Echo Replies that
wait for it (assumption 128). -/
def advertisementEffect (e : EthHdr) (src : BitVec 128) (mac : BitVec 48) : State → State :=
  ethTake e (fun s =>
    if knownAddr s src then tidy (pumpAll (cachePut src mac s))
    else if echoWaits s src then cacheDrop src (pumpNd (cachePut src mac s))
    else dropFrame s)

def execNeighbourAdvertisement (p : PktHdr) (mac : BitVec 48) (s : State) : Host.Outcome State Fault Refusal :=
  .next (advertisementEffect p.toEthHdr p.src mac s)

/-- NEIGHBOUR_RESOLICIT: every 30 s while an address is in use. -/
def resolicitEffect (a : BitVec 128) (s : State) : State :=
  if portOpen s && knownAddr s a && (s.hst.asked.contains a || s.hst.cache.any (fun c => c.1 == a)) then sendSolicit s a else s

def execNeighbourResolicit (a : BitVec 128) (s : State) : Host.Outcome State Fault Refusal := .next (resolicitEffect a s)

/-- The longest payload of an Echo Request: an IPv6 packet of 9000 bytes less its two headers (Table 12.1). -/
def echoMax : Nat := 8952

/-- ECHO_REQUEST: the reply's address is resolved before it leaves (R332). A frame longer than 9022 bytes is not supported and
is not taken (R328). -/
def echoEffect (e : EthHdr) (src dst : BitVec 128) (payload : List Byte) (s : State) : State :=
  if echoMax < payload.length then s
  else ethTake e (fun s => if ownAddr s dst then sendNd s (.echo src payload) else dropFrame s) s

def execEchoRequest (p : PktHdr) (dst : BitVec 128) (payload : List Byte) (s : State) : Host.Outcome State Fault Refusal :=
  .next (echoEffect p.toEthHdr p.src dst payload s)

/-- PFC_RECEIVED: frames of a paused priority wait; the time paused counts. -/
def pfcEffect (prio : Nat) (xoff : Bool) (ns : Nat) (s : State) : State :=
  if !portOpen s || !(prio == (prioOf s false).toNat || prio == (prioOf s true).toNat) then s
  else
    let s := bump s .hst 0 0xc40 ns
    let rest := s.hst.paused.filter (· != prio)
    if xoff then { s with hst := { s.hst with paused := prio :: rest } }
    else tidy (pumpAll { s with hst := { s.hst with paused := rest } })

def execPfcReceived (prio : BitVec 3) (xoff : Bool) (ns : Nat) (s : State) : Host.Outcome State Fault Refusal :=
  .next (pfcEffect prio.toNat xoff ns s)

/-! ### The host link (R329, R331) -/

/-- The port enters UP: the addresses take effect, and frames that waited leave. A host of another address is not synced. -/
def hostUp (s : State) : State :=
  let host := regIp s 0x110
  let s := { s with hst := { s.hst with link := .up, ip := regIp s 0x100, hostIp := host, synced := s.hst.synced && s.hst.hostIp == host } }
  tidy (pumpAll (setInt s .hst 0 1))

/-- HOST_LINK_TRAINING: an attempt that fails is repeated. -/
def hostLinkEffect (ok : Bool) (s : State) : State :=
  if s.seq.dev != .off && (s.hst.link == .training || s.hst.link == .retrain) && ok then hostUp s else s

def execHostLinkTraining (ok : Bool) (s : State) : Host.Outcome State Fault Refusal := .next (hostLinkEffect ok s)

/-- HOST_LOSS_OF_LOCK: RETRAIN behaves as TRAINING. -/
def hostLossEffect (s : State) : State :=
  if portOpen s then
    setInt { s with hst := { s.hst with link := .retrain, pmd := (pgGet s .hst 0 8).toNat / 2 % 2 } } .hst 0 2
  else s

def execHostLossOfLock (s : State) : Host.Outcome State Fault Refusal := .next (hostLossEffect s)

/-! ### The end of a coalescing interval (R340, R454) -/

/-- COMPLETION: the entries gathered leave. -/
def completionEffect (s : State) : State := if s.seq.dev = .off then s else flushCpls s

def execCompletion (s : State) : Host.Outcome State Fault Refusal := .next (completionEffect s)

/-- The entry of a pending page, when its INT_STAT is still nonzero. -/
def pendingEntry (s : State) (b : Nat) : Option (Nat × Word) := match pageOf b with
  | some (p, i) => if intStat s p i = 0 then none else some (b, intStat s p i)
  | none => none

/-- Page offsets in increasing order. -/
def sortAsc : List Nat → List Nat
  | [] => []
  | a :: r => put a (sortAsc r)
where
  /-- A number at its place in a list in order. -/
  put (a : Nat) : List Nat → List Nat
    | [] => [a]
    | b :: r => if a ≤ b then a :: b :: r else b :: put a r

/-- INTERRUPT: the pending pages in increasing offset; every mark is cleared. -/
def interruptEffect (s : State) : State :=
  if s.seq.dev = .off then s
  else
    let es := (sortAsc s.irq).filterMap (pendingEntry s)
    sendIrq { s with irq := [] } es

def execInterrupt (s : State) : Host.Outcome State Fault Refusal := .next (interruptEffect s)

/-- EXCHANGE_SLOT (R351): BASIN frames leave in the slots of the mask. -/
def exchangeSlotEffect (slot : Nat) (s : State) : State :=
  if s.seq.dev = .off then s else pumpAll { s with hst := { s.hst with slot := slot } }

def execExchangeSlot (slot : Fin 16) (s : State) : Host.Outcome State Fault Refusal := .next (exchangeSlotEffect slot.val s)

/-! ### FENCE_LIFT (R215) -/

/-- Bytes of tensor `h` that a READ has still to pass. -/
def bytesLeft (a : Access) (h : Nat) : Bool :=
  (a.entries.mapIdx (fun k e => (k, e))).any (fun x => decide (a.entry ≤ x.1) && x.2.h == h
    && decide ((if x.1 = a.entry then a.off else 0) < x.2.len))

/-- The READ of queue `q` goes on until it has passed the last byte of `h`, in the version it is served from. -/
def readPast (q h : Nat) : Nat → State → State
  | 0, s => s
  | k + 1, s => match s.hst.access.find? (fun a => a.cmd.q == q && !a.write && bytesLeft a h) with
    | none => s
    | some a => match nextData s a with
      | none => s
      | some x => readPast q h k (putData s x)

/-- The fence of a queue on a tensor is gone (R225). -/
def dropFence (q h : Nat) (s : State) : State :=
  { s with mem := { s.mem with fences := s.mem.fences.filter (fun f => !(f.q == q && f.handle == h)) } }

/-- FENCE_LIFT: the read of queue `q` has passed the last byte of the tensor. -/
def fenceLiftEffect (q h : Nat) (s : State) : State :=
  if s.mem.fences.any (fun f => f.q == q && f.handle == h) then
    let n := ((s.hst.access.filter (fun a => a.cmd.q == q)).flatMap (·.entries)).foldl (fun n e => n + e.len / dataMax + 1) 0
    let s := readPast q h n s
    tidy (liftAdvance (dropFence q h s))
  else s

def execFenceLift (q : Fin 16) (h : BitVec 24) (s : State) : Host.Outcome State Fault Refusal := .next (fenceLiftEffect q h.toNat s)

/-! ### The management processor (R401 to R422) -/

/-- What follows when the MP or a channel has acted. -/
def mpNext (f : State → State) (s : State) : State := tidy (f s)

/-- MP_WATCHDOG. -/
def execMpWatchdog (s : State) : Host.Outcome State Fault Refusal := .next (mpNext watchdogEffect s)
/-- UTIL_WINDOW. -/
def execUtilWindow (u : BitVec 7) (s : State) : Host.Outcome State Fault Refusal := .next (mpNext (utilWindowEffect u.toNat) s)
/-- TELEMETRY_SAMPLE. -/
def execTelemetrySample (s : State) : Host.Outcome State Fault Refusal := .next (telemetryEffect s)
/-- MIN_VER_RAISE. -/
def execMinVerRaise (s : State) : Host.Outcome State Fault Refusal := .next (minVerEffect s)
/-- INFO. -/
def execInfo (tag : Half) (s : State) : Host.Outcome State Fault Refusal := .next (mpNext (infoEffect tag) s)
/-- LOG_READ. -/
def execLogRead (tag : Half) (first : Word) (count : Half) (s : State) : Host.Outcome State Fault Refusal :=
  .next (mpNext (logReadEffect tag first.toNat count.toNat) s)
/-- TEL_READ. -/
def execTelRead (tag : Half) (first : Word) (count : Half) (s : State) : Host.Outcome State Fault Refusal :=
  .next (mpNext (telReadEffect tag first.toNat count.toNat) s)
/-- MP_STATUS. -/
def execMpStatus (ch : Fin 8) (tag : Half) (s : State) : Host.Outcome State Fault Refusal := .next (mpNext (mpStatusEffect ch tag) s)
/-- TEST_DISABLE. -/
def execTestDisable (tag : Half) (s : State) : Host.Outcome State Fault Refusal := .next (mpNext (testDisableEffect tag) s)
/-- ENROLL. -/
def execEnroll (tag : Half) (e : Envelope) (s : State) : Host.Outcome State Fault Refusal := .next (mpNext (enrollEffect tag e) s)
/-- RELEASE. -/
def execRelease (tag : Half) (e : Envelope) (s : State) : Host.Outcome State Fault Refusal := .next (mpNext (releaseEffect tag e) s)
/-- FW_UPDATE. -/
def execFwUpdate (tag : Half) (e : Envelope) (s : State) : Host.Outcome State Fault Refusal := .next (mpNext (fwUpdateEffect tag e) s)
/-- ATTEST. -/
def execAttest (tag : Half) (e : Envelope) (s : State) : Host.Outcome State Fault Refusal := .next (mpNext (attestEffect tag e) s)
/-- TEST_ENABLE. -/
def execTestEnable (tag : Half) (e : Envelope) (s : State) : Host.Outcome State Fault Refusal := .next (mpNext (testEnableEffect tag e) s)

end Sys2Proof.Machine
end

