-- ==== Sys2Proof/Machine/Boundary.lean ====
section
/-! DEFINITION. The step boundary (R36, R243, R244, R257), closing records and peer notices (R301 to R303), and the end of a
step by its own limits. -/

namespace Sys2Proof.Machine

/-! ### This device's part of weir 0 (R243) -/

/-- Every slot has arrived by END. -/
def slotsEnded (s : State) : Bool :=
  s.arr.all (fun e => e.2.slot.isNone || (e.2.st == .atWeir && e.2.weir == some 0 && !e.2.rel))

/-- Nothing issued in the step is left: in queues, in fills, or in progress. -/
def workDone (s : State) : Bool :=
  s.seq.issueQ.all (fun e => e.2.isEmpty)
  && s.arr.all (fun e => e.2.rings.all (fun g => g.queue.isEmpty && g.fills.isEmpty))
  && s.dma.all (fun e => e.2.busy.isEmpty) && s.seq.probes.isEmpty
  && s.upd.all (fun e => e.2.active.isNone && e.2.waiting.isNone)
  && s.cfl.ops.isEmpty && s.port.all (fun e => e.2.drains.isEmpty)

/-- Every participant of weir 0 has arrived. A tensor still fenced from before the latest commit blocks the next one
(R216). -/
def stepDone (s : State) : Bool :=
  s.seq.streams.all (·.ended) && slotsEnded s && workDone s && !s.mem.fences.any (fenceOld s)

/-- This device's part of weir 0 closes: its triggers and NO_COMMIT go into the closing record (R301). -/
def closeOwn (p : Prog) (s : State) : State :=
  let trig := ownTriggers s p
  let s := closePart s 0 (decide (1 < reachD s)) trig (ownNoCommit s).isSome
  { s with seq := { s.seq with peerTrig := aset (fun _ => []) s.seq.peerTrig (myIndex s) trig } }

/-! ### The actions of Table 1.10 -/

/-- The action of the step boundary that the sequencer performs (Table 9.1). -/
def setAct (n : Nat) (s : State) : State := { s with seq := { s.seq with act := n } }
/-- The boundary waits for the ramps that action 7 began. -/
def boundaryRamp (s : State) : State := { s with seq := { s.seq with ramp := some .boundary } }

/-- Actions 5 to 7, then the ramps or what follows them. -/
def boundaryEnd (s : State) : State :=
  if s.seq.dev ≠ .running ∨ s.seq.act ≠ 4 then s
  else
    let x := actions57 (setAct 5 s)
    if x.2 = false then
      let s := haltDev x.1 .boundary7 stPower 7
      noticeAll s (myIndex s) stPower false none
    else
      let s := setAct 7 x.1
      if ramping s then boundaryRamp s else finishBoundary s

/-- Action 4: the layers act on the combined triggers. MEMORY_RESERVE_SHORT and PAGE_EXHAUSTED are told to the peers, for
they are not combined (R302). Commands that waited for the boundary start after it. -/
def boundaryAct4 (p : Prog) (trig : List (BitVec 3)) (s : State) : State :=
  let x := action4 (setAct 4 s) p trig
  if x.1 = stOK then boundaryEnd (settle x.2)
  else
    let s := haltDev x.2 .boundary4 x.1 4
    if x.1 = stLayerHalt then s else noticeAll s (myIndex s) x.1 false none

/-- Actions 2 and 3: the commit and the latch, which carries the number of the closing step. -/
def boundaryCommit (p : Prog) (s : State) : State :=
  let stp := stepS s
  let trig := combined p.layers (s.seq.peerTrig.map (·.2))
  let s := commitStep (setAct 2 s) p
  let s := nextRecords (moduleLatch (setAct 3 s) false stp)
  boundaryAct4 p trig s

/-- Weir 0 closes once every device has closed its part: with the commit, or without it when a device has a cause of its
own (R301). -/
def boundaryClose (p : Prog) (slackNs : Nat) (s : State) : State :=
  if partsGet s 0 = 0 ∨ closedGet s 0 ≠ 0 ∨ peersReady s 0 = false then s
  else
    let s := if 1 < reachD s then bump s .seqR 0 0xc20 slackNs else s
    let s := bump { s with seq := { s.seq with closed := aset (fun _ => 0) s.seq.closed 0 1 } } .seqR 0 0xc28 1
    match ownNoCommit s with
    | some st => discardHalt s .discarded st false
    | none => if s.seq.peerNoCommit then discardHalt s .discarded stPeerHalt false else boundaryCommit p s

/-- STEP_BOUNDARY. -/
def stepBoundaryEffect (slackNs : Nat) (s : State) : State :=
  match s.seq.prog with
  | none => s
  | some p =>
    if s.seq.dev ≠ .running ∨ s.seq.act ≠ 0 then s
    else tidy (boundaryClose p slackNs (if partsGet s 0 = 0 ∧ stepDone s = true then closeOwn p s else s))

def execStepBoundary (slackNs : Nat) (s : State) : Host.Outcome State Fault Refusal := .next (stepBoundaryEffect slackNs s)

/-- WEIR_CLOSE (R244); weir 0 is the step boundary. -/
def weirCloseEffect (w slackNs : Nat) (s : State) : State :=
  if w = 0 then stepBoundaryEffect slackNs s else weirEffect w slackNs s

def execWeirClose (w : BitVec 12) (slackNs : Nat) (s : State) : Host.Outcome State Fault Refusal := .next (weirCloseEffect w.toNat slackNs s)

/-! ### Closing records (R301) -/

/-- CLOSING_RECORD of another device of the reach. -/
def closingEffect (r : PeerRec) (slackNs : Nat) (s : State) : State :=
  match s.seq.prog with
  | none => s
  | some p =>
    if s.seq.dev = .off ∨ r.dev = myIndex s ∨ reachD s ≤ r.dev ∨ p.weirs < r.weir ∨ (r.weir ≠ 0 ∧ weirReach s p r.weir = false) then s
    else
      let s := takeRecord s r
      if s.seq.dev ≠ .running ∨ s.seq.act ≠ 0 then s
      else if r.weir = 0 then tidy (boundaryClose p slackNs s)
      else tryClose s r.weir slackNs

/-- CLOSING_RECORD arrives on a port, in as many flits as it takes. -/
def execClosingRecord (h : RecHdr) (weir : BitVec 12) (k : Nat) (triggers : List (BitVec 3)) (noCommit : Bool) (slackNs : Nat)
    (s : State) : Host.Outcome State Fault Refusal :=
  .next (reachFlit h.port (closingFlits triggers.length) h.toFlitHdr 0 (.closing weir.toNat k triggers noCommit)
    (closingEffect { dev := h.srcDev.toNat, weir := weir.toNat, k := k, trig := triggers, noCommit := noCommit } slackNs) s)

/-! ### Limits of a step (R251, R257) -/

/-- STEP_TIMEOUT. -/
def execStepTimeout (s : State) : Host.Outcome State Fault Refusal := .next (tidy (stepTimeoutEffect s))
/-- STEPS_DONE. -/
def execStepsDone (s : State) : Host.Outcome State Fault Refusal := .next (tidy (stepsDoneEffect s))

/-! ### Peer notices (R302) -/

/-- A step that is kept: started descriptors complete, and what a boundary has still to do stays to be done. -/
def holdStep (s : State) : State :=
  let s := finishStarted s
  let act := s.seq.act
  let ramp := s.seq.ramp
  let s := haltDev s .kept stPeerHalt 0
  { s with seq := { s.seq with act := act, ramp := ramp } }

/-- CFL_PEER. -/
def peerWord (origin : Nat) (status : Half) (hold : Bool) : Word := w32 (status.toNat + origin % 64 * 2 ^ 16 + bitIf hold 24)

/-- PEER_NOTICE: recorded, forwarded once on every port in UP, and acted on in RUNNING (Table 11.6). -/
def peerNoticeEffect (origin : Nat) (status : Half) (hold : Bool) (s : State) : State :=
  if s.seq.dev = .off then s
  else
    let s := setInt { s with cfl := { s.cfl with peer := peerWord origin status hold } } .cfl 0 8
    let s := if s.cfl.forwarded.contains (origin, status) ∨ origin = myIndex s then s
      else noticeAll { s with cfl := { s.cfl with forwarded := (origin, status) :: s.cfl.forwarded } } origin status hold none
    if s.seq.dev ≠ .running then s
    else tidy (if hold then holdStep s else discardHalt s .discarded stPeerHalt false)

def execPeerNotice (h : RecHdr) (origin : BitVec 6) (status : Half) (hold : Bool) (s : State) : Host.Outcome State Fault Refusal :=
  .next (if (portGet s h.port).st = .up then linkTake h.port 1 false h.toFlitHdr (peerNoticeEffect origin.toNat status hold) s else s)

/-! ### Training and identity (R290, R296, R297, R303) -/

/-- A port enters FAILED; a port that the program uses stops a running step. -/
def portFailed (p : Nat) (s : State) : State :=
  let s := setInt (portMod s p (fun r => { r with st := .failed })) .ngl p 4
  if portUsed s p ∧ s.seq.dev = .running then tidy (discardHalt s .linkDown stLinkDown true) else s

/-- A port enters RETRAIN. -/
def portRetrain (p : Nat) (s : State) : State :=
  setInt (bump (portMod s p (fun r => { r with st := .retrain, attempts := 0 })) .ngl p 0xc48 1) .ngl p 8

/-- PMD training is under way. -/
def portTrains (s : State) (p : Nat) : Bool := (portGet s p).st == .training || (portGet s p).st == .retrain

/-- TRAINING_DONE: the lanes found inverted are a reading of the link, free (assumption 26). -/
def trainingDoneEffect (p : Nat) (s : State) : State :=
  if portTrains s p then
    let x := draw s
    let s := pgSet x.2 .ngl p 0x124 (Config.freeWord x.1 &&& 0xff)
    portIdent s p (portRecord s p)
  else s

def execTrainingDone (p : Fin 6) (s : State) : Host.Outcome State Fault Refusal := .next (trainingDoneEffect p.val s)

/-- TRAINING_TIMEOUT: after a third failed attempt the port enters FAILED. -/
def trainingTimeoutEffect (p : Nat) (s : State) : State :=
  if portTrains s p then
    let n := (portGet s p).attempts + 1
    let s := portMod s p (fun r => { r with attempts := n })
    if 3 ≤ n then portFailed p s else s
  else s

def execTrainingTimeout (p : Fin 6) (s : State) : Host.Outcome State Fault Refusal := .next (trainingTimeoutEffect p.val s)

/-- LOSS_OF_LOCK. -/
def execLossOfLock (p : Fin 6) (s : State) : Host.Outcome State Fault Refusal :=
  .next (if (portGet s p).st = .up then portRetrain p s else s)
/-- REPLAY_THRESHOLD. -/
def execReplayThreshold (p : Fin 6) (s : State) : Host.Outcome State Fault Refusal :=
  .next (if (portGet s p).st = .up then portRetrain p s else s)

/-- A record of identity: compared in IDENT; in UP the neighbour's latest record is kept (R296). -/
def identityEffect (p : Nat) (r : IdentRec) (s : State) : State :=
  match (portGet s p).st with
  | .ident =>
    let m := identMismatch s p r
    let s := portMod s p (fun q => { q with nbr := some r })
    if m = 0 then markersDue (portUp s p) else setInt (portMod s p (fun q => { q with st := .held, mismatch := m })) .ngl p 2
  | .up => portMod s p (fun q => { q with nbr := some r })
  | _ => s

/-- IDENTITY_RECORD: the first one of a port in IDENT is taken whatever its SEQ (assumption 103). -/
def identityTake (p : Nat) (h : FlitHdr) (r : IdentRec) (s : State) : State :=
  if (portGet s p).st = .ident ∨ (portGet s p).st = .up then linkTake p 1 ((portGet s p).st == .ident) h (identityEffect p r) s else s

def execIdentityRecord (h : RecHdr) (r : IdentRec) (s : State) : Host.Outcome State Fault Refusal := .next (identityTake h.port h.toFlitHdr r s)

/-! ### Power and thermal events that may let something go on -/

/-- PHASE_FAIL (R364). -/
def execPhaseFail (a : Fin 768) (phase : Fin 6) (s : State) : Host.Outcome State Fault Refusal := .next (tidy (phaseFailEffect a phase s))
/-- CONTROLLER_FAIL (R366). -/
def execControllerFail (a : Fin 768) (s : State) : Host.Outcome State Fault Refusal := .next (tidy (ctrlFailEffect a s))
/-- LEHR_STAGE_DONE (R369). -/
def execLehrStageDone (a : Fin 768) (s : State) : Host.Outcome State Fault Refusal := .next (tidy (lehrStageEffect a s))
/-- STAGE_FAULT (R360). -/
def execStageFault (t : Fin 4) (s : State) : Host.Outcome State Fault Refusal := .next (tidy (stageFaultEffect t s))
/-- VS_PHASE_FAIL (R359). -/
def execVsPhaseFail (t : Fin 4) (phase : Fin 16) (s : State) : Host.Outcome State Fault Refusal := .next (tidy (vsPhaseFailEffect t phase s))

/-- A cause of SAFE (Table 14.6). -/
def safeCause (cause : Nat) (holds : State → Bool) (s : State) : State := if holds s then tidy (safeEnter cause s) else s

/-- FLOW: cannot occur while the flow sensor is in fault. -/
def execFlow (s : State) : Host.Outcome State Fault Refusal := .next (safeCause 1 (fun s => !s.thm.faultFlow && decide (thmNat s 0x134 < 40)) s)
/-- OUTLET: cannot occur while the outlet sensor is in fault. -/
def execOutlet (s : State) : Host.Outcome State Fault Refusal := .next (safeCause 2 (fun s => !s.thm.faultOut) s)
/-- JUNCTION. -/
def execJunction (s : State) : Host.Outcome State Fault Refusal := .next (safeCause 3 (fun _ => true) s)
/-- CAP_FLOOR: the thermal or the input cap stands below 1000 W. -/
def execCapFloor (s : State) : Host.Outcome State Fault Refusal :=
  .next (safeCause 4 (fun s => decide (thmNat s 0x108 < 1000) || decide (thmNat s 0x10c < 1000)) s)
/-- SAFE_EXIT (R393). -/
def execSafeExit (s : State) : Host.Outcome State Fault Refusal := .next (tidy (safeExitEffect s))

/-- COLD_START (R425). -/
def execColdStart (s : State) : Host.Outcome State Fault Refusal := .next (coldStartEffect s)
/-- PEU_RESTART (R355). -/
def execPeuRestart (s : State) : Host.Outcome State Fault Refusal := .next (peuRestartEffect s)

/-! ### Register writes (R443) -/

/-- A register is written by a requester. -/
def regRow (off : Nat) (v : Word) (s : State) : State := tidy (regWriteEffect off v s)

/-- REGISTER_WRITE. -/
def execRegisterWrite (_ : Requester) (off val : Word) (s : State) : Host.Outcome State Fault Refusal := .next (regRow off.toNat val s)

/-- SEQ_RESET with a KIND. -/
def seqResetRow (kind : Nat) (v : Word) (s : State) : State := regRow (pageBase .seqR 0 + 0x130) ((v &&& ~~~7) ||| w32 kind) s

/-- MP_RESET (R429). -/
def execMpReset (_ : Requester) (val : Word) (s : State) : Host.Outcome State Fault Refusal := .next (seqResetRow 1 val s)
/-- RUN_RESET (R429). -/
def execRunReset (_ : Requester) (val : Word) (s : State) : Host.Outcome State Fault Refusal := .next (seqResetRow 2 val s)
/-- HUB_RESET (R429). -/
def execHubReset (_ : Requester) (val : Word) (s : State) : Host.Outcome State Fault Refusal := .next (seqResetRow 3 val s)
/-- HBM_MARGIN_GO (R225). -/
def execHbmMarginGo (_ : Requester) (stack : Fin 12) (val : Word) (s : State) : Host.Outcome State Fault Refusal :=
  .next (regRow (pageBase .hbm stack + 0x110) val s)
/-- NGL_RETRAIN (Table 11.2). -/
def execNglRetrain (_ : Requester) (port : Fin 6) (val : Word) (s : State) : Host.Outcome State Fault Refusal :=
  .next (regRow (pageBase .ngl port + 0x120) val s)
/-- NGL_EXP_ID_LO, NGL_EXP_ID_HI or NGL_EXP_INFO (R299). -/
def execNglExpWrite (_ : Requester) (port : Fin 6) (which : Fin 3) (val : Word) (s : State) : Host.Outcome State Fault Refusal :=
  .next (regRow (pageBase .ngl port + 0x100 + 4 * which) val s)
/-- HST_IRQ_RESEND (R456). -/
def execHstIrqResend (_ : Requester) (val : Word) (s : State) : Host.Outcome State Fault Refusal := .next (regRow (pageBase .hst 0 + 0x188) val s)
/-- PER_CTRL SNAP of the page at an offset (R440). -/
def execSnap (_ : Requester) (page val : Word) (s : State) : Host.Outcome State Fault Refusal :=
  .next (regRow (page.toNat / 0x1000 * 0x1000 + 0x20) val s)
/-- INT_CLR of the page at an offset (R449). -/
def execIntClr (_ : Requester) (page val : Word) (s : State) : Host.Outcome State Fault Refusal :=
  .next (regRow (page.toNat / 0x1000 * 0x1000 + 0x18) val s)
/-- BLK_CTRL of a peer port or of the host port (Table 11.2, R329). -/
def portEnableEffect (page : Nat) (v : Word) (s : State) : State :=
  match pageOf page with
  | some (.ngl, i) => regRow (pageBase .ngl i + 8) v s
  | some (.hst, i) => regRow (pageBase .hst i + 8) v s
  | _ => s

def execPortEnable (_ : Requester) (page val : Word) (s : State) : Host.Outcome State Fault Refusal :=
  .next (portEnableEffect (page.toNat / 0x1000 * 0x1000) val s)

end Sys2Proof.Machine
end

