-- ==== Sys2Proof/Machine/Dispatch.lean ====
section
/-! DEFINITION. What each command does: one call of its meaning per constructor of `Instr`. -/

namespace Sys2Proof.Machine

def exec (i : Instr) (s : State) : Host.Outcome State Fault Refusal :=
  match i with
  | .wake q w => Sys2Proof.Machine.execWake q w s
  | .sleep q w => Sys2Proof.Machine.execSleep q w s
  | .load q w => Sys2Proof.Machine.execLoad q w s
  | .unload q w => Sys2Proof.Machine.execUnload q w s
  | .start q w => Sys2Proof.Machine.execStart q w s
  | .pause q w => Sys2Proof.Machine.execPause q w s
  | .resume q w => Sys2Proof.Machine.execResume q w s
  | .abort q w => Sys2Proof.Machine.execAbort q w s
  | .alloc q w => Sys2Proof.Machine.execAlloc q w s
  | .free q w => Sys2Proof.Machine.execFree q w s
  | .read q w => Sys2Proof.Machine.execRead q w s
  | .write q w => Sys2Proof.Machine.execWrite q w s
  | .event q w => Sys2Proof.Machine.execEvent q w s
  | .ledger q w => Sys2Proof.Machine.execLedger q w s
  | .config q w => Sys2Proof.Machine.execConfig q w s
  | .overlayLoad q w => Sys2Proof.Machine.execOverlayLoad q w s
  | .overlayApply q w => Sys2Proof.Machine.execOverlayApply q w s
  | .overlayClear q w => Sys2Proof.Machine.execOverlayClear q w s
  | .sync p d => Sys2Proof.Machine.execSync p d s
  | .ack p d bitmap => Sys2Proof.Machine.execAck p d bitmap s
  | .sqWrite h q ring first cmds => Sys2Proof.Machine.execSqWrite h q ring first cmds s
  | .doorbell h q tail => Sys2Proof.Machine.execDoorbell h q tail s
  | .data h q tag entry off bytes => Sys2Proof.Machine.execData h q tag entry off bytes s
  | .regReq h id ops => Sys2Proof.Machine.execRegReq h id ops s
  | .mailbox h ch msg => Sys2Proof.Machine.execMailbox h ch msg s
  | .basin h ts bytes => Sys2Proof.Machine.execBasin h ts bytes s
  | .neighbourSolicitation p target => Sys2Proof.Machine.execNeighbourSolicitation p target s
  | .neighbourAdvertisement p mac => Sys2Proof.Machine.execNeighbourAdvertisement p mac s
  | .echoRequest p dst payload => Sys2Proof.Machine.execEchoRequest p dst payload s
  | .pfcReceived prio xoff ns => Sys2Proof.Machine.execPfcReceived prio xoff ns s
  | .resendTimeout peer seq => Sys2Proof.Machine.execResendTimeout peer seq s
  | .ackDelay peer => Sys2Proof.Machine.execAckDelay peer s
  | .neighbourResolicit addr => Sys2Proof.Machine.execNeighbourResolicit addr s
  | .completion => Sys2Proof.Machine.execCompletion s
  | .interrupt => Sys2Proof.Machine.execInterrupt s
  | .hostLinkTraining ok => Sys2Proof.Machine.execHostLinkTraining ok s
  | .hostLossOfLock => Sys2Proof.Machine.execHostLossOfLock s
  | .registerWrite r off val => Sys2Proof.Machine.execRegisterWrite r off val s
  | .mpReset r val => Sys2Proof.Machine.execMpReset r val s
  | .runReset r val => Sys2Proof.Machine.execRunReset r val s
  | .hubReset r val => Sys2Proof.Machine.execHubReset r val s
  | .hbmMarginGo r stack val => Sys2Proof.Machine.execHbmMarginGo r stack val s
  | .marginDone stack errors => Sys2Proof.Machine.execMarginDone stack errors s
  | .nglRetrain r port val => Sys2Proof.Machine.execNglRetrain r port val s
  | .nglExpWrite r port which val => Sys2Proof.Machine.execNglExpWrite r port which val s
  | .hstIrqResend r val => Sys2Proof.Machine.execHstIrqResend r val s
  | .snap r page val => Sys2Proof.Machine.execSnap r page val s
  | .intClr r page val => Sys2Proof.Machine.execIntClr r page val s
  | .ldp a x => Sys2Proof.Machine.execLdp a x s
  | .mmf a x => Sys2Proof.Machine.execMmf a x s
  | .mmt a x => Sys2Proof.Machine.execMmt a x s
  | .drn a x => Sys2Proof.Machine.execDrn a x s
  | .syn a x => Sys2Proof.Machine.execSyn a x s
  | .endA a x => Sys2Proof.Machine.execEndA a x s
  | .loop a x => Sys2Proof.Machine.execLoop a x s
  | .next a x => Sys2Proof.Machine.execNext a x s
  | .normF a d => Sys2Proof.Machine.execNormF a d s
  | .rmsF a d => Sys2Proof.Machine.execRmsF a d s
  | .smaxF a d => Sys2Proof.Machine.execSmaxF a d s
  | .normB a d => Sys2Proof.Machine.execNormB a d s
  | .rmsB a d => Sys2Proof.Machine.execRmsB a d s
  | .smaxB a d => Sys2Proof.Machine.execSmaxB a d s
  | .issue st x => Sys2Proof.Machine.execIssue st x s
  | .waitc st x => Sys2Proof.Machine.execWaitc st x s
  | .waite st x => Sys2Proof.Machine.execWaite st x s
  | .waitw st x => Sys2Proof.Machine.execWaitw st x s
  | .waitMet st ns => Sys2Proof.Machine.execWaitMet st ns s
  | .arrive st x => Sys2Proof.Machine.execArrive st x s
  | .post st x => Sys2Proof.Machine.execPost st x s
  | .streamEnd st x => Sys2Proof.Machine.execStreamEnd st x s
  | .dmaCopy e idx d errs => Sys2Proof.Machine.execDmaCopy e idx d errs s
  | .dmaAddF32 e idx d => Sys2Proof.Machine.execDmaAddF32 e idx d s
  | .dmaAddS32 e idx d => Sys2Proof.Machine.execDmaAddS32 e idx d s
  | .dmaSwap32 e idx d => Sys2Proof.Machine.execDmaSwap32 e idx d s
  | .dmaSwap64 e idx d => Sys2Proof.Machine.execDmaSwap64 e idx d s
  | .dmaComplete e idx => Sys2Proof.Machine.execDmaComplete e idx s
  | .ringFillIssue a ring => Sys2Proof.Machine.execRingFillIssue a ring s
  | .probeEnd e idx => Sys2Proof.Machine.execProbeEnd e idx s
  | .dense u idx d => Sys2Proof.Machine.execDense u idx d s
  | .lazyUpd u idx d => Sys2Proof.Machine.execLazyUpd u idx d s
  | .updateComplete u idx => Sys2Proof.Machine.execUpdateComplete u idx s
  | .fenceLift q handle => Sys2Proof.Machine.execFenceLift q handle s
  | .reduce idx d => Sys2Proof.Machine.execReduce idx d s
  | .gather idx d => Sys2Proof.Machine.execGather idx d s
  | .norm idx d => Sys2Proof.Machine.execNorm idx d s
  | .xchg idx d => Sys2Proof.Machine.execXchg idx d s
  | .drain port idx ev => Sys2Proof.Machine.execDrain port idx ev s
  | .cflComplete idx => Sys2Proof.Machine.execCflComplete idx s
  | .marker h idx => Sys2Proof.Machine.execMarker h idx s
  | .windowClose idx => Sys2Proof.Machine.execWindowClose idx s
  | .decisionRecord h idx d => Sys2Proof.Machine.execDecisionRecord h idx d s
  | .dataFlit port f => Sys2Proof.Machine.execDataFlit port f s
  | .flitAck port h rx => Sys2Proof.Machine.execFlitAck port h rx s
  | .identityRecord h r => Sys2Proof.Machine.execIdentityRecord h r s
  | .closingRecord h weir k triggers noCommit slackNs => Sys2Proof.Machine.execClosingRecord h weir k triggers noCommit slackNs s
  | .peerNotice h origin status hold => Sys2Proof.Machine.execPeerNotice h origin status hold s
  | .trainingDone port => Sys2Proof.Machine.execTrainingDone port s
  | .trainingTimeout port => Sys2Proof.Machine.execTrainingTimeout port s
  | .lossOfLock port => Sys2Proof.Machine.execLossOfLock port s
  | .replayThreshold port => Sys2Proof.Machine.execReplayThreshold port s
  | .weirClose w slackNs => Sys2Proof.Machine.execWeirClose w slackNs s
  | .stepBoundary slackNs => Sys2Proof.Machine.execStepBoundary slackNs s
  | .releaseGroup g => Sys2Proof.Machine.execReleaseGroup g s
  | .eddyDecrement a holdUs => Sys2Proof.Machine.execEddyDecrement a holdUs s
  | .stepTimeout => Sys2Proof.Machine.execStepTimeout s
  | .stepsDone => Sys2Proof.Machine.execStepsDone s
  | .coldStart => Sys2Proof.Machine.execColdStart s
  | .orderlyPowerDown => Sys2Proof.Machine.execOrderlyPowerDown s
  | .overvoltageTrip => Sys2Proof.Machine.execOvervoltageTrip s
  | .undervoltage => Sys2Proof.Machine.execUndervoltage s
  | .rideThrough => Sys2Proof.Machine.execRideThrough s
  | .inputHigh dv us => Sys2Proof.Machine.execInputHigh dv us s
  | .inputLow dv us => Sys2Proof.Machine.execInputLow dv us s
  | .peuRestart => Sys2Proof.Machine.execPeuRestart s
  | .hubStageFault => Sys2Proof.Machine.execHubStageFault s
  | .vsPhaseFail t phase => Sys2Proof.Machine.execVsPhaseFail t phase s
  | .stageFault t => Sys2Proof.Machine.execStageFault t s
  | .phaseFail a phase => Sys2Proof.Machine.execPhaseFail a phase s
  | .controllerFail a => Sys2Proof.Machine.execControllerFail a s
  | .creditGrant a waitNs => Sys2Proof.Machine.execCreditGrant a waitNs s
  | .lehrStageDone a => Sys2Proof.Machine.execLehrStageDone a s
  | .nbrCap a => Sys2Proof.Machine.execNbrCap a s
  | .capLoopTick pin10 vin => Sys2Proof.Machine.execCapLoopTick pin10 vin s
  | .fCapRaise pin100 => Sys2Proof.Machine.execFCapRaise pin100 s
  | .memoryLimitTick pin100 => Sys2Proof.Machine.execMemoryLimitTick pin100 s
  | .junctionCeiling t tj => Sys2Proof.Machine.execJunctionCeiling t tj s
  | .boostTick a pin100 tj => Sys2Proof.Machine.execBoostTick a pin100 tj s
  | .sidebandRead r => Sys2Proof.Machine.execSidebandRead r s
  | .sensorFault k => Sys2Proof.Machine.execSensorFault k s
  | .flow => Sys2Proof.Machine.execFlow s
  | .outlet => Sys2Proof.Machine.execOutlet s
  | .junction => Sys2Proof.Machine.execJunction s
  | .capFloor => Sys2Proof.Machine.execCapFloor s
  | .safeExit => Sys2Proof.Machine.execSafeExit s
  | .thermalTrip => Sys2Proof.Machine.execThermalTrip s
  | .scrub stack pch bank row corrected uncorrectable => Sys2Proof.Machine.execScrub stack pch bank row corrected uncorrectable s
  | .migrationSwitch handle page ver => Sys2Proof.Machine.execMigrationSwitch handle page ver s
  | .delayedLogWrite => Sys2Proof.Machine.execDelayedLogWrite s
  | .compaction => Sys2Proof.Machine.execCompaction s
  | .logWrite kind page status payload => Sys2Proof.Machine.execLogWrite kind page status payload s
  | .mpWatchdog => Sys2Proof.Machine.execMpWatchdog s
  | .utilWindow u => Sys2Proof.Machine.execUtilWindow u s
  | .telemetrySample => Sys2Proof.Machine.execTelemetrySample s
  | .minVerRaise => Sys2Proof.Machine.execMinVerRaise s
  | .info tag => Sys2Proof.Machine.execInfo tag s
  | .logRead tag first count => Sys2Proof.Machine.execLogRead tag first count s
  | .telRead tag first count => Sys2Proof.Machine.execTelRead tag first count s
  | .mpStatus ch tag => Sys2Proof.Machine.execMpStatus ch tag s
  | .testDisable tag => Sys2Proof.Machine.execTestDisable tag s
  | .enroll tag e => Sys2Proof.Machine.execEnroll tag e s
  | .release tag e => Sys2Proof.Machine.execRelease tag e s
  | .fwUpdate tag e => Sys2Proof.Machine.execFwUpdate tag e s
  | .attest tag e => Sys2Proof.Machine.execAttest tag e s
  | .testEnable tag e => Sys2Proof.Machine.execTestEnable tag e s
  | .portEnable r page val => Sys2Proof.Machine.execPortEnable r page val s
  | .hbmTrainingDone failed => Sys2Proof.Machine.execHbmTrainingDone failed s
  | .exchangeSlot slot => Sys2Proof.Machine.execExchangeSlot slot s
  | .ringFullDelay a ring slot => Sys2Proof.Machine.execRingFullDelay a ring slot s

end Sys2Proof.Machine
end

