-- ==== Sys2Proof/Safety.lean ====
section
/-! DEFINITION. What the statements call a safe device: the canonical form of the memories, and what only a few named
commands may change. -/

namespace Sys2Proof.Machine

/-- Canonical form of the tensor memory: the committed and working bytes, their poison markers, and the pages written in the
step (R199, R213, R214, R224). -/
abbrev Memory.wf (m : Mem) : Prop :=
  awf (fun _ => (0 : Byte)) m.bytes ∧ awf (fun _ => (0 : Byte)) m.work ∧ awf (fun _ => (0 : Word)) m.poison ∧ awf (fun _ => (0 : Word)) m.wpoison
  ∧ awf (fun _ => false) m.written

/-- The pages written in the step lie in their tensors: no tensor is longer than 2^40 bytes (R199). -/
abbrev pagesIn (m : Mem) : Prop := ∀ e ∈ m.written, e.1 % 2 ^ 20 < 2 ^ 19

/-- What is fixed in a unit, what the flash guards against rollback and replay (R411, R414, R416), and the queue. -/
def State.vault (s : State) : Fitted × (Bool × Nat) × DWord × Option (List Byte) × List Instr :=
  (s.fit, (s.mp.minBad, s.mp.minVer), s.mp.counter, s.mp.opkey, s.pending)

/-- From a state to a later one: the unit is the same, MIN_VER and the stored counter have not fallen (R411, R416), and the
queue is the same. -/
def Grows (s t : State) : Prop :=
  t.fit = s.fit ∧ minVerNow s.mp ≤ minVerNow t.mp ∧ s.mp.counter ≤ t.mp.counter ∧ t.pending = s.pending

/-! ### Registers and counters that a crossing of a unit may move (R473) -/

/-- An offset of a ..._DONE register, which counts the perturbation events of a test (R472). -/
def isDone (off : Nat) : Bool := match pageOf off with
  | some (p, _) => tstDone p == some (off % 0x1000)
  | none => false

/-- Every register but the ..._DONE registers reads as before. -/
abbrev regsKept (s t : State) : Prop := ∀ off, isDone off = false → regGet t off = regGet s off

/-- Every live counter is as before, but for the crossings that a page has counted (assumption 131). -/
abbrev ctrsKept (s t : State) : Prop := ∀ k, k % 0x1000 ≠ 0x090 → aget ctrReset t.ctr k = aget ctrReset s.ctr k

/-! ### When a command of a unit has its effect -/

/-- Array `a` executes instruction `i` of opcode `op`: it is the next one of its program, in a running step, and the form is
one that the load checks accept (R57, R58, R252). -/
abbrev arrMayRun (s : State) (a op : Nat) (i : ArrInst) : Prop :=
  arrAt s a op i = true ∧ pickStatus (arrCheck op i (progLayers s) (progWeirs s)) = 0

/-- The row engine of array `a` executes descriptor `d` of opcode `op`, which is due (R160, R162). -/
abbrev rowMayRun (s : State) (a op : Nat) (d : RowDesc) : Prop :=
  rowAt s a op d = true ∧ pickStatus (rowCheck op d) = 0

/-- The F32 words of an array's local store from `k` once the terms `vs` of a row's sums for γ or β have been taken there:
written where the first row initialises, else added (R165). -/
def termBytes (o : Arr) (init : Bool) (k : Nat) (vs : List F32) : List Byte :=
  (vs.mapIdx (fun j v =>
    leBytes 4 (if init then v else fadd (BitVec.ofNat 32 (leNat (lsRead o (k + 4 * j) 4))) v).toNat)).flatten

/-- Stream `st` executes instruction `i`, which is its next one and which no guard skips (R238, R239). -/
abbrev streamExecutes (s : State) (op st : Nat) (i : StreamInst) (more : List Half) : Prop :=
  streamMayRun op st i s = true ∧ pickStatus (streamCheck st op i (progLayers s) (progWeirs s) ++ more) = 0 ∧ guardSkips s i = false

/-- Engine `e` starts descriptor `d` (R180, R186, R190, R239, R242): it is in the engine's list of the loaded program, its
turn has come, and nothing keeps it. -/
abbrev dmaMayStart (s : State) (op e : Nat) (idx : BitVec 24) (d : DmaDesc) : Prop :=
  pickStatus (dmaCheck op d ++ dmaCheckMem op d s) = 0 ∧ dmaBarred op e idx.toNat d s = false

/-- No descriptor in progress has written where the next one of engine `e` reads or writes `n` bytes from `off` of an
endpoint (R190 rule 5). -/
abbrev placeOrdered (s : State) (e : Nat) (x : Endpoint) (off n : Nat) : Prop :=
  othersOlds s e (dmaGet s e).issued (epPlace s (e / 24) x off) n = []

/-- What the rule makes of element `i` of the `n` elements from `e0` on of a descriptor's tensors (R100, R271, R272): the
master weight, the moments and the gradient `g`, all of the committed versions, under the constants `k`. -/
def updNew (s : State) (d : UpdDesc) (k : UpdK) (bc : F32 × F32) (e0 n : Nat) (g : List Num) (i : Nat) : ElemOut :=
  let w := (tensorBytes s d.wH.toNat (2 * e0) (2 * n)).drop (2 * i) |>.take 2
  let mom (second : Bool) (h : Nat) : F32 :=
    ((tensorBlocks s h (momFmt k.r) (e0 / 32) (n / 32)).map (momDec k.r second)).getD i 0
  updElem k bc (g.getD i .nan).toF32 (masterValue (BitVec.ofNat 16 (leNat w)) ((tensorBytes s d.cH.toNat e0 n).getD i 0))
    (mom false d.m1H.toNat) (mom true d.m2H.toNat)

/-- A record of `k` flits with header `h` that port `p`, in UP, takes: undamaged, none of its flits refused by a test, and next
in order (R292, R475). -/
abbrev linkGood (s : State) (p k : Nat) (h : FlitHdr) : Prop :=
  (portGet s p).st = .up ∧ h.fecOk = true ∧ h.crcOk = true ∧ linkRefuses s .ngl p (portGet s p).tst k = false
  ∧ h.seq = (portGet s p).rxSeq + 1

/-- The state in which what a record of `k` flits carries takes effect: the link layer has taken it (R292, R293). -/
def linkTaken (s : State) (p k : Nat) (h : FlitHdr) : State := linkTake p k false h id s

/-- Nothing waits on the host side: no queue has a head, no host access is in progress, no ramp is awaited, no RESUME
waits in PAUSED; and no port owes a record of S (R253, R296). -/
abbrev hostQuiet (s : State) : Prop :=
  s.hst.heads = [] ∧ s.hst.access = [] ∧ s.seq.ramp = none ∧ (s.seq.dev = .paused → s.seq.pause = []) ∧ ∀ p, p < 6 → identDue s p = false

/-! ### The host side -/

/-- Frames for the host in the order of their sending: those that await an acknowledgement, then those that wait to leave
(R336). -/
def hostFrames (s : State) : List Frame := s.hst.host.unacked.map (·.f) ++ s.hst.host.txq

/-- The state in which command `w` starts once it has been placed at the tail of queue `q` and rung for: its queue stands
behind it, and the command is counted (R338, R339). -/
def cmdAt (s : State) (q : Nat) (w : Cmd) : State :=
  let s := queueMod (sqWriteEffect q true ((queueGet s q).tail % 65536) [w] s) q (fun r => { r with head := r.head + 1 })
  bump { s with hst := { s.hst with heads := [] } } .hst 0 0xc50 1

/-- Command `w` starts at once when it is placed on queue `q`: nothing waits on the host side, the queue is empty, and
nothing holds the command back. -/
abbrev cmdStarts (s : State) (q : Nat) (w : Cmd) : Prop :=
  hostQuiet s ∧ (queueGet s q).head = (queueGet s q).tail ∧ startable s q w = true

/-- Command `w` starts at once on queue `q` and passes every check (R253 to R256). -/
abbrev cmdMayRun (s : State) (q : Nat) (w : Cmd) : Prop := cmdStarts s q w ∧ cmdStatus (cmdAt s q w) w = stOK

/-- The management processor serves a request on channel `c` that arrives now: the device is on, the processor runs, the
channel is empty (R404, R407). -/
abbrev mpServes (s : State) (c : Nat) : Prop :=
  hostQuiet s ∧ s.seq.dev ≠ .off ∧ s.mp.started = true ∧ chanGet s c = {}

/-- The port is UP, and a received frame that the FEC could decode carries the device's VID and the packet of its row (R330,
R332, R353). -/
abbrev ethFits (s : State) (e : EthHdr) : Prop := portOpen s = true ∧ e.fecOk = true ∧ e.vid = (ethTag s false).vid ∧ e.stray = none

/-- A frame of peer `p` passes the checks of R335, is the next in order, and finds nothing of the peer in between: no
frame is held, none waits for an acknowledgement or to leave. No test refuses it (R475). -/
abbrev hctTakes (s : State) (h : HctHdr) (f : HctFrame) (p : HctPeer) : Prop :=
  ethFits s h.toEthHdr ∧ datagramPeer s h f = some p ∧ h.seq = (peerGet s p).rxSeq + 1
  ∧ (peerGet s p).early = [] ∧ (peerGet s p).refused = [] ∧ (peerGet s p).txq = [] ∧ (peerGet s p).unacked = []
  ∧ (∀ c, (chanGet s c).outWait = false) ∧ linkRefuses s .hst 0 s.hst.tst 1 = false

/-- A register write reaches register `o` of block `p`, `i`: the block is present and the device is on (R443, R444). -/
abbrev regReaches (s : State) (p : Pg) (i o : Nat) : Prop :=
  hostQuiet s ∧ s.seq.dev ≠ .off ∧ i < p.count ∧ presentPage s.fit p i = true ∧ o < 0x1000 ∧ o % 4 = 0

end Sys2Proof.Machine
end

