-- ==== Sys2Proof/Certificates/Slice0/Obligations.lean ====
section
/-! DEFINITION. The statements about the model, for the provers. -/

open Sys2Proof Sys2Proof.Machine

/-- For every command c and every state s: a step of s with c at the front of its queue is exec of c on s with the rest of
the queue. With an empty queue a step answers the same state. The queue and the idling are the model's own (assumption
3).
Rests on 00_scope.md. -/
def Obligations.StepRunsTheFrontCommand : Prop :=
  ∀ (c : Instr) (rest : List Instr) (s : State),
    step { s with pending := c :: rest } = exec c { s with pending := rest }
    ∧ step { s with pending := [] } = .next { s with pending := [] }

/-- For every command c and state s: if exec of c answers a next state, that state's queue is the queue of s. The queue is
the model's own (assumption 3).
Rests on 00_scope.md. -/
def Obligations.ExecKeepsTheQueue : Prop :=
  ∀ (c : Instr) (s t : State), exec c s = .next t → t.pending = s.pending

/-- State.reset is the end of the start-up sequence of Table 16.1: the device is in STANDBY with the power entry unit and
the management processor running, no program, no tensor, no command in progress, no interrupt pending, an empty queue
of commands, and memory in canonical form. That the reset of the model is that point of the sequence is the model's
choice (assumption 2).
Rests on 16_startup_and_configuration.md, R425. -/
def Obligations.ResetIsStandby : Prop :=
  State.reset.seq.dev = .standby ∧ State.reset.seq.prog = none ∧ State.reset.pwr.peu = .running ∧ State.reset.mp.started = true
  ∧ State.reset.mem.tensors = [] ∧ State.reset.mem.bytes = [] ∧ State.reset.hst.heads = [] ∧ State.reset.irq = []
  ∧ State.reset.pending = [] ∧ Memory.wf State.reset.mem

/-- For every state and every step that answers a next state: MIN_VER and the counter of the operator key record have not
fallen, and what is fitted in the unit is the same. Together with the queue this is the relation Grows between the
state without the command taken and the next state.
Rests on 15_management_and_security.md, R411, R414. -/
def Obligations.GuardsGrowOnEveryStep : Prop :=
  ∀ s t : State, step s = .next t → s.pending ≠ [] → Grows { s with pending := s.pending.tail } t

/-- For every command other than ENROLL and RELEASE and every state: if exec answers a next state, the operator key is as
it was.
Rests on 15_management_and_security.md, R411, R412. -/
def Obligations.OnlyEnrollAndReleaseChangeTheKey : Prop :=
  ∀ (c : Instr) (s t : State), (∀ tag e, c ≠ .enroll tag e) → (∀ tag e, c ≠ .release tag e) → exec c s = .next t →
    t.mp.opkey = s.mp.opkey

/-- For every state whose memory is in canonical form: a write of bytes to the committed version or to the working version
of a tensor, the copying of a page before its first write, the swap of a page's versions and the discarding of the
working versions all leave memory in canonical form; within 2^40 bytes of a tensor they leave the pages written in the
step within their tensors; and after either write every byte reads as written inside the range and as before outside it.
The canonical form is the model's own (assumption 1).
Rests on 08_hbm_cache_placement.md, R199, R213, R214. -/
def Obligations.MemoryWritesKeepTheForm : Prop :=
  ∀ (s : State), Memory.wf s.mem → ∀ (h off k : Nat) (bs : List Byte),
    Memory.wf (memWrite s h off bs).mem ∧ Memory.wf (workWrite s h off bs).mem ∧ Memory.wf (touchPage s h k).mem
    ∧ Memory.wf (swapPage s h k).mem ∧ Memory.wf (discardWork s).mem
    ∧ (pagesIn s.mem → off + bs.length ≤ 2 ^ 40 → k < 2 ^ 19 → pagesIn (memWrite s h off bs).mem ∧ pagesIn (workWrite s h off bs).mem
      ∧ pagesIn (touchPage s h k).mem ∧ pagesIn (swapPage s h k).mem ∧ pagesIn (discardWork s).mem)
    ∧ (∀ a, memByte (memWrite s h off bs) a =
        if tkey h off ≤ a ∧ a < tkey h off + bs.length then bs.getD (a - tkey h off) 0 else memByte s a)
    ∧ (∀ a, workByte (workWrite s h off bs) a =
        if tkey h off ≤ a ∧ a < tkey h off + bs.length then bs.getD (a - tkey h off) 0 else workByte s a)

/-- For an array that executes LOOP: the counter LCTR becomes COUNT, and execution goes on at TARGET when COUNT is 0, else
at the next instruction. For one that executes NEXT: the counter falls by one (that a counter at 0 stays there is the
model's own, assumption 139), and execution goes on at the next instruction when it is then 0, else at TARGET. The row engine goes on with the first
descriptor that is placed at or behind that instruction, and no rows of a pass are pending. Nothing else of the
device changes.
Rests on 02_compute_arrays.md, 06_backward_pass.md, R56, R160. -/
def Obligations.LoopAndNext : Prop :=
  ∀ (a : Fin 768) (i : ArrInst) (s : State),
    (arrMayRun s a 6 i → exec (.loop a i) s = .next (arrSet s a
        { arrGoto (arrGet s a) (if i.count = 0 then i.target.toNat else (arrGet s a).pc + 1) with
            lctr := (arrGet s a).lctr.set i.lctr.toNat i.count.toNat }))
    ∧ (arrMayRun s a 7 i → exec (.next a i) s = .next (arrSet s a
        { arrGoto (arrGet s a) (if (arrGet s a).lctr.getD i.lctr.toNat 0 ≤ 1 then (arrGet s a).pc + 1 else i.target.toNat) with
            lctr := (arrGet s a).lctr.set i.lctr.toNat ((arrGet s a).lctr.getD i.lctr.toNat 0 - 1) }))
    ∧ ∀ (r : Arr) (n : Nat), arrGoto r n = { r with pc := n, mrow := 0, waitRing := none, dpc := rowFrom r.rprog n }

/-- An array that executes SYN w or END (weir 0) waits at that weir with the eddy level min(64, ceil(P / 1179648)),
where P is the products issued in the 2048 array clocks before its arrival, of which the array has issued no more than
it has in all; when it holds a slot, the arrivals of its slot at that weir rise by one. Its stores, its program counter,
every other array, memory, the registers but for the ..._DONE registers, and the counters but for those of crossings
(assumption 131) are as before.
Rests on 02_compute_arrays.md, 09_schedule_and_determinism.md, R60, R243, R246. -/
def Obligations.ArraysArriveAtWeirs : Prop :=
  ∀ (a : Fin 768) (i : ArrInst) (s : State) (c : Instr) (w P : Nat),
    ((c = .syn a ⟨i, P⟩ ∧ w = i.count.toNat ∧ arrMayRun s a 5 i) ∨ (c = .endA a ⟨i, P⟩ ∧ w = 0 ∧ arrMayRun s a 8 i)) →
    ∃ t lvl, exec c s = .next t ∧ lvl = min 64 ((min P (arrGet s a).products + 1179647) / 1179648)
      ∧ arrGet t a = { arrGet s a with st := .atWeir, weir := some w, eddy := lvl }
      ∧ (∀ b, b ≠ a.val → arrGet t b = arrGet s b) ∧ t.mem = s.mem ∧ regsKept s t ∧ ctrsKept s t
      ∧ (∀ k, (arrGet s a).slot = some k → arrivals t w (tileOf a * 184 + k) = arrivals s w (tileOf a * 184 + k) + 1)

/-- An array that executes LDP goes on with the next instruction, and its stores hold the image that stands at ADDR: every
cell its code in the plane's bits (and its wide byte), the scale and the wide flag of every block, in a low-bit format
the entries in the outlier slot, and the plane's format and slot. An image without a wide block leaves the wide bytes
as they were (assumption 87). The local store, the accumulators, every other array
and memory are as before.
Rests on 02_compute_arrays.md, R39, R40, R41, R42. -/
def Obligations.LdpLoadsThePlane : Prop :=
  ∀ (a : Fin 768) (i : ArrInst) (s : State), arrMayRun s a 1 i →
    ∃ t f, fmtOfCode i.fmt.toNat = some f ∧ exec (.ldp a i) s = .next t ∧ t.mem = s.mem
      ∧ (∀ b, b ≠ a.val → arrGet t b = arrGet s b)
      ∧ (arrGet t a).pc = (arrGet s a).pc + 1 ∧ (arrGet t a).ls = (arrGet s a).ls ∧ (arrGet t a).acc = (arrGet s a).acc
      ∧ ∀ img, img = readPlane f (lsRead (arrGet s a) (i.addr.toNat * 16) (ldpExtent f)) →
        aget (fun _ => {}) (arrGet t a).planes i.plane.toNat = { fmt := i.fmt.toNat, oslot := i.oslot.toNat, nan := img.bad }
        ∧ (∀ k n, k < 96 → n < 96 → aget (fun _ => 0) (arrGet t a).cells (k * 96 + n) =
            ldpCell f i.plane.toNat img (img.blocks.any (·.wide)) k n (aget (fun _ => 0) (arrGet s a).cells (k * 96 + n)))
        ∧ (∀ b, b < 288 → aget (fun _ => false) (arrGet t a).wides (scalePos f i.plane.toNat * 288 + b) = (img.blocks.getD b {}).wide)
        ∧ (f.scaled = true → ∀ b, b < 288 →
            aget (fun _ => 0) (arrGet t a).scales (scalePos f i.plane.toNat * 288 + b) = (img.blocks.getD b {}).scale)
        ∧ (f.lowBit = true → aget (fun _ => []) (arrGet t a).oslots i.oslot.toNat = img.entries)

/-- An array that executes MMF or MMT with a legal pairing. Where SRC is not a gather ring and the instruction has not
begun (no row of it has been streamed): it goes on with the next instruction, element (m, j) of its ROWS rows is what
the promotion of R47 gives on streamed row m, and every other accumulator keeps its value. Where SRC is a ring whose
next slot is not full, with rows left: it waits at that ring with its rows and accumulators as they are. Either way
the local store, every other array and memory are as before.
Rests on 02_compute_arrays.md, R43, R44, R47, R176, R481. -/
def Obligations.PassesFillTheAccumulator : Prop :=
  ∀ (a : Fin 768) (i : ArrInst) (s : State) (c : Instr) (fwd : Bool) (p f : Fmt),
    ((c = .mmf a i ∧ fwd = true ∧ arrMayRun s a 2 i) ∨ (c = .mmt a i ∧ fwd = false ∧ arrMayRun s a 3 i)) →
    fmtOfCode (aget (fun _ => ({} : PlaneInfo)) (arrGet s a).planes i.plane.toNat).fmt = some p →
    fmtOfCode i.fmt.toNat = some f → pairOk p f = true → i.plane.toNat ≤ planeMax p →
    ∃ t, exec c s = .next t ∧ t.mem = s.mem ∧ (arrGet t a).ls = (arrGet s a).ls ∧ (∀ b, b ≠ a.val → arrGet t b = arrGet s b)
      ∧ (i.src ≠ 1 → (arrGet s a).mrow = 0 → (arrGet t a).pc = (arrGet s a).pc + 1 ∧ ∀ k, aget (fun _ => 0) (arrGet t a).acc k =
          let v := planeView (arrGet s a) i.plane.toNat
          let wide := (List.range 288).any (fun b => aget (fun _ => false) (arrGet s a).wides (v.pos * 288 + b)) && v.fmt.lowBit
          let old := aget (fun _ => 0) (arrGet s a).acc k
          if i.acc.toNat ≤ k / 96 ∧ k / 96 < i.acc.toNat + i.rows.toNat then
            (passElem v wide (streamRow (arrGet s a) i f (k / 96 - i.acc.toNat)) fwd i.accum (k % 96) old).1
          else old)
      ∧ (i.src = 1 → (arrGet s a).mrow < i.rows.toNat →
          ((arrGet s a).rings.getD i.ring.toNat {}).st.getD ((arrGet s a).rings.getD i.ring.toNat {}).head .free ≠ .full →
          (arrGet t a).pc = (arrGet s a).pc ∧ (arrGet t a).waitRing = some i.ring.toNat ∧ (arrGet t a).mrow = (arrGet s a).mrow
          ∧ (arrGet t a).acc = (arrGet s a).acc)

/-- An array that executes DRN goes on with the next instruction. With ADD = 0 the bytes from ADDR on are the ROWS * 96
accumulator values in row order, as F32 or converted in blocks of 32 to the stored layout of the format; with ADD = 1
each F32 already there becomes its F32 sum with the accumulator value, and the adds are counted, those of them apart
that found an add of another source queued for their word. Every other byte of the local store, the accumulators,
every other array and memory are as before.
Rests on 02_compute_arrays.md, R50, R54. -/
def Obligations.DrainWritesTheLocalStore : Prop :=
  ∀ (a : Fin 768) (i : ArrInst) (amb : Nat) (s : State), arrMayRun s a 4 i →
    ∃ t f, fmtOfCode i.fmt.toNat = some f ∧ exec (.drn a ⟨i, amb⟩) s = .next t ∧ t.mem = s.mem
      ∧ (∀ b, b ≠ a.val → arrGet t b = arrGet s b) ∧ (arrGet t a).pc = (arrGet s a).pc + 1 ∧ (arrGet t a).acc = (arrGet s a).acc
      ∧ (f = .f32 → i.add = true → ctrGet t .arr a 0xc60 = ctrGet s .arr a 0xc60 + BitVec.ofNat 64 (i.rows.toNat * 96)
          ∧ ctrGet t .arr a 0xc58 = ctrGet s .arr a 0xc58 + BitVec.ofNat 64 (min amb (i.rows.toNat * 96)))
      ∧ ∀ vals bs, vals = (List.range (i.rows.toNat * 96)).map (fun j => aget (fun _ => 0) (arrGet s a).acc (i.acc.toNat * 96 + j)) →
        bs = (if f = .f32 then
            (if i.add then (vals.mapIdx (fun j v => leBytes 4 (fadd (BitVec.ofNat 32 (leNat
                (lsRead (arrGet s a) (i.addr.toNat * 16 + 4 * j) 4))) v).toNat)).flatten
             else vals.flatMap (fun v => leBytes 4 v.toNat))
          else asmStored f ((List.range (3 * i.rows.toNat)).map (fun b =>
            cnvBlock f (((vals.drop (32 * b)).take 32).map f32V) (fun _ => none)))) →
        ∀ k, lsByte (arrGet t a) k =
          if i.addr.toNat * 16 ≤ k ∧ k < i.addr.toNat * 16 + bs.length then bs.getD (k - i.addr.toNat * 16) 0
          else lsByte (arrGet s a) k

/-- A row engine that executes NORM_F, RMS_F, SMAX_F, NORM_B, RMS_B or SMAX_B goes on with its next descriptor; the
forward or backward row counter of its page rises by ROWS (by 0 when N is 0). It takes its rows in order, L giving the
local store before each and after the last. Row r leaves at OADDR, OPITCH words a row on, the stored form of the row's
result under R163 to R168; at BADDR, and N words on, the terms of the row for γ and for β, where it has any, added to
what stands there or, in row 0 under ACC_INIT, written there; every other byte of the local store is as before. A
forward row without RECOMP leaves its two statistics in entry STAT + r, and every other entry of the side memory is as
before. The cells, the scales, the accumulators and the array program counter, every other array and memory are as
before.
Rests on 06_backward_pass.md, R159, R160, R161, R162, R163, R164, R165, R166, R168. -/
def Obligations.RowDescriptorsRun : Prop :=
  ∀ (a : Fin 768) (d : RowDesc) (amb : Nat) (s : State) (c : Instr) (op : Nat),
    ((c = .normF a d ∧ op = 0x01) ∨ (c = .rmsF a d ∧ op = 0x02) ∨ (c = .smaxF a d ∧ op = 0x03)
      ∨ (c = .normB a ⟨d, amb⟩ ∧ op = 0x11) ∨ (c = .rmsB a ⟨d, amb⟩ ∧ op = 0x12) ∨ (c = .smaxB a d ∧ op = 0x13)) →
    rowMayRun s a op d → ∀ rows xf yf, rows = (if d.n = 0 then 0 else d.rows.toNat) →
    xf = (fmtOfCode d.xf.toNat).getD .f32 → yf = (fmtOfCode d.yf.toNat).getD .f32 →
    ∃ t, exec c s = .next t ∧ (arrGet t a).dpc = (arrGet s a).dpc + 1
      ∧ ctrGet t .row a (if rowIsF op then 0xc08 else 0xc10) =
          ctrGet s .row a (if rowIsF op then 0xc08 else 0xc10) + BitVec.ofNat 64 (if d.n = 0 then 0 else d.rows.toNat)
      ∧ (arrGet t a).cells = (arrGet s a).cells ∧ (arrGet t a).scales = (arrGet s a).scales
      ∧ (arrGet t a).acc = (arrGet s a).acc ∧ (arrGet t a).pc = (arrGet s a).pc
      ∧ (∀ b, b ≠ a.val → arrGet t b = arrGet s b) ∧ t.mem = s.mem
      ∧ ∃ L : Nat → AMap Byte, L 0 = (arrGet s a).ls ∧ (arrGet t a).ls = L rows
        ∧ (∀ r x o bs g b, r < rows → x = (rowRes op d xf yf r { arrGet s a with ls := L r }).1 →
            bs = (rowStore (rowOFmt op d) x.y).1 →
            o = lsWrite { arrGet s a with ls := L r } (d.oAddr.toNat * 16 + r * (d.oPitch.toNat * 16)) bs →
            g = termBytes o (d.accInit && decide (r = 0)) (d.bAddr.toNat * 16) x.dg →
            b = termBytes o (d.accInit && decide (r = 0)) (d.bAddr.toNat * 16 + 4 * d.n.toNat) x.db →
            ∀ k, lsByte { arrGet s a with ls := L (r + 1) } k =
              if d.bAddr.toNat * 16 ≤ k ∧ k < d.bAddr.toNat * 16 + g.length then g.getD (k - d.bAddr.toNat * 16) 0
              else if d.bAddr.toNat * 16 + 4 * d.n.toNat ≤ k ∧ k < d.bAddr.toNat * 16 + 4 * d.n.toNat + b.length then
                b.getD (k - (d.bAddr.toNat * 16 + 4 * d.n.toNat)) 0
              else lsByte o k)
        ∧ ∀ k, aget (fun _ => 0) (arrGet t a).stats k =
            if rowIsF op = true ∧ d.recomp = false ∧ d.stat.toNat ≤ k ∧ k < d.stat.toNat + rows then
              let x := (rowRes op d xf yf (k - d.stat.toNat) { arrGet s a with ls := L (k - d.stat.toNat) }).1
              (x.stat.2.setWidth 64 <<< 32) ||| x.stat.1.setWidth 64
            else aget (fun _ => 0) (arrGet s a).stats k

/-- An array instruction, row descriptor, stream instruction, DMA, update or confluence descriptor, or DRAIN, whose form
the load checks reject does not run: exec refuses it with the status that the checks give, since no loaded program
holds it (that a command of such a form is refused, and not carried out, is the model's own, assumption 4). For MMF and
MMT on an array that runs the checks are those of its form and the pairing of its plane with the streamed format, which
gives FORMAT_INVALID.
Rests on 02_compute_arrays.md, 06_backward_pass.md, 09_schedule_and_determinism.md, R57, R162, R185, R241, R285, R313. -/
def Obligations.RejectedFormsNeverRun : Prop :=
  (∀ (a : Fin 768) (i : ArrInst) (n : Nat) (s : State) (c : Instr) (op : Nat) (st : Half),
    ((c = .ldp a i ∧ op = 1) ∨ (c = .drn a ⟨i, n⟩ ∧ op = 4) ∨ (c = .syn a ⟨i, n⟩ ∧ op = 5)
      ∨ (c = .loop a i ∧ op = 6) ∨ (c = .next a i ∧ op = 7) ∨ (c = .endA a ⟨i, n⟩ ∧ op = 8)) →
    pickStatus (arrCheck op i (progLayers s) (progWeirs s)) = st → st ≠ 0 → exec c s = .refused (.rejectedAtLoad st))
  ∧ (∀ (a : Fin 768) (i : ArrInst) (s : State) (c : Instr) (op : Nat), ((c = .mmf a i ∧ op = 2) ∨ (c = .mmt a i ∧ op = 3)) →
    (∀ st, pickStatus (mmCheck op a i s) = st → st ≠ 0 → exec c s = .refused (.rejectedAtLoad st))
    ∧ (pickStatus (arrCheck op i (progLayers s) (progWeirs s)) ≠ 0 → pickStatus (mmCheck op a i s) ≠ 0)
    ∧ (∀ p f, pickStatus (arrCheck op i (progLayers s) (progWeirs s)) = 0 → arrRuns s a = true → fmtOfCode (aget (fun _ => ({} : PlaneInfo)) (arrGet s a).planes i.plane.toNat).fmt = some p →
        fmtOfCode i.fmt.toNat = some f → pairOk p f = false → exec c s = .refused (.rejectedAtLoad stFmt)))
  ∧ (∀ (a : Fin 768) (d : RowDesc) (n : Nat) (s : State) (c : Instr) (op : Nat) (st : Half),
    ((c = .normF a d ∧ op = 0x01) ∨ (c = .rmsF a d ∧ op = 0x02) ∨ (c = .smaxF a d ∧ op = 0x03)
      ∨ (c = .normB a ⟨d, n⟩ ∧ op = 0x11) ∨ (c = .rmsB a ⟨d, n⟩ ∧ op = 0x12) ∨ (c = .smaxB a d ∧ op = 0x13)) →
    pickStatus (rowCheck op d) = st → st ≠ 0 → exec c s = .refused (.rejectedAtLoad st))
  ∧ (∀ (k : Fin 5) (i : StreamInst) (s : State) (c : Instr) (op : Nat) (more : List Half) (st : Half),
    ((c = .issue k i ∧ op = 1 ∧ more = issueCheck s k i) ∨ (c = .waitc k i ∧ op = 2 ∧ more = []) ∨ (c = .waite k i ∧ op = 3 ∧ more = [])
      ∨ (c = .waitw k i ∧ op = 4 ∧ more = []) ∨ (c = .arrive k i ∧ op = 5 ∧ more = []) ∨ (c = .post k i ∧ op = 6 ∧ more = [])
      ∨ (c = .streamEnd k i ∧ op = 7 ∧ more = [])) →
    pickStatus (streamCheck k op i (progLayers s) (progWeirs s) ++ more) = st → st ≠ 0 → exec c s = .refused (.rejectedAtLoad st))
  ∧ (∀ (e : Fin 96) (idx : BitVec 24) (d : DmaDesc) (errs : List RowErr) (amb : List Nat) (s : State) (c : Instr) (op : Nat) (st : Half),
    ((c = .dmaCopy e idx d errs ∧ op = 1) ∨ (c = .dmaAddF32 e idx ⟨d, amb⟩ ∧ op = 2) ∨ (c = .dmaAddS32 e idx d ∧ op = 3)
      ∨ (c = .dmaSwap32 e idx d ∧ op = 4) ∨ (c = .dmaSwap64 e idx d ∧ op = 5)) →
    pickStatus (dmaCheck op d ++ dmaCheckMem op d s) = st → st ≠ 0 → exec c s = .refused (.rejectedAtLoad st))
  ∧ (∀ (u : Fin 12) (idx : BitVec 24) (d : UpdDesc) (s : State) (c : Instr) (op : Nat) (st : Half),
    ((c = .dense u idx d ∧ op = 1) ∨ (c = .lazyUpd u idx d ∧ op = 2)) →
    pickStatus (updCheck op d (progLayers s) ++ updCheckMem s op d (updRule s d) (updWideNum s d)) = st → st ≠ 0 →
    exec c s = .refused (.rejectedAtLoad st))
  ∧ (∀ (idx : BitVec 24) (d : CflDesc) (s : State) (c : Instr) (op : Nat) (st : Half),
    ((c = .reduce idx d ∧ op = 1) ∨ (c = .gather idx d ∧ op = 2) ∨ (c = .norm idx d ∧ op = 3) ∨ (c = .xchg idx d ∧ op = 4)) →
    pickStatus (cflCheck op d (hasLcu s) ++ cflCheckMem s op d (reachD s) (myIndex s)) = st → st ≠ 0 →
    exec c s = .refused (.rejectedAtLoad st))
  ∧ (∀ (p : Fin 6) (idx : BitVec 24) (ev : Byte) (s : State), ¬ (ev = 0xff ∨ (32 ≤ ev.toNat ∧ ev.toNat < 64)) →
    exec (.drain p idx ev) s = .refused (.rejectedAtLoad (if hasLcu s = true then stField else stCap)))

/-- A stream that executes ARRIVE w makes one arrival at weir w and goes on; POST e, n raises event counter e (32 to 63)
by n and goes on; END makes one arrival at weir 0 and ends the stream. The other streams, the arrays, memory, the
registers but for the ..._DONE registers, and the counters of the array, row, ring and DMA pages are as before.
Rests on 09_schedule_and_determinism.md, R238, R239, R240, R243. -/
def Obligations.StreamsGoOn : Prop :=
  ∀ (st : Fin 5) (i : StreamInst) (s : State), st.val < s.seq.streams.length →
    (streamExecutes s 5 st i [] → ∃ t, exec (.arrive st i) s = .next t ∧ (streamGet t st).spc = (streamGet s st).spc + 1
      ∧ arrivals t (fld i.a 0 12) (736 + st) = arrivals s (fld i.a 0 12) (736 + st) + 1
      ∧ t.arr = s.arr ∧ t.mem = s.mem ∧ regsKept s t
      ∧ (∀ k, k < pageBase .msc 0 → aget ctrReset t.ctr k = aget ctrReset s.ctr k)
      ∧ (∀ x, x ≠ st.val → streamGet t x = streamGet s x))
    ∧ (streamExecutes s 6 st i [] → ∃ t, exec (.post st i) s = .next t ∧ (streamGet t st).spc = (streamGet s st).spc + 1
      ∧ (32 ≤ fld i.a 0 6 → aget (fun _ => 0) t.seq.ev (fld i.a 0 6) = aget (fun _ => 0) s.seq.ev (fld i.a 0 6) + i.b.toNat)
      ∧ (∀ e, e ≠ fld i.a 0 6 → aget (fun _ => 0) t.seq.ev e = aget (fun _ => 0) s.seq.ev e)
      ∧ t.arr = s.arr ∧ t.mem = s.mem ∧ regsKept s t
      ∧ (∀ k, k < pageBase .msc 0 → aget ctrReset t.ctr k = aget ctrReset s.ctr k)
      ∧ (∀ x, x ≠ st.val → streamGet t x = streamGet s x))
    ∧ (streamExecutes s 7 st i [] → ∃ t, exec (.streamEnd st i) s = .next t ∧ (streamGet t st).ended = true
      ∧ arrivals t 0 (736 + st) = arrivals s 0 (736 + st) + 1
      ∧ t.arr = s.arr ∧ t.mem = s.mem ∧ regsKept s t
      ∧ (∀ k, k < pageBase .msc 0 → aget ctrReset t.ctr k = aget ctrReset s.ctr k)
      ∧ (∀ x, x ≠ st.val → streamGet t x = streamGet s x))

/-- A stream that executes WAITC, WAITE or WAITW goes on with the next instruction when the completion counter, the event
counter or the count of closings has reached B, and else stands in that wait. A stream that stands in a wait goes on
by WAIT_MET once the wait is met in RUNNING; an ISSUE that waited for room in its queue is then to be run. The
arrays, memory and the registers but for the ..._DONE registers are as before.
Rests on 09_schedule_and_determinism.md, R239, R240. -/
def Obligations.WaitsAreMetOrStand : Prop :=
  ∀ (st : Fin 5) (i : StreamInst) (s : State) (c : Instr) (op ns : Nat), st.val < s.seq.streams.length →
    ((c = .waitc st i ∧ op = 2) ∨ (c = .waite st i ∧ op = 3) ∨ (c = .waitw st i ∧ op = 4)) →
    (streamExecutes s op st i [] → ∃ t, exec c s = .next t ∧ t.arr = s.arr ∧ t.mem = s.mem ∧ regsKept s t
      ∧ (i.b.toNat ≤ (if op = 2 then cidGet s (st - 1) (fld i.a 0 8) else if op = 3 then eventGet s (fld i.a 0 6) else closedGet s (fld i.a 0 12)) →
          (streamGet t st).spc = (streamGet s st).spc + 1 ∧ (streamGet t st).wait = none)
      ∧ (¬ i.b.toNat ≤ (if op = 2 then cidGet s (st - 1) (fld i.a 0 8) else if op = 3 then eventGet s (fld i.a 0 6) else closedGet s (fld i.a 0 12)) →
          (streamGet t st).spc = (streamGet s st).spc ∧ (streamGet t st).wait = some { op := op, name := i.name.toNat, a := i.a, b := i.b }))
    ∧ (∀ w, s.seq.dev = .running → (streamGet s st).wait = some w → waitMet s st w.op w.a w.b = true →
        ∃ t, exec (.waitMet st ns) s = .next t ∧ (streamGet t st).wait = none
          ∧ (streamGet t st).spc = (streamGet s st).spc + (if w.op = 1 then 0 else 1)
          ∧ t.arr = s.arr ∧ t.mem = s.mem ∧ t.regs = s.regs)

/-- A stream that executes ISSUE: a count of zero goes on at once and queues nothing; while the unit's queue holds 256
ranges the stream does not go on and stands in a wait under the instruction's NAME, and the queues stay; else the stream
goes on, and for every unit but a DMA engine the queue ends with the range of the instruction. A guard that skips the
instruction only advances the stream. Memory and the registers but for the ..._DONE registers are as before.
Rests on 09_schedule_and_determinism.md, R239. -/
def Obligations.IssueQueuesARange : Prop :=
  ∀ (st : Fin 5) (i : StreamInst) (s : State), st.val < s.seq.streams.length →
    (streamExecutes s 1 st i (issueCheck s st i) →
      (i.b = 0 → ∃ t, exec (.issue st i) s = .next t ∧ (streamGet t st).spc = (streamGet s st).spc + 1
        ∧ t.seq.issueQ = s.seq.issueQ ∧ t.arr = s.arr ∧ t.mem = s.mem ∧ regsKept s t)
      ∧ (i.b ≠ 0 → 256 ≤ (aget (fun _ => []) s.seq.issueQ (queueKey st (fld i.a 0 8))).length →
          ∃ t, exec (.issue st i) s = .next t ∧ (streamGet t st).spc = (streamGet s st).spc
            ∧ (streamGet t st).wait = some { op := 1, name := i.name.toNat, a := i.a, b := i.b }
            ∧ t.seq.issueQ = s.seq.issueQ ∧ t.arr = s.arr ∧ t.mem = s.mem ∧ regsKept s t)
      ∧ (i.b ≠ 0 → (aget (fun _ => []) s.seq.issueQ (queueKey st (fld i.a 0 8))).length < 256 →
          ∃ t, exec (.issue st i) s = .next t ∧ (streamGet t st).spc = (streamGet s st).spc + 1 ∧ t.mem = s.mem ∧ regsKept s t
            ∧ (st.val = 0 ∨ 24 ≤ fld i.a 0 8 → t.arr = s.arr
                ∧ aget (fun _ => []) t.seq.issueQ (queueKey st (fld i.a 0 8)) =
                  aget (fun _ => []) s.seq.issueQ (queueKey st (fld i.a 0 8))
                    ++ [{ first := fld i.a 8 24, count := i.b.toNat,
                          wide := if i.vguard && i.variant then some i.layer.toNat else none }])))
    ∧ (streamMayRun 1 st i s = true → pickStatus (streamCheck st 1 i (progLayers s) (progWeirs s) ++ issueCheck s st i) = 0 →
        guardSkips s i = true → ∃ t, exec (.issue st i) s = .next t ∧ t.mem = s.mem ∧ t.arr = s.arr ∧ regsKept s t
          ∧ t.seq = (streamMod s st (fun t => { t with spc := t.spc + 1, wait := none })).seq)

/-- For each of the five DMA opcodes, a descriptor that the engine may start. One that fills no ring leaves the front of
the engine's issue queue; the engine's count of issued descriptors and the step's rise by one, and with rows and bytes
to move it stands behind those in progress under its CID. With ROWS or LENGTH zero, where no cold record awaits its
probe, it completes when it is issued: the engine keeps the entries it had, its count of completed descriptors rises by
one and memory is as before. A ring fill holds an entry since it was issued: that entry has started, and no entry is new
or gone. No other number in progress is the engine's next, and the read of a COPY meets no errors here.
Rests on 07_local_movement.md, 09_schedule_and_determinism.md, R186, R189, R190, R239. -/
def Obligations.DmaDescriptorsStart : Prop :=
  ∀ (e : Fin 96) (idx : BitVec 24) (d : DmaDesc) (amb : List Nat) (s : State) (c : Instr) (op : Nat),
    ((c = .dmaCopy e idx d [] ∧ op = 1) ∨ (c = .dmaAddF32 e idx ⟨d, amb⟩ ∧ op = 2) ∨ (c = .dmaAddS32 e idx d ∧ op = 3)
      ∨ (c = .dmaSwap32 e idx d ∧ op = 4) ∨ (c = .dmaSwap64 e idx d ∧ op = 5)) →
    dmaMayStart s op e idx d → (∀ b ∈ (dmaGet s e).busy, b.n ≠ (dmaGet s e).issued) →
    (epKind d.dst ≠ 2 → ∃ t, exec c s = .next t ∧ (dmaGet t e).issued = (dmaGet s e).issued + 1 ∧ t.seq.issued = s.seq.issued + 1
      ∧ aget (fun _ => []) t.seq.issueQ (e / 24 * 64 + e % 24) =
          aget (fun _ => []) (issuePop s (e / 24 * 64 + e % 24) idx.toNat).seq.issueQ (e / 24 * 64 + e % 24)
      ∧ ((d.rows = 0 ∨ d.length = 0) → probesFirst d s = false →
          (dmaGet t e).busy = (dmaGet s e).busy ∧ (dmaGet t e).done = (dmaGet s e).done + 1 ∧ t.mem = s.mem)
      ∧ (d.rows ≠ 0 → d.length ≠ 0 → (dmaGet t e).done = (dmaGet s e).done
          ∧ ∃ b, (dmaGet t e).busy = (dmaGet s e).busy ++ [b] ∧ b.idx = idx.toNat ∧ b.cid = d.cid.toNat
              ∧ b.n = (dmaGet s e).issued ∧ b.fill = none ∧ b.waits = false))
    ∧ (epKind d.dst = 2 → ∃ t, exec c s = .next t ∧ (dmaGet t e).issued = (dmaGet s e).issued ∧ t.seq.issued = s.seq.issued
      ∧ (dmaGet t e).busy.map (·.n) = (dmaGet s e).busy.map (·.n)
      ∧ ∃ w, (dmaGet s e).busy.find? (·.waits) = some w ∧ w.idx = idx.toNat ∧ ∀ b ∈ (dmaGet t e).busy, b.n = w.n → b.waits = false)

/-- A COPY of one row between tensors or local stores, which no wide variant rebases and whose scale record is not cold:
the bytes at the destination become the row that R182 makes of the LENGTH bytes of the source (these bytes themselves
without conversion), and every other byte of tensor memory is as before; a destination in a local store leaves tensor
memory as it was. A destination that overlaps the source takes the bytes that the source had (assumption 16). ADD_F32 of
one row: every F32 of the destination becomes its F32 sum with the element of that row, and every other byte of the
store and tensor memory are as before. An atomic of one element on the local store of one array: ADD_S32 leaves the sum of both words modulo 2^32 at the destination; SWAP_32 and SWAP_64 leave the source element there
and the old element at the source. Source and destination of an atomic are different arrays of the engine's tile. Shown where no
descriptor in progress has written at the source, nor for a COPY at the destination (R190 rule 5 leaves open which value
is found there). A COPY whose read meets errors in rows of its source: what it does is what it does without them in the
state that the errors leave (assumption 90).
Rests on 07_local_movement.md, 08_hbm_cache_placement.md, R180, R182, R190, R191, R219. -/
def Obligations.CopiesAndAtomicsMoveTheirElements : Prop :=
  (∀ (e : Fin 96) (idx : BitVec 24) (d : DmaDesc) (s : State),
    dmaMayStart s 1 e idx d → probesFirst d s = false → d.rows = 1 → d.length ≠ 0 → epKind d.src ≠ 2 → epKind d.dst ≠ 2 →
    issueWide s (e / 24 * 64 + e % 24) idx.toNat = none → (epKind d.dst ≠ 0 → (epArr s (e / 24) d.dst).isSome = true) →
    ∀ x, x = (dmaRow d s 0 (epRead s (e / 24) d.src (epOff d.src) d.length.toNat)).bytes →
    placeOrdered s e d.src (epOff d.src) d.length.toNat → placeOrdered s e d.dst (epOff d.dst) x.length →
    ∃ t, exec (.dmaCopy e idx d []) s = .next t
      ∧ (d.raw = true → x = epRead s (e / 24) d.src (epOff d.src) d.length.toNat)
      ∧ (epKind d.dst = 0 → ∀ k, memByte t k =
          if tkey (epHandle d.dst) (epOff d.dst) ≤ k ∧ k < tkey (epHandle d.dst) (epOff d.dst) + x.length then
            x.getD (k - tkey (epHandle d.dst) (epOff d.dst)) 0
          else memByte s k)
      ∧ (epKind d.dst ≠ 0 → t.mem = s.mem ∧ epRead t (e / 24) d.dst (epOff d.dst) x.length = x))
  ∧ (∀ (e : Fin 96) (idx : BitVec 24) (d : DmaDesc) (s : State) (a b : Nat),
    d.rows = 1 → epKind d.src = 1 → epKind d.dst = 1 → epArr s (e / 24) d.src = some a → epArr s (e / 24) d.dst = some b → a ≠ b →
    placeOrdered s e d.src (epOff d.src) d.length.toNat →
    (∀ amb x, dmaMayStart s 2 e idx d → d.length ≠ 0 → probesFirst d s = false →
      x = (dmaRow d s 0 (epRead s (e / 24) d.src (epOff d.src) d.length.toNat)).bytes →
      ∃ t, exec (.dmaAddF32 e idx ⟨d, amb⟩) s = .next t ∧ t.mem = s.mem
        ∧ (∀ j, 4 * j + 4 ≤ x.length → epRead t (e / 24) d.dst (epOff d.dst + 4 * j) 4 = leBytes 4
            (fadd (BitVec.ofNat 32 (leNat (epRead s (e / 24) d.dst (epOff d.dst + 4 * j) 4)))
              (BitVec.ofNat 32 (leNat ((x.drop (4 * j)).take 4)))).toNat)
        ∧ ∀ k, (k < epOff d.dst ∨ epOff d.dst + x.length ≤ k) → lsByte (arrGet t b) k = lsByte (arrGet s b) k)
    ∧ (dmaMayStart s 3 e idx d → d.length = 4 → ∃ t, exec (.dmaAddS32 e idx d) s = .next t
      ∧ leNat (epRead t (e / 24) d.dst (epOff d.dst) 4) =
        (leNat (epRead s (e / 24) d.dst (epOff d.dst) 4) + leNat (epRead s (e / 24) d.src (epOff d.src) 4)) % 2 ^ 32)
    ∧ (dmaMayStart s 4 e idx d → d.length = 4 → ∃ t, exec (.dmaSwap32 e idx d) s = .next t
      ∧ epRead t (e / 24) d.dst (epOff d.dst) 4 = epRead s (e / 24) d.src (epOff d.src) 4
      ∧ epRead t (e / 24) d.src (epOff d.src) 4 = epRead s (e / 24) d.dst (epOff d.dst) 4)
    ∧ (dmaMayStart s 5 e idx d → d.length = 8 → ∃ t, exec (.dmaSwap64 e idx d) s = .next t
      ∧ epRead t (e / 24) d.dst (epOff d.dst) 8 = epRead s (e / 24) d.src (epOff d.src) 8
      ∧ epRead t (e / 24) d.src (epOff d.src) 8 = epRead s (e / 24) d.dst (epOff d.dst) 8))
  ∧ (∀ (e : Fin 96) (idx : BitVec 24) (d : DmaDesc) (errs : List RowErr) (s : State), dmaMayStart s 1 e idx d →
    exec (.dmaCopy e idx d errs) s = exec (.dmaCopy e idx d []) (readErrs d errs s))

/-- While the units run. When a descriptor in progress on an engine that has started, which is no fill and waits for no K,
completes: its entry leaves the engine, the engine's count of completed descriptors rises by one, and the completion
counter of its CID on the engine's tile rises by one unless the CID is 255. Memory, the arrays and the registers but
for the ..._DONE registers are as before. PROBE_END of a descriptor whose end has not been reported counts one end for its scale record. While ends are
missing, the descriptors keep waiting and K is not set; with the last end K is ready and no descriptor waits for a
probe of the record any longer. With the units stopped, in SAFE, neither happens.
Rests on 07_local_movement.md, 09_schedule_and_determinism.md, 14_power_and_thermal_control.md, R189, R240, R242, R392. -/
def Obligations.DmaAndProbeEndsCount : Prop :=
  (∀ (e : Fin 96) (idx : BitVec 24) (s : State) (b : DmaBusy), unitsStopped s = false →
    (dmaGet s e).busy.find? (fun x => x.idx == idx.toNat && mayEnd s e x) = some b → b.fill = none →
    ∃ t, exec (.dmaComplete e idx) s = .next t ∧ (dmaGet t e).busy = (dmaGet s e).busy.filter (fun x => x.n != b.n)
      ∧ (dmaGet t e).done = (dmaGet s e).done + 1 ∧ (dmaGet t e).last = b.cid
      ∧ (b.cid ≠ 255 → cidGet t (e / 24) b.cid = cidGet s (e / 24) b.cid + 1) ∧ (b.cid = 255 → t.seq.cid = s.seq.cid)
      ∧ t.mem = s.mem ∧ t.arr = s.arr ∧ regsKept s t)
  ∧ (∀ (e : Fin 96) (idx : BitVec 24) (s : State) (p : DmaRef × Bool) (n : Nat), unitsStopped s = false →
    s.seq.probes.find? (fun p => p.1.eng == e.val && p.1.idx == idx.toNat && !p.2) = some p → n = (fwSid p.1.d.fmtw).toNat →
    ∃ t, exec (.probeEnd e idx) s = .next t
      ∧ ((scaleGet s n).ends + 1 < aget (fun _ => 0) s.seq.probeCnt n →
          (scaleGet t n).ends = (scaleGet s n).ends + 1 ∧ (scaleGet t n).kReady = (scaleGet s n).kReady
          ∧ t.seq.probes.length = s.seq.probes.length ∧ t.mem = s.mem ∧ t.arr = s.arr)
      ∧ (aget (fun _ => 0) s.seq.probeCnt n ≤ (scaleGet s n).ends + 1 → (scaleGet t n).kReady = true
          ∧ t.seq.probes.any (fun q => (fwSid q.1.d.fmtw).toNat == n) = false))
  ∧ (∀ (e : Fin 96) (idx : BitVec 24) (s : State), s.seq.dev = .safe →
    exec (.dmaComplete e idx) s = .next s ∧ exec (.probeEnd e idx) s = .next s)

/-- RING_FILL_ISSUE on a ring whose slot at TAIL is FREE, with a fill in its queue that moves bytes, and that no engine,
no record and no test limit holds back: the fill leaves the queue and holds that slot, which is FILLING, TAIL moves to
the next slot, and the engine has one more entry, that of the fill. RING_FULL_DELAY on a slot that a completed fill
holds FILLING: the slot is FULL and the fill is forgotten. Every other array, memory and the registers are as before,
but for the ..._DONE registers at a RING_FILL_ISSUE.
Rests on 07_local_movement.md, 18_errors_and_test.md, R175, R177, R474. -/
def Obligations.RingFillsTakeAndFillSlots : Prop :=
  ∀ (a : Fin 768) (ring : Fin 4) (s : State), (arrGet s a).rings.length = 4 →
    (∀ f rest, ((arrGet s a).rings.getD ring {}).queue = f :: rest → s.seq.dev = .running → dmaNoOp f.d = false →
      ((arrGet s a).rings.getD ring {}).st[((arrGet s a).rings.getD ring {}).tail]? = some .free →
      (dmaGet s f.eng).busy.length < 64 → heldForK f.d s = false →
      ((arrGet s a).rings.getD ring {}).st.countP (· != .free) < ringLimit s a ring ((arrGet s a).rings.getD ring {}) →
      ∃ t g, exec (.ringFillIssue a ring) s = .next t ∧ (arrGet t a).rings.getD ring {} = g
        ∧ g.queue = rest
        ∧ g.fills = ((arrGet s a).rings.getD ring {}).fills
            ++ [(((arrGet s a).rings.getD ring {}).tail, { f with n := (dmaGet s f.eng).issued })]
        ∧ g.st[((arrGet s a).rings.getD ring {}).tail]? = some .filling
        ∧ g.tail = (((arrGet s a).rings.getD ring {}).tail + 1) % ((arrGet s a).rings.getD ring {}).slots
        ∧ (∃ b, (dmaGet t f.eng).busy = (dmaGet s f.eng).busy ++ [b]
            ∧ b.fill = some (a.val, ring.val, ((arrGet s a).rings.getD ring {}).tail) ∧ b.waits = true)
        ∧ (∀ b, b ≠ a.val → arrGet t b = arrGet s b) ∧ t.mem = s.mem ∧ regsKept s t)
    ∧ (∀ (slot : Fin 16) (p : Nat × DmaRef), ((arrGet s a).rings.getD ring {}).fills.find? (fun p => p.1 == slot.val) = some p →
      (dmaGet s p.2.eng).busy.any (fun b => b.fill == some (a.val, ring.val, slot.val)) = false →
      ((arrGet s a).rings.getD ring {}).st[slot.val]? = some .filling →
      ∃ t, exec (.ringFullDelay a ring slot) s = .next t
        ∧ ((arrGet t a).rings.getD ring {}).st[slot.val]? = some .full
        ∧ ((arrGet t a).rings.getD ring {}).fills.find? (fun p => p.1 == slot.val) = none
        ∧ (∀ b, b ≠ a.val → arrGet t b = arrGet s b) ∧ t.mem = s.mem ∧ t.regs = s.regs)

/-- A DENSE or LAZY descriptor on a fitted unit that has none in progress, in RUNNING, the next one of the unit's issue
queue and of its list in the loaded program: the unit holds it with its CID and the step's count of issued descriptors
rises by one. Every byte of every committed version reads as before, so that the reads of the step see none of its
writes. When an update fence stands against one of its outputs it waits, and no working version changes either; when
its layer is frozen nothing of memory changes. When no fence holds it, its layer is not frozen and it does not clip,
with outputs that are different tensors of at most 2^40 bytes: the working version of the weights and carries holds
what the update rule makes of each element and splits into weight and carry. DENSE does so for every element of its
planes under the bias count of the step; LAZY for every element of the rows of a touch list that is in order, under the
row's own count, which it leaves one higher, saturating.
Rests on 04_training_numerics.md, 10_parameter_update.md, R100, R213, R266, R268, R271, R277, R278, R280. -/
def Obligations.UpdatesWriteWorkingVersionsOnly : Prop :=
  ∀ (u : Fin 12) (idx : BitVec 24) (d : UpdDesc) (s : State) (c : Instr) (op : Nat) (p : Prog),
    ((c = .dense u idx d ∧ op = 1) ∨ (c = .lazyUpd u idx d ∧ op = 2)) →
    pickStatus (updCheck op d (progLayers s) ++ updCheckMem s op d (updRule s d) (updWideNum s d)) = 0 →
    s.seq.prog = some p → updMayStart op u idx.toNat d s p = true →
    ∃ t, exec c s = .next t ∧ (updGet t u).active = some (idx.toNat, d.cid.toNat) ∧ t.seq.issued = s.seq.issued + 1
      ∧ (∀ k, memByte t k = memByte s k) ∧ t.arr = s.arr
      ∧ (updFenced op d p s = true → t.mem = s.mem ∧ (updGet t u).waiting = some (op, d))
      ∧ (layerFrozen p d.layer.toNat = true → t.mem = s.mem ∧ (updGet t u).waiting = (updGet s u).waiting)
      ∧ (updFenced op d p s = false → layerFrozen p d.layer.toNat = false → d.clip = false →
          (updOutputs op d (updEf s p d)).Nodup → (∀ e ∈ updExtents op d (updRule s d) (updWideNum s d), e.2.1 ≤ 2 ^ 40) →
          ∀ k gf, k = updConsts s p d → gf = (fmtOfCode d.gf.toNat).getD .f32 →
          (op = 1 → ∀ pl i gv g o, d.first.toNat ≤ pl → pl < d.first.toNat + d.count.toNat → i < 9216 →
            gv = tensorBlocks s d.gH.toNat gf (288 * pl) 288 →
            g = (List.range 9216).map (fun e => gv.getD (96 * (e % 96) + e / 96) .nan) →
            o = updNew s d k (biasOf k.r (denseCount s k.r)) (9216 * pl) 9216 g i →
            (∀ b, b < 2 → workByte t (tkey d.wH.toNat (2 * (9216 * pl + i)) + b) = (leBytes 2 o.w.toNat).getD b 0)
            ∧ workByte t (tkey d.cH.toNat (9216 * pl + i)) = o.c)
          ∧ (op = 2 → ∀ n ts j r cnt cnt' i g o, n = leNat (tensorBytes s d.tH.toNat 0 4) → n ≤ d.count.toNat →
            ts = (List.range n).map (fun j => leNat (tensorBytes s d.tH.toNat (4 + 4 * j) 4)) → touchOk d.first.toNat ts = true →
            j < n → r = ts.getD j 0 → cnt = leNat (tensorBytes s d.kH.toNat (4 * r) 4) →
            cnt' = (if cnt = 0xffffffff then cnt else cnt + 1) → i < d.rowElems.toNat →
            g = tensorBlocks s d.gH.toNat gf (j * (d.rowElems.toNat / 32)) (d.rowElems.toNat / 32) →
            o = updNew s d k (biasOf k.r cnt') (r * d.rowElems.toNat) d.rowElems.toNat g i →
            (∀ b, b < 2 → workByte t (tkey d.wH.toNat (2 * (r * d.rowElems.toNat + i)) + b) = (leBytes 2 o.w.toNat).getD b 0)
            ∧ workByte t (tkey d.cH.toNat (r * d.rowElems.toNat + i)) = o.c
            ∧ ∀ b, b < 4 → workByte t (tkey d.kH.toNat (4 * r) + b) = (leBytes 4 cnt').getD b 0))

/-- When the descriptor that a unit has in progress, and that no fence holds, completes: the unit is free, the step's
count of completed descriptors rises by one and the completion counter of its CID on the unit's tile rises by one
unless the CID is 255. Memory, the arrays and the registers but for the ..._DONE registers are as before. In SAFE the unit has stopped, and nothing
completes. FENCE_LIFT of a fence that stands, with nothing waiting on the host side, no descriptor waiting in an update
unit and none in the confluence engine, removes the fences of that queue on that tensor and changes nothing else; where
no such fence stands nothing changes.
Rests on 08_hbm_cache_placement.md, 10_parameter_update.md, R215, R216, R240, R266, R278, R283. -/
def Obligations.UpdatesCompleteAndFencesLift : Prop :=
  (∀ (u : Fin 12) (idx : BitVec 24) (s : State) (c : Nat),
    (updGet s u).active = some (idx.toNat, c) → (updGet s u).waiting = none →
    (unitsStopped s = false → ∃ t, exec (.updateComplete u idx) s = .next t ∧ (updGet t u).active = none ∧ t.seq.done = s.seq.done + 1
      ∧ (c ≠ 255 → cidGet t (u / 3) c = cidGet s (u / 3) c + 1) ∧ (c = 255 → t.seq.cid = s.seq.cid)
      ∧ t.mem = s.mem ∧ t.arr = s.arr ∧ regsKept s t)
    ∧ (s.seq.dev = .safe → exec (.updateComplete u idx) s = .next s))
  ∧ (∀ (q : Fin 16) (h : BitVec 24) (s : State), hostQuiet s → (∀ u, u < 12 → (updGet s u).waiting = none) → s.cfl.ops = [] →
    exec (.fenceLift q h) s = .next { s with mem := { s.mem with
      fences := s.mem.fences.filter (fun f => !(f.q == q.val && f.handle == h.toNat)) } })

/-- REDUCE, GATHER, NORM and XCHG of an accepted form in RUNNING, the next one of the engine's issue queue and of its list
in the loaded program, with fewer than 16 descriptors in progress and none of the same list index: the engine holds
the descriptor, the step's count of issued descriptors rises by one, and a REDUCE or GATHER of no elements is ready to
complete at once with memory as it was. With 16 in progress nothing happens. With none in progress and nothing of the
descriptor received yet: GATHER writes this device's own lines of SRC to their place in DST, and every other byte is as
before. On a device alone in its reach: a plain REDUCE (no CMP, D_H, NORM_ACC, stochastic rounding or basin stage,
policy WAIT, no replay) writes to DST the elements of SRC converted to its format; NORM writes the value of its group's
accumulator to its word, in the working version of training state that no fence holds, and clears the group; XCHG with
counts up to CAP writes the counted rows of each expert to DST, zeroes the rest of its region, and without DIR writes
the counts received. No other tensor changes.
Rests on 11_peer_links_and_collectives.md, R304, R306, R308, R309, R310, R311. -/
def Obligations.ConfluenceDescriptorsAreHeld : Prop :=
  ∀ (idx : BitVec 24) (d : CflDesc) (s : State) (c : Instr) (op : Nat),
    ((c = .reduce idx d ∧ op = 1) ∨ (c = .gather idx d ∧ op = 2) ∨ (c = .norm idx d ∧ op = 3) ∨ (c = .xchg idx d ∧ op = 4)) →
    pickStatus (cflCheck op d (hasLcu s) ++ cflCheckMem s op d (reachD s) (myIndex s)) = 0 →
    (cflMayStart s op idx.toNat d = true →
      ∃ t o, exec c s = .next t ∧ opGet t idx.toNat = some o ∧ o.op = op ∧ o.d = d ∧ t.seq.issued = s.seq.issued + 1
        ∧ t.cfl.ops.length = s.cfl.ops.length + 1
        ∧ (op = 1 ∨ op = 2 → d.count = 0 → o.ready = true ∧ t.mem = s.mem))
    ∧ (16 ≤ s.cfl.ops.length → exec c s = .next s)
    ∧ (cflMayStart s op idx.toNat d = true → s.cfl.ops = [] → (∀ q ∈ s.cfl.inbox, q.idx ≠ idx.toNat) →
      ∃ t, exec c s = .next t
        ∧ (op = 2 → d.count ≠ 0 → ∀ g bs at', g = gatherPart d.count.toNat (reachD s) (myIndex s) →
            bs = tensorBytes s d.srcH.toNat (fld d.srcOff 0 40) (64 * (g.2 - g.1)) →
            at' = tkey d.dstH.toNat (fld d.dstOff 0 40 + 64 * g.1) → myIndex s < reachD s →
            ∀ k, memByte t k = if at' ≤ k ∧ k < at' + bs.length then bs.getD (k - at') 0 else memByte s k)
        ∧ (reachD s = 1 →
          (op = 1 → d.count ≠ 0 → d.cmp = false → d.dH = 0 → d.normAcc = false → fwGrad d.fmtw = false →
            basinRid s d.rid = false → fld s.cfl.policyNow (2 * d.cls.toNat) 2 = 0 → s.cfl.ledgerMode ≠ 2 →
            ∀ vals bs at', vals = (decStored (redSrc d) (tensorBytes s d.srcH.toNat (fld d.srcOff 0 40)
                ((redSrc d).stored d.count.toNat)) d.count.toNat).1 →
              bs = asmStored (redDst d) ((List.range d.count.toNat).map (fun b => cnvBlock (redDst d)
                ((List.range 32).map (fun i => f32V (vals.getD (32 * b + i) 0))) (fun _ => none))) →
              at' = tkey d.dstH.toNat (fld d.dstOff 0 40) →
              ∀ k, memByte t k = if at' ≤ k ∧ k < at' + bs.length then bs.getD (k - at') 0 else memByte s k)
          ∧ (op = 3 → ∀ bs at', bs = leBytes 4 (monValue (s.cfl.groups.getD d.group.toNat {})).toNat → at' = tkey d.nH.toNat 0 →
              (isState s d.nH.toNat = false →
                t.cfl.groups.getD d.group.toNat {} = {}
                ∧ ∀ k, memByte t k = if at' ≤ k ∧ k < at' + 4 then bs.getD (k - at') 0 else memByte s k)
              ∧ (isState s d.nH.toNat = true → fenced s d.nH.toNat = false →
                t.cfl.groups.getD d.group.toNat {} = {} ∧ (∀ k, memByte t k = memByte s k)
                ∧ ∀ k, k < 4 → workByte t (at' + k) = bs.getD k 0))
          ∧ (op = 4 → ∀ e cap rb cs so dof, e = d.experts.toNat → cap = d.cap.toNat → rb = d.rowb.toNat → so = fld d.srcOff 0 40 →
              dof = fld d.dstOff 0 40 → dof + e * cap * rb ≤ 2 ^ 40 → d.dstH ≠ d.nH →
              cs = (List.range e).map (fun k => leNat (tensorBytes s d.nH.toNat ((if d.dir then 4 * e else 0) + 4 * k) 4)) →
              (∀ c ∈ cs, c ≤ cap) →
              (∀ j, j < e * cap * rb → memByte t (tkey d.dstH.toNat (dof + j)) =
                if j % (cap * rb) < cs.getD (j / (cap * rb)) 0 * rb then (tensorBytes s d.srcH.toNat (so + j) 1).getD 0 0 else 0)
              ∧ (d.dir = false → ∀ k b, k < e → b < 4 →
                  memByte t (tkey d.nH.toNat (4 * (e + k)) + b) = (leBytes 4 (cs.getD k 0)).getD b 0)
              ∧ ∀ k, k / 2 ^ 40 ≠ d.dstH.toNat → k / 2 ^ 40 ≠ d.nH.toNat → memByte t k = memByte s k)))

/-- When a descriptor whose writes are all made completes, the engine no longer holds it, the step's count of completed
descriptors rises by one, and event counter EV rises by one when EV lies from 32 to 63. Memory, the arrays and the
registers but for the ..._DONE registers are as before. A descriptor that is not ready stays.
Rests on 11_peer_links_and_collectives.md, R240, R304. -/
def Obligations.ConfluenceCompletions : Prop :=
  ∀ (idx : BitVec 24) (s : State) (o : CflOp), opGet s idx.toNat = some o →
    (o.ready = true → ∃ t, exec (.cflComplete idx) s = .next t ∧ opGet t idx.toNat = none ∧ t.seq.done = s.seq.done + 1
      ∧ (32 ≤ o.d.ev.toNat → o.d.ev.toNat < 64 →
          aget (fun _ => 0) t.seq.ev o.d.ev.toNat = aget (fun _ => 0) s.seq.ev o.d.ev.toNat + 1)
      ∧ t.mem = s.mem ∧ t.arr = s.arr ∧ regsKept s t)
    ∧ (o.ready = false → exec (.cflComplete idx) s = .next s)

/-- Records on port p, in the state u in which the link layer has taken them. MARKER at the leader of the reach, for a
descriptor that it holds undecided under a policy other than WAIT and a device whose marker it lacks and which has not
closed weir 0 of the step: the marker is noted, and the window is open once it holds the markers of half the devices,
rounded up. WINDOW_CLOSE at the leader with the window open, under such a policy and with no ledger in the way: the
decision names as late exactly the devices of the reach whose markers it lacks. DECISION_RECORD for a REDUCE held
undecided, from a leader that has not closed weir 0 of the step: the record's map is in force. One for a descriptor that
has neither started nor completed: it is kept for its start.
Rests on 11_peer_links_and_collectives.md, R319, R322. -/
def Obligations.LateDevicesAreDecided : Prop :=
  (∀ (p : Fin 6) (h : FlitHdr) (idx : BitVec 24) (s u : State) (o : CflOp), linkGood s p 1 h → u = linkTaken s p 1 h →
    h.dest.toNat = myIndex u → opGet u idx.toNat = some o → o.late = none →
    (myIndex u = 0 → o.policy ≠ 0 → o.markers.contains h.srcDev.toNat = false →
      aget (fun _ => 0) u.seq.peerClosed h.srcDev.toNat = 0 →
      ∃ t o', exec (.marker ⟨h, p⟩ idx) s = .next t ∧ opGet t idx.toNat = some o' ∧ o'.markers = o.markers ++ [h.srcDev.toNat]
        ∧ o'.windowOpen = (o.windowOpen || decide ((reachD u + 1) / 2 ≤ o'.markers.length)) ∧ o'.late = none ∧ t.mem = u.mem)
    ∧ (∀ (map : DWord) (policy : BitVec 2), o.op = 1 → aget (fun _ => 0) u.seq.peerClosed 0 = 0 →
      ∃ t o', exec (.decisionRecord ⟨h, p⟩ idx ⟨map, policy⟩) s = .next t ∧ opGet t idx.toNat = some o' ∧ o'.late = some map))
  ∧ (∀ (p : Fin 6) (h : FlitHdr) (idx : BitVec 24) (map : DWord) (policy : BitVec 2) (s u : State), linkGood s p 1 h →
    u = linkTaken s p 1 h → h.dest.toNat = myIndex u → opGet u idx.toNat = none → u.cfl.doneIdx.contains idx.toNat = false →
      exec (.decisionRecord ⟨h, p⟩ idx ⟨map, policy⟩) s = .next { u with cfl := { u.cfl with
        earlyDecisions := u.cfl.earlyDecisions ++ [(idx.toNat, map, policy.toNat)] } })
  ∧ (∀ (idx : BitVec 24) (s : State) (o : CflOp), opGet s idx.toNat = some o → o.late = none →
    myIndex s = 0 → o.windowOpen = true → o.policy ≠ 0 → s.cfl.ledgerMode ≠ 1 →
      ∃ t o', exec (.windowClose idx) s = .next t ∧ opGet t idx.toNat = some o'
        ∧ ∃ m, o'.late = some m ∧ ∀ d, d < 64 → m.getLsbD d = (decide (d < reachD s) && !o.markers.contains d))

/-- A DRAIN of an accepted form on a fitted link compression unit in RUNNING, the next one of the unit's issue queue and
of its list in the loaded program. When its port holds no flit of an item of this device, unsent or unacknowledged, it
completes at once: the step's counts of issued and of completed descriptors rise by one, and event counter EV rises by
one when EV lies from 32 to 63. When the port holds such flits the DRAIN waits for exactly these, and nothing completes
(the flits of this device's items are the model's reading, log 92).
Rests on 11_peer_links_and_collectives.md, R317. -/
def Obligations.DrainsCompleteOnAnEmptyPort : Prop :=
  ∀ (p : Fin 6) (idx : BitVec 24) (ev : Byte) (s : State),
    (ev = 0xff ∨ (32 ≤ ev.toNat ∧ ev.toNat < 64)) → hasLcu s = true → s.seq.dev = .running → presentPage s.fit .lcu p = true →
    atFront s (drainQueue p) idx.toNat = true → drainIs s p idx.toNat ev.toNat = true →
    (ownItems s p = [] →
      ∃ t, exec (.drain p idx ev) s = .next t ∧ t.seq.issued = s.seq.issued + 1 ∧ t.seq.done = s.seq.done + 1
        ∧ t.port = s.port ∧ (∀ e, aget (fun _ => 0) t.seq.ev e =
            aget (fun _ => 0) s.seq.ev e + (if e = ev.toNat ∧ e < 64 then 1 else 0)))
    ∧ (ownItems s p ≠ [] →
      ∃ t, exec (.drain p idx ev) s = .next t ∧ t.seq.issued = s.seq.issued + 1 ∧ t.seq.done = s.seq.done ∧ t.seq.ev = s.seq.ev
        ∧ (portGet t p).drains = (portGet s p).drains ++ [(idx.toNat, ev.toNat, ownItems s p)])

/-- A flit that arrives on a port in UP. With a CRC or FEC error it is discarded: a negative acknowledgement of the latest
good SEQ leaves, and nothing else changes but counters of the port. One that a test of the link refuses is answered like
a damaged one and counted in TST_LINK_DONE. One out of order is answered with the port's latest SEQ, negatively when
flits before it are missing (assumption 103). One that the port takes: its SEQ is the port's latest, and an
acknowledgement of it that returns a credit of its class leaves. The acknowledgement and the credits that it carries are
applied: with a positive acknowledgement, nothing waiting at the port and no descriptor in the confluence engine, the
flits up to the one that it names are no longer kept for a replay, those after it are, and the credits are added to
those of their class. For this device its payload is then the newest piece that the confluence engine holds, and the
engine goes on; for another device it leaves on the port of its route. FLIT_ACK, positive, of a SEQ that the port has
outstanding, with nothing waiting at the port and no descriptor in the confluence engine: the flits sent up to it are no
longer kept for a replay, what the port has sent after it is kept, and the credits are added. No flit leaves, memory and
the arrays are as before. A damaged FLIT_ACK is answered like a damaged flit.
Rests on 11_peer_links_and_collectives.md, 18_errors_and_test.md, R291, R292, R293, R317, R475. -/
def Obligations.FlitsAreTakenAndAcknowledged : Prop :=
  (∀ (p : Fin 6) (f : Flit) (s : State), (portGet s p).st = .up →
    (f.crcOk = false ∨ f.fecOk = false → ∃ t, exec (.dataFlit p f) s = .next t
      ∧ t.wire = .flitAck p (portGet s p).rxSeq true 0 0 :: s.wire ∧ t.port = s.port ∧ t.mem = s.mem ∧ t.cfl = s.cfl)
    ∧ (f.crcOk = true → f.fecOk = true → linkRefuses s .ngl p (portGet s p).tst 1 = true → ∃ t, exec (.dataFlit p f) s = .next t
      ∧ t.wire = .flitAck p (portGet s p).rxSeq true 0 0 :: s.wire ∧ (portGet t p).rxSeq = (portGet s p).rxSeq
      ∧ (portGet t p).tst = linkNext s .ngl p (portGet s p).tst 1
      ∧ (pgGet t .ngl p 0x090).toNat = min 0xffffffff ((pgGet s .ngl p 0x090).toNat + linkRefused s .ngl p (portGet s p).tst 1)
      ∧ t.mem = s.mem ∧ t.cfl = s.cfl)
    ∧ (f.crcOk = true → f.fecOk = true → linkRefuses s .ngl p (portGet s p).tst 1 = false → f.seq ≠ (portGet s p).rxSeq + 1 →
      ∃ t, exec (.dataFlit p f) s = .next t ∧ (portGet t p).rxSeq = (portGet s p).rxSeq ∧ t.mem = s.mem ∧ t.cfl = s.cfl
        ∧ t.wire = .flitAck p (portGet s p).rxSeq (decide ((f.seq - (portGet s p).rxSeq - 1).toNat < 2 ^ 15)) 0 0 :: s.wire)
    ∧ (linkGood s p 1 f.toFlitHdr → ∀ u, u = linkTaken s p 1 f.toFlitHdr →
      (portGet u p).rxSeq = f.seq ∧ .flitAck p f.seq false f.tc.toNat 1 ∈ u.wire
      ∧ (f.ack.getLsbD 31 = false → (portGet s p).txq = [] → s.cfl.ops = [] →
          (portGet u p).unacked = (match (portGet s p).unacked.findIdx? (fun e => e.1 == f.ack.truncate 16) with
            | some n => (portGet s p).unacked.drop (n + 1)
            | none => (portGet s p).unacked)
          ∧ (portGet u p).credit = (portGet s p).credit.set f.creditTc.toNat
              ((portGet s p).credit.getD f.creditTc.toNat 0 + f.credit.toNat))
      ∧ ∃ t, exec (.dataFlit p f) s = .next t
        ∧ (f.dest.toNat ≠ myIndex u → t = markersDue (forward f.toFlitHdr f.off.toNat 1
            (.data f.idx.toNat f.sLow f.off.toNat f.shard f.f32 f.payload) u))
        ∧ (f.dest.toNat = myIndex u → t = cflAdvance { u with cfl := { u.cfl with
          inbox := u.cfl.inbox ++ [{ src := f.srcDev.toNat, idx := f.idx.toNat, sLow := f.sLow, off := f.off.toNat, shard := f.shard,
                                     f32 := f.f32, bytes := f.payload }] } })))
  ∧ (∀ (p : Fin 6) (h : FlitHdr) (s : State) (n : Nat), (portGet s p).st = .up → h.crcOk = true → h.fecOk = true →
    h.ack.getLsbD 31 = false → (portGet s p).unacked.findIdx? (fun e => e.1 == h.ack.truncate 16) = some n →
    (portGet s p).txq = [] → s.cfl.ops = [] →
    ∃ t, exec (.flitAck p h.toFlitTop h.toFlitRx) s = .next t ∧ (portGet t p).unacked = (portGet s p).unacked.drop (n + 1)
      ∧ (portGet t p).credit = (portGet s p).credit.set h.creditTc.toNat ((portGet s p).credit.getD h.creditTc.toNat 0 + h.credit.toNat)
      ∧ (portGet t p).txq = [] ∧ t.wire = s.wire ∧ t.mem = s.mem ∧ t.arr = s.arr)
  ∧ (∀ (p : Fin 6) (h : FlitHdr) (s : State), (portGet s p).st = .up → (h.crcOk = false ∨ h.fecOk = false) →
    ∃ t, exec (.flitAck p h.toFlitTop h.toFlitRx) s = .next t ∧ t.wire = .flitAck p (portGet s p).rxSeq true 0 0 :: s.wire
      ∧ t.port = s.port ∧ t.mem = s.mem ∧ t.cfl = s.cfl)

/-- WEIR_CLOSE of a weir from 1 on that is no reach weir, in a running step. With this device's part open and every
participant arrived: the count of closings and the count of this device's parts rise by one, and of the arrays whose
record is not the default one exactly those that wait at the weir are marked for release. With this device's part open
and a participant missing nothing changes. RELEASE_GROUP g in RUNNING: an array of group g (its index modulo 64) that is
marked for release runs, at no weir and with no eddy level, unless an array of a lower group is still marked for the
same closing; from weir 0 it starts at its first instruction, else at the next one. The arrays of every other group,
memory and the registers are as before. EDDY_DECREMENT of an array that waits at a weir with a level above 0: at a weir
of device scope in RUNNING it lowers that array's level by one; where R385 governs it lowers the level of every such
array of the tile by one when it is the tile's turn, and else changes nothing. With no level above 0 nothing changes.
Rests on 09_schedule_and_determinism.md, 14_power_and_thermal_control.md, R243, R244, R245, R246, R385. -/
def Obligations.WeirsCloseAndReleaseTheirArrays : Prop :=
  (∀ (w : BitVec 12) (ns : Nat) (s : State) (p : Prog), s.seq.prog = some p → s.seq.dev = .running → s.seq.act = 0 →
    w ≠ 0 → w.toNat ≤ p.weirs → (weirReach s p w.toNat = false ∨ reachD s ≤ 1) → partsGet s w.toNat = closedGet s w.toNat →
    (partReady s p w.toNat = true → ∃ t, exec (.weirClose w ns) s = .next t
      ∧ closedGet t w.toNat = closedGet s w.toNat + 1 ∧ partsGet t w.toNat = partsGet s w.toNat + 1
      ∧ (∀ a, arrGet s a ≠ {} → arrGet t a = if (arrGet s a).weir = some w.toNat ∧ (arrGet s a).st = .atWeir then { arrGet s a with rel := true }
          else arrGet s a)
      ∧ t.mem = s.mem ∧ t.regs = s.regs)
    ∧ (partReady s p w.toNat = false → exec (.weirClose w ns) s = .next s))
  ∧ (∀ (g : Fin 64) (s : State),
    (s.seq.dev = .running → ∃ t, exec (.releaseGroup g) s = .next t ∧ t.mem = s.mem ∧ t.regs = s.regs
      ∧ (∀ a, a % 64 ≠ g.val → arrGet t a = arrGet s a)
      ∧ (∀ a, a % 64 = g.val → (arrGet s a).rel = true →
          s.arr.any (fun f => f.2.rel && f.2.weir == (arrGet s a).weir && decide (f.1 % 64 < g.val)) = false →
          arrGet t a = { arrGoto (arrGet s a) (if (arrGet s a).weir = some 0 then 0 else (arrGet s a).pc + 1) with
                           rel := false, st := .running, eddy := 0, weir := none }))
    ∧ (∀ (a : Fin 768) (us : Nat), (arrGet s a).st = .atWeir → (arrGet s a).eddy ≠ 0 →
        (slopeArr s (arrGet s a) = false → ∃ t, exec (.eddyDecrement a us) s = .next t ∧ t.mem = s.mem ∧ t.regs = s.regs
          ∧ arrGet t a = { arrGet s a with eddy := (arrGet s a).eddy - 1 } ∧ (∀ b, b ≠ a.val → arrGet t b = arrGet s b))
        ∧ (slopeArr s (arrGet s a) = true → slopeNext s = some (tileOf a) →
          ∃ t, exec (.eddyDecrement a us) s = .next t ∧ t.mem = s.mem ∧ t.regs = s.regs ∧ t.thm.eddyTile = tileOf a
            ∧ ∀ b, arrGet t b = if tileOf b = tileOf a ∧ slopeArr s (arrGet s b) = true then
                { arrGet s b with eddy := (arrGet s b).eddy - 1 } else arrGet s b)
        ∧ (slopeArr s (arrGet s a) = true → slopeNext s ≠ some (tileOf a) → exec (.eddyDecrement a us) s = .next s))
    ∧ (∀ (a : Fin 768) (us : Nat), (arrGet s a).st ≠ .atWeir ∨ (arrGet s a).eddy = 0 → exec (.eddyDecrement a us) s = .next s))

/-- STEP_BOUNDARY of a device alone in its reach, in a running step whose every participant has arrived, with the host
side quiet. Without a cause that forbids it the step commits: the number of commits rises by one and the steps left fall
by one (shown where no RESUME waits behind a PAUSE). Then, with no write of scale records waiting, no entry for the
ledger and no triggers of others held: the working bytes of every page written in the step are the committed ones, and
every other byte is as before, the run, scale and layer records apart. S has risen by one. Every scale record that the
step used has its maximum in its history, and one whose history is full has the K of its largest entry. Every layer has
in its record, of each quantity that its monitors saw, the value and the average that follows, and MODE and FB_LEFT as
its action on its trigger leaves them (assumptions 117 to 119). Shown where the records lie in different tensors, whose
pages the step has not written. With such a cause (poison, a touch list out of range or order, a dispatch out of range)
the device halts with that cause's status, there is no commit, and every byte of the committed versions is as before.
Rests on 01_module_overview.md, 04_training_numerics.md, 05_low_bit_error_control.md, 09_schedule_and_determinism.md,
R98, R104, R105, R135, R136, R138, R139, R214, R257, R301. -/
def Obligations.BoundariesCommitOrDiscard : Prop :=
  ∀ (ns : Nat) (s : State) (p : Prog), s.seq.prog = some p → s.seq.dev = .running → s.seq.act = 0 → hostQuiet s →
    reachD s = 1 → stepDone s = true → partsGet s 0 = 0 → closedGet s 0 = 0 →
    (ownNoCommit s = none → s.seq.peerNoCommit = false → (∀ c ∈ s.seq.pause, isPause c = true) → ∃ t, exec (.stepBoundary ns) s = .next t
      ∧ t.mem.commits = s.mem.commits + 1 ∧ t.seq.stepsLeft = s.seq.stepsLeft - 1
      ∧ ∀ W : Nat → Nat → Bool, (∀ h k, W h k = aget (fun _ => false) s.mem.written (h * 2 ^ 20 + k)) →
        (s.seq.scaleWrites = [] → s.seq.peerTrig = [] → s.cfl.ledgerNew = [] → Memory.wf s.mem → pagesIn s.mem →
          96 * p.layers ≤ 2 ^ 40 →
          (∀ h off, off < 2 ^ 40 → h ≠ p.runRec → h ≠ p.scaleRec → h ≠ p.layerRec → memByte t (tkey h off) =
            if W h (off / pageSize) = true then workByte s (tkey h off) else memByte s (tkey h off))
          ∧ (W p.runRec 0 = false → p.runRec ≠ p.scaleRec → p.runRec ≠ p.layerRec → stepS t = stepS s + 1)
          ∧ (p.scaleRec ≠ p.runRec → p.scaleRec ≠ p.layerRec → (∀ k, k < 2 ^ 19 → W p.scaleRec k = false) →
            awf (fun _ => {}) s.seq.scales → ∀ n r, recAllocated s n = true → r = aget (fun _ => {}) s.seq.scales n →
              (r.used = true → ∀ head, head = (recByte s n 0x40).toNat % 16 →
                memNat t p.scaleRec (recOff n + 4 * head) 4 = r.amax.toNat ∧ (recByte t n 0x40).toNat = (head + 1) % 16
                ∧ recValid t n = min 16 (recValid s n + 1))
              ∧ (recValid t n = 16 →
                  recByte t n 0x42 = BitVec.ofInt 8 (scaleK (f32V (histMax t n)) (recMax t n) (recMargin t n)))
              ∧ (r.used = false → recValid t n ≠ 16 → ∀ o, o < 80 → recByte t n o = recByte s n o))
          ∧ (p.layerRec ≠ p.runRec → p.layerRec ≠ p.scaleRec → (∀ k, k < 2 ^ 19 → W p.layerRec k = false) → ∀ l, l < p.layers →
              (∀ q v, q < 6 → monLast s l q = some v →
                layerF32 t p l (0x28 + 4 * q) = v ∧ layerF32 t p l (0x10 + 4 * q) = (detect s p l q v).2.2)
              ∧ (∀ q, q < 6 → monLast s l q = none → layerF32 t p l (0x28 + 4 * q) = layerF32 s p l (0x28 + 4 * q)
                  ∧ layerF32 t p l (0x10 + 4 * q) = layerF32 s p l (0x10 + 4 * q))
              ∧ ∀ m, m = layerMode (noteProjections s p) p l (ownTrigger s p l) →
                  layerWide t p l = m.1 ∧ layerNat t p l 0x0a 1 = m.2 % 256)))
    ∧ (∀ st, ownNoCommit s = some st → ∃ t, exec (.stepBoundary ns) s = .next t ∧ t.seq.dev = .halted ∧ t.seq.haltStatus = st
        ∧ t.mem.commits = s.mem.commits ∧ ∀ k, memByte t k = memByte s k)

/-- STEP_TIMEOUT in a running step, with the host side quiet: the device halts with STEP_TIMEOUT (0x0901), and every byte
of the committed versions is as before. STEPS_DONE of a device whose boundary found no steps left, with no queue head,
no host access and no RESUME behind a PAUSE: the device is PAUSED and no PAUSE waits any longer; memory is as before.
PEER_NOTICE that a port takes, in the state u in which the link layer has taken it, with the host side quiet: CFL_PEER
holds the notice's status, origin and HOLD. A device in RUNNING halts with PEER_HALT (0x0b03), and every byte of the
committed versions is as before; a device in another state stays in it.
Rests on 09_schedule_and_determinism.md, 11_peer_links_and_collectives.md, R251, R257, R302. -/
def Obligations.StepsEndByLimitsAndNotices : Prop :=
  (∀ s : State, s.seq.dev = .running →
    (s.seq.act = 0 → hostQuiet s → ∃ t, exec .stepTimeout s = .next t ∧ t.seq.dev = .halted ∧ t.seq.haltStatus = 0x0901
      ∧ t.mem.commits = s.mem.commits ∧ ∀ k, memByte t k = memByte s k)
    ∧ (s.seq.ramp = some .pausing → s.hst.heads = [] → s.hst.access = [] → (∀ c ∈ s.seq.pause, isPause c = true) →
      ∃ t, exec .stepsDone s = .next t ∧ t.seq.dev = .paused ∧ t.seq.pause = [] ∧ t.mem = s.mem))
  ∧ (∀ (port : Fin 6) (h : FlitHdr) (origin : BitVec 6) (st : Half) (hold : Bool) (s u : State), linkGood s port 1 h →
    u = linkTaken s port 1 h → u.seq.dev ≠ .off → hostQuiet u → ∃ t, exec (.peerNotice ⟨h, port⟩ origin st hold) s = .next t
      ∧ t.cfl.peer = BitVec.ofNat 32 (st.toNat + origin.toNat * 2 ^ 16 + if hold then 2 ^ 24 else 0)
      ∧ (u.seq.dev = .running → t.seq.dev = .halted ∧ t.seq.haltStatus = 0x0b03)
      ∧ (u.seq.dev ≠ .running → t.seq.dev = u.seq.dev) ∧ ∀ k, memByte t k = memByte u k)

/-- CLOSING_RECORD on port p, that the port takes; u is the state in which the link layer has taken it. With no confluence
descriptor in progress the link layer itself changes neither memory nor the arrays. The record of another device of
the reach for this one, of weir w, whose count is k. When a record of weir 0 of that device is held, it belongs to the
next step (assumption 40) and stands behind those kept for that step. Nothing else changes then in a device that is not
RUNNING or that performs an action of the boundary; in a running step before its boundary the record is kept likewise,
shown for weirs from 1 on, and for weir 0 while this device's own part is open and the host side is quiet. When none is
held, and w is a reach weir from 1 on: the closings noted of that weir and device are k. When none is held and w is weir
0, while this device's own part is open and the host side is quiet: the closings noted are k, the device's triggers are
noted, and a NO_COMMIT of any device stays noted. In all of them memory is as before.
Rests on 11_peer_links_and_collectives.md, R243, R301. -/
def Obligations.ClosingRecordsAreKept : Prop :=
  ∀ (p : Fin 6) (h : FlitHdr) (w : BitVec 12) (k : Nat) (trig : List (BitVec 3)) (nc : Bool) (ns : Nat) (s u : State) (g : Prog),
    linkGood s p (closingFlits trig.length) h → u = linkTaken s p (closingFlits trig.length) h →
    (s.cfl.ops = [] → u.mem = s.mem ∧ u.arr = s.arr)
    ∧ (u.seq.prog = some g → u.seq.dev ≠ .off → h.dest.toNat = myIndex u → h.srcDev.toNat ≠ myIndex u → h.srcDev.toNat < reachD u →
      (w = 0 ∨ (w.toNat ≤ g.weirs ∧ weirReach u g w.toNat = true)) →
      (aget (fun _ => 0) u.seq.peerClosed h.srcDev.toNat ≠ 0 → (u.seq.dev ≠ .running ∨ u.seq.act ≠ 0) →
        exec (.closingRecord ⟨h, p⟩ w k trig nc ns) s = .next { u with seq := { u.seq with peerLater := u.seq.peerLater ++
          [{ dev := h.srcDev.toNat, weir := w.toNat, k := k, trig := trig, noCommit := nc }] } })
      ∧ (aget (fun _ => 0) u.seq.peerClosed h.srcDev.toNat ≠ 0 → u.seq.dev = .running → u.seq.act = 0 →
        (w = 0 → hostQuiet u ∧ partsGet u 0 = 0) →
        ∃ t, exec (.closingRecord ⟨h, p⟩ w k trig nc ns) s = .next t ∧ t.mem = u.mem
          ∧ t.seq.peerLater = u.seq.peerLater ++
              [{ dev := h.srcDev.toNat, weir := w.toNat, k := k, trig := trig, noCommit := nc }]
          ∧ t.seq.peerClosed = u.seq.peerClosed ∧ t.seq.peerTrig = u.seq.peerTrig ∧ t.seq.peerNoCommit = u.seq.peerNoCommit)
      ∧ (aget (fun _ => 0) u.seq.peerClosed h.srcDev.toNat = 0 → w ≠ 0 →
        ∃ t, exec (.closingRecord ⟨h, p⟩ w k trig nc ns) s = .next t ∧ t.mem = u.mem
          ∧ aget (fun _ => 0) t.seq.peerClosed (w.toNat * 64 + h.srcDev.toNat) = k)
      ∧ (aget (fun _ => 0) u.seq.peerClosed h.srcDev.toNat = 0 → w = 0 → hostQuiet u → partsGet u 0 = 0 →
        ∃ t, exec (.closingRecord ⟨h, p⟩ w k trig nc ns) s = .next t ∧ t.mem = u.mem
          ∧ aget (fun _ => 0) t.seq.peerClosed h.srcDev.toNat = k ∧ aget (fun _ => []) t.seq.peerTrig h.srcDev.toNat = trig
          ∧ t.seq.peerNoCommit = (u.seq.peerNoCommit || nc)))

/-- TRAINING_DONE on a port that trains brings it to IDENT. TRAINING_TIMEOUT counts a failed attempt; the third brings the
port to FAILED, and of a port that the running program uses, with the host side quiet, the device to HALTED with
LINK_DOWN (0x0b01). LOSS_OF_LOCK and REPLAY_THRESHOLD bring a port from UP to RETRAIN. IDENTITY_RECORD undamaged and
refused by no test: in IDENT it is kept, whatever its SEQ (assumption 103), and brings the port to UP when it matches
what the port expects, else to HELD with the mismatch; in UP, next in order, it is kept. Memory and the arrays
are as before, that of an IDENTITY_RECORD shown with no confluence descriptor in progress.
Rests on 11_peer_links_and_collectives.md, R290, R296, R297, R303. -/
def Obligations.PortsTrainAndIdentify : Prop :=
  ∀ (p : Fin 6) (s : State),
    (portTrains s p = true →
      (∃ t, exec (.trainingDone p) s = .next t ∧ (portGet t p).st = .ident ∧ t.mem = s.mem ∧ t.arr = s.arr)
      ∧ (portUsed s p = false → ∃ t, exec (.trainingTimeout p) s = .next t
          ∧ (portGet t p).attempts = (portGet s p).attempts + 1
          ∧ (portGet t p).st = (if 3 ≤ (portGet s p).attempts + 1 then .failed else (portGet s p).st) ∧ t.mem = s.mem ∧ t.arr = s.arr)
      ∧ (portUsed s p = true → s.seq.dev = .running → hostQuiet s → 3 ≤ (portGet s p).attempts + 1 →
          ∃ t, exec (.trainingTimeout p) s = .next t ∧ (portGet t p).st = .failed ∧ t.seq.dev = .halted ∧ t.seq.haltStatus = 0x0b01
            ∧ t.mem.commits = s.mem.commits ∧ ∀ k, memByte t k = memByte s k))
    ∧ ((portGet s p).st = .up →
      (∃ t, exec (.lossOfLock p) s = .next t ∧ (portGet t p).st = .retrain ∧ t.mem = s.mem ∧ t.arr = s.arr)
      ∧ (∃ t, exec (.replayThreshold p) s = .next t ∧ (portGet t p).st = .retrain ∧ t.mem = s.mem ∧ t.arr = s.arr)
      ∧ (∀ h r, linkGood s p 1 h → ∃ t, exec (.identityRecord ⟨h, p⟩ r) s = .next t ∧ (portGet t p).nbr = some r ∧ (portGet t p).st = .up
          ∧ (portGet t p).rxSeq = h.seq ∧ (s.cfl.ops = [] → t.mem = s.mem ∧ t.arr = s.arr)))
    ∧ ((portGet s p).st = .ident → ∀ (h : FlitHdr) r, h.fecOk = true → h.crcOk = true → linkRefuses s .ngl p (portGet s p).tst 1 = false →
        ∃ t, exec (.identityRecord ⟨h, p⟩ r) s = .next t ∧ (portGet t p).nbr = some r
        ∧ (portGet t p).st = (if identMismatch s p r = 0 then .up else .held) ∧ (portGet t p).mismatch = identMismatch s p r
        ∧ (s.cfl.ops = [] → t.mem = s.mem ∧ t.arr = s.arr))

/-- ORDERLY_POWER_DOWN, OVERVOLTAGE_TRIP, UNDERVOLTAGE, HUB_STAGE_FAULT and THERMAL_TRIP with the power entry unit on: the
device and the unit are off, PWR_LAST_OFF gives the cause (1 orderly, 3 overvoltage, 2 undervoltage, 5 hub stage
fault, 4 thermal trip), no tensor, array or register content is left, and of the management processor the firmware
slots, MIN_VER, the operator key, the stored counter and the stored base image are as before. The newest entry of the
event log is the power-down record. Overvoltage and thermal trips are latched; the orderly power-down ends power-
enable. COLD_START of a device that is off, with power-enable not asserted and no trip latched, and PEU_RESTART of one
that is off by undervoltage with power-enable asserted: the device is in STANDBY, or HALTED when a vertical stage could
not start, with the power entry unit running and reset cause 0, no program and no tensor, and MIN_VER, the operator
key and the stored counter are as before. A device that is on, or held by a latched trip, stays as it is.
Rests on 13_power_delivery.md, 16_startup_and_configuration.md, R355, R357, R373, R374, R394, R425. -/
def Obligations.PowerIsLostAndComesBack : Prop :=
  (∀ (s : State) (c : Instr) (cause : Nat), s.pwr.peu ≠ .off →
    ((c = .orderlyPowerDown ∧ cause = 1) ∨ (c = .undervoltage ∧ cause = 2) ∨ (c = .overvoltageTrip ∧ cause = 3)
      ∨ (c = .thermalTrip ∧ cause = 4) ∨ (c = .hubStageFault ∧ cause = 5)) →
    ∃ t e, exec c s = .next t ∧ t.seq.dev = .off ∧ t.pwr.peu = .off ∧ t.pwr.lastOff = cause
      ∧ t.mem = {} ∧ t.arr = [] ∧ t.regs = [] ∧ t.mp.fw = s.mp.fw ∧ t.mp.minVer = s.mp.minVer ∧ t.mp.opkey = s.mp.opkey
      ∧ t.mp.counter = s.mp.counter ∧ t.mp.stored = s.mp.stored ∧ t.log.events.getLast? = some e ∧ e.kind = 1
      ∧ (cause = 3 ∨ cause = 4 → t.pwr.latched = true) ∧ (cause = 2 → t.pwr.under = true) ∧ (cause = 1 → t.pwr.enable = false))
  ∧ (∀ s : State,
    (s.seq.dev = .off → s.pwr.peu = .off → s.pwr.enable = false → s.pwr.latched = false → ∃ t, exec .coldStart s = .next t
      ∧ t.seq.dev = (if t.pwr.stage.any (fun e => e.2.fault) then .halted else .standby) ∧ t.pwr.peu = .running ∧ t.seq.resetCause = 0 ∧ t.seq.prog = none ∧ t.mem.tensors = []
      ∧ t.mp.minVer = s.mp.minVer ∧ t.mp.opkey = s.mp.opkey ∧ t.mp.counter = s.mp.counter)
    ∧ (s.pwr.peu = .off → s.pwr.under = true → s.pwr.enable = true → ∃ t, exec .peuRestart s = .next t
      ∧ t.seq.dev = (if t.pwr.stage.any (fun e => e.2.fault) then .halted else .standby) ∧ t.pwr.peu = .running ∧ t.seq.resetCause = 0 ∧ t.seq.prog = none ∧ t.mem.tensors = []
      ∧ t.mp.minVer = s.mp.minVer ∧ t.mp.opkey = s.mp.opkey ∧ t.mp.counter = s.mp.counter)
    ∧ (s.seq.dev ≠ .off ∨ s.pwr.latched = true → exec .coldStart s = .next s)
    ∧ (s.pwr.peu ≠ .off → exec .peuRestart s = .next s))

/-- With the device on: RIDE_THROUGH counts one; INPUT_HIGH from 840 V to 900 V counts its microseconds and marks
the input high; INPUT_LOW from 720 V to below 760 V counts its microseconds and marks the input low. STAGE_FAULT of a
tile without one, with the host side quiet, marks the stage and halts the device with POWER_FAULT (0x0302).
VS_PHASE_FAIL of a phase that worked, with at least nine phases of the stage working before, marks the phase and
leaves the device in its state.
Rests on 13_power_delivery.md, R355, R359, R360. -/
def Obligations.InputAndStageFaults : Prop :=
  ∀ s : State, s.seq.dev ≠ .off →
    (∃ t, exec .rideThrough s = .next t ∧ ctrGet t .pwrM 0 0xc00 = ctrGet s .pwrM 0 0xc00 + 1 ∧ t.mem = s.mem)
    ∧ (∀ dv us, 8400 ≤ dv → dv ≤ 9000 → ∃ t, exec (.inputHigh dv us) s = .next t ∧ t.pwr.inHigh = true
        ∧ ctrGet t .pwrM 0 0xc10 = ctrGet s .pwrM 0 0xc10 + BitVec.ofNat 64 us ∧ t.mem = s.mem)
    ∧ (∀ dv us, 7200 ≤ dv → dv < 7600 → ∃ t, exec (.inputLow dv us) s = .next t ∧ t.pwr.inLow = true
        ∧ ctrGet t .pwrM 0 0xc08 = ctrGet s .pwrM 0 0xc08 + BitVec.ofNat 64 us ∧ t.mem = s.mem)
    ∧ (hostQuiet s → ∀ t4 : Fin 4, (stageGet s t4).fault = false →
        (∃ t, exec (.stageFault t4) s = .next t ∧ t.seq.dev = .halted ∧ t.seq.haltStatus = 0x0302 ∧ (stageGet t t4).fault = true)
        ∧ ∀ ph : Fin 16, (stageGet s t4).fail.getLsbD ph = false →
            9 ≤ (List.range 16).countP (fun i => !(stageGet s t4).fail.getLsbD i) →
            ∃ t, exec (.vsPhaseFail t4 ph) s = .next t ∧ (stageGet t t4).fail = (stageGet s t4).fail ||| (1 <<< ph.val)
              ∧ t.seq.dev = s.seq.dev ∧ t.mem = s.mem)

/-- With the device on and the host side quiet. PHASE_FAIL of a phase that worked, CONTROLLER_FAIL of a controller that
worked on an array that is not dark: the failure is remembered, and an array without supply and without a ramp is dark
at once. Outside SAFE: CREDIT_GRANT to the first domain of its tile that may have a credit takes it from waiting to
pre-charge; LEHR_STAGE_DONE takes a domain from stage 2 to 3 and from 3 to 4, and at the end of stage 4 an array without
a slot is idle with its stores empty and the registers of its latest events as before; NBR_CAP of a waiting domain lowers the eddy level of each neighbour that blocks it
to the highest level within the PWR_NBR_LIMIT of its request.
Rests on 13_power_delivery.md, R364, R366, R369, R370, R371. -/
def Obligations.RegulatorsFailAndDomainsRamp : Prop :=
  ∀ (a : Fin 768) (s : State), s.seq.dev ≠ .off → hostQuiet s →
    (∀ ph : Fin 6, (reguGet s a).fail.getLsbD ph = false →
      ∃ t, exec (.phaseFail a ph) s = .next t ∧ (reguGet t a).fail = (reguGet s a).fail ||| (1 <<< ph.val))
    ∧ ((reguGet s a).ctrlFail = false → (arrGet s a).st ≠ .dark → ∃ t, exec (.controllerFail a) s = .next t
        ∧ (reguGet t a).ctrlFail = true
        ∧ ((reguGet s a).hosts = none → (reguGet s a).ramp = none → powered (arrGet s a).st = false → (arrGet t a).st = .dark))
    ∧ (s.seq.dev ≠ .safe →
        (∀ ns, creditOk s a = true → (∀ k, k < a % 192 → creditOk s (tileOf a * 192 + k) = false) →
          ∃ t, exec (.creditGrant a ns) s = .next t ∧ (reguGet t a).ramp = some 2 ∧ t.arr = s.arr ∧ t.mem = s.mem)
        ∧ ((reguGet s a).ramp = some 2 → ∃ t, exec (.lehrStageDone a) s = .next t ∧ (reguGet t a).ramp = some 3 ∧ t.arr = s.arr)
        ∧ ((reguGet s a).ramp = some 3 → ∃ t, exec (.lehrStageDone a) s = .next t ∧ (reguGet t a).ramp = some 4 ∧ t.arr = s.arr)
        ∧ ((reguGet s a).ramp = some 4 → (arrGet s a).slot = none → ∃ t, exec (.lehrStageDone a) s = .next t
            ∧ (reguGet t a).ramp = none ∧ arrGet t a = { arrShell (arrGet s a) with st := .idle, excl := (arrGet s a).excl })
        ∧ ((reguGet s a).ramp = some 1 → ∃ t, exec (.nbrCap a) s = .next t ∧ t.mem = s.mem ∧ t.pwr = s.pwr
            ∧ ∀ b, arrGet t b = if b ∈ adjacent a ∧ nbrBlocks s a b = true then
                { arrGet s b with eddy := ((reguGet s a).nbrLimit * 4096 - 3840000) / 300000 } else arrGet s b))

/-- With the device on. CAP_LOOP_TICK: THM_CAP_INPUT follows the input voltage, THM_CAP_NOW is the lowest of 4000 W, the
driver cap, the thermal cap and the input cap, and F_CAP falls by 25 MHz, not below 100, when the 10 µs average is above
it. F_CAP_RAISE: F_CAP rises by 25 MHz, not above the mode limit, when 100 times the average lies below 98 times the
cap, memory runs at its full rate and no junction of the hub holds F_CAP. MEMORY_LIMIT_TICK: the memory limit falls by
one, not below 4, when the average is above the cap and F_CAP is at 100 MHz; it rises by one, not above 16, when the
average lies below 98 % of the cap. With the device on. JUNCTION_CEILING of a tile lowers the tile's ceiling by 25 MHz,
not below 100, from 95.0 °C on, raises it by 25 MHz, not above 1850, below 93.0 °C, and leaves it between them; that of
the hub lowers F_CAP from 95.0 °C on, and below 93.0 °C raises it when the hub lowered it and the cap did not. (The
hub's hold on F_CAP and its rise below 93.0 °C are assumption 43, the memory limit's rise below 98 % is assumption 44.)
BOOST_TICK of an array raises its boost by 25 MHz, not above 250, while every condition of boost holds, and else lowers
it by 25 MHz, not below 0.
Rests on 13_power_delivery.md, 14_power_and_thermal_control.md, R366, R378, R379, R380, R381, R383. -/
def Obligations.ClocksFollowCapAndHeat : Prop :=
  (∀ s : State, s.seq.dev ≠ .off →
    (∀ pin vin, ∃ t, exec (.capLoopTick pin vin) s = .next t ∧ t.mem = s.mem
      ∧ thmNat t 0x10c = (if 7200 ≤ vin ∧ vin < 7600 then vin * 55 / 100 else 0xffff)
      ∧ thmNat t 0x104 = min (min 4000 s.thm.capDrv) (min (thmNat s 0x108) (if 7200 ≤ vin ∧ vin < 7600 then vin * 55 / 100 else 0xffff))
      ∧ thmNat t 0x13c = if thmNat t 0x104 < pin then max 100 (thmNat s 0x13c - 25) else thmNat s 0x13c)
    ∧ (∀ pin, ∃ t, exec (.fCapRaise pin) s = .next t ∧ t.mem = s.mem ∧ t.arr = s.arr
      ∧ thmNat t 0x13c = if pin * 100 < 98 * capForce s ∧ thmNat s 0x14c = 16 ∧ s.thm.hubHot = false then min (modeLimit s) (thmNat s 0x13c + 25)
          else thmNat s 0x13c)
    ∧ (∀ pin, ∃ t, exec (.memoryLimitTick pin) s = .next t ∧ t.mem = s.mem ∧ t.arr = s.arr
      ∧ thmNat t 0x14c = if capForce s < pin ∧ thmNat s 0x13c = 100 then max 4 (thmNat s 0x14c - 1)
          else if pin * 100 < 98 * capForce s then min 16 (thmNat s 0x14c + 1) else thmNat s 0x14c))
  ∧ (∀ s : State, s.seq.dev ≠ .off →
    (∀ (t4 : Fin 5) (tj : Nat), t4.val < 4 → ∃ t, exec (.junctionCeiling t4 tj) s = .next t ∧ t.mem = s.mem ∧ t.arr = s.arr
      ∧ (stageGet t t4).junc = if 950 ≤ tj then max 100 ((stageGet s t4).junc - 25)
          else if tj < 930 then min 1850 ((stageGet s t4).junc + 25) else (stageGet s t4).junc)
    ∧ (∀ tj, ∃ t, exec (.junctionCeiling 4 tj) s = .next t ∧ t.mem = s.mem ∧ t.arr = s.arr
      ∧ thmNat t 0x13c = if 950 ≤ tj then max 100 (thmNat s 0x13c - 25)
          else if tj < 930 ∧ s.thm.hubLow = true ∧ s.thm.capLow = false then min (modeLimit s) (thmNat s 0x13c + 25)
          else thmNat s 0x13c)
    ∧ (∀ (a : Fin 768) (pin tj : Nat), ∃ t, exec (.boostTick a pin tj) s = .next t ∧ t.mem = s.mem ∧ t.arr = s.arr
      ∧ (reguGet t a).boost = if s.thm.fixedNow = false ∧ pin + 300 ≤ capForce s ∧ tj ≤ 850 ∧ phasesW (reguGet s a) = 6
            ∧ (reguGet s a).tiedTo = none ∧ (reguGet s a).hosts = none ∧ arrRuns s a = true then min 250 ((reguGet s a).boost + 25)
          else (reguGet s a).boost - 25))

/-- With the device on. SIDEBAND_READ: the inlet, outlet and flow readings stand in their registers, an inlet below 17
°C or above 45 °C sets INLET_RANGE, and an estimate between 0.002 and 0.2 °C/W stays there. SENSOR_FAULT: the sensor is
in fault, and with the outlet or the flow sensor in fault the thermal cap is at most 2000 W. Memory and the arrays are
as before.
Rests on 14_power_and_thermal_control.md, R389, R390. -/
def Obligations.SensorsAreRead : Prop :=
  ∀ s : State, s.seq.dev ≠ .off →
    (∀ r : Sideband, 2 / 1000 ≤ s.thm.theta → s.thm.theta ≤ 200 / 1000 → ∃ t, exec (.sidebandRead r) s = .next t
      ∧ thmNat t 0x12c = reading r.inlet ∧ thmNat t 0x130 = reading r.outlet ∧ thmNat t 0x134 = min r.flow 0xffff
      ∧ (r.inlet < 170 ∨ 450 < r.inlet → (pgGet t .thm 0 0x10).getLsbD 4 = true)
      ∧ 2 / 1000 ≤ t.thm.theta ∧ t.thm.theta ≤ 200 / 1000 ∧ t.mem = s.mem ∧ t.arr = s.arr)
    ∧ (∀ k : Sensor, ∃ t, exec (.sensorFault k) s = .next t ∧ t.mem = s.mem ∧ t.arr = s.arr
      ∧ (k = .inlet → t.thm.faultIn = true) ∧ (k = .outlet → t.thm.faultOut = true) ∧ (k = .flow → t.thm.faultFlow = true)
      ∧ (k ≠ .inlet → thmNat t 0x108 ≤ 2000))

/-- With the host side quiet, FLOW (a reading below 40 and no flow fault), OUTLET (no outlet fault), JUNCTION and
CAP_FLOOR (the thermal or the input cap below 1000 W): from READY, LOADED, RUNNING, PAUSED or HALTED the device enters
SAFE with that cause and status THERMAL_SAFE (0x0301), remembers the state it came from, and every powered array is at
retention. SAFE_EXIT in SAFE with no PAUSE waiting, flow and outlet sensors sound, a flow reading of at least 200 and a
junction of at most 70.0 °C: the device is HALTED when it came from RUNNING, else in the state that it came from.
Rests on 14_power_and_thermal_control.md, R391, R392, R393. -/
def Obligations.SafeIsEnteredAndLeft : Prop :=
  ∀ s : State, hostQuiet s →
    (∀ (c : Instr) (cause : Nat),
      ((c = .flow ∧ cause = 1 ∧ s.thm.faultFlow = false ∧ thmNat s 0x134 < 40) ∨ (c = .outlet ∧ cause = 2 ∧ s.thm.faultOut = false)
        ∨ (c = .junction ∧ cause = 3) ∨ (c = .capFloor ∧ cause = 4 ∧ (thmNat s 0x108 < 1000 ∨ thmNat s 0x10c < 1000))) →
      (s.seq.dev = .ready ∨ s.seq.dev = .loaded ∨ s.seq.dev = .running ∨ s.seq.dev = .paused ∨ s.seq.dev = .halted) →
      ∃ t, exec c s = .next t ∧ t.seq.dev = .safe ∧ t.seq.safeFrom = s.seq.dev ∧ t.seq.haltStatus = 0x0301 ∧ t.thm.cause = cause
        ∧ t.mem = s.mem ∧ ∀ a, powered (arrGet s a).st = true → (arrGet t a).st = .retention)
    ∧ (s.seq.dev = .safe → s.seq.pause = [] → s.thm.faultFlow = false → s.thm.faultOut = false → 200 ≤ thmNat s 0x134 →
        thmNat s 0x138 % 2 ^ 16 ≤ 700 →
        ∃ t, exec .safeExit s = .next t ∧ t.thm.cause = 0 ∧ t.mem = s.mem
          ∧ t.seq.dev = if s.seq.safeFrom = .running then .halted else s.seq.safeFrom)

/-- SCRUB of a data row of a fitted stack in operation with SCRUB_EN = 1 and no error injection (TST_ECC_INJ). With fewer
than two corrected errors in the scrub period and none that could not be corrected: the scrub and the corrected errors are
counted, the row keeps its failures and its spare, its corrected errors start again at zero (assumption 17), every byte of
memory is as before, and so is every register unless TST_REF_CTRL asks for refreshes (assumption 131).
With an uncorrectable error on a row that has not failed before, while its pseudo-channel has a free primary row of its
bank or bank group: the row has failed once and takes such a row, which was free and is so no longer. A read of a tensor
that meets fewer than two corrected errors of a row of it in the scrub period: they stay counted for the row.
Rests on 08_hbm_cache_placement.md, R218, R219, R220. -/
def Obligations.RowsAreScrubbedAndRemapped : Prop :=
  ∀ (k : Fin 12) (pch : Fin 32) (bank : Byte) (row : Word) (n : Nat) (s : State) (r : RowFail) (key : Nat),
    key = rowKey pch bank.toNat row.toNat → r = aget (fun _ => {}) (hbmGet s k).rows key → rowData s bank.toNat row.toNat = true →
    (pgGet s .hbm k 8).getLsbD 0 = true → (pgGet s .hbm k 0x088).getLsbD 0 = false → s.fit.hbmFitted.contains k.val = true → (hbmGet s k).st = .operating →
    (r.ce + n < 2 → ∃ t, exec (.scrub k pch bank row n false) s = .next t
      ∧ ctrGet t .hbm k 0xc50 = ctrGet s .hbm k 0xc50 + 1 ∧ ctrGet t .hbm k 0xc28 = ctrGet s .hbm k 0xc28 + BitVec.ofNat 64 n
      ∧ aget (fun _ => {}) (hbmGet t k).rows key = { r with ce := 0 }
      ∧ t.mem.bytes = s.mem.bytes ∧ t.mem.work = s.mem.work ∧ t.arr = s.arr
      ∧ ((pgGet s .hbm k 0x080).toNat % 8 = 0 → t.regs = s.regs))
    ∧ (∀ m, r.count = 0 → pickSpare s k pch bank.toNat 1 = some m →
        ∃ t, exec (.scrub k pch bank row n true) s = .next t ∧ t.mem.bytes = s.mem.bytes ∧ t.arr = s.arr
          ∧ aget (fun _ => {}) (hbmGet t k).rows key = { count := 1, pool := 1, spare := m, ce := 0 }
          ∧ bankGroup s (poolBank s 1 m) = bankGroup s bank.toNat ∧ m < primRows ∧ m ∉ poolUsed (hbmGet s k) 1 pch
          ∧ poolUsed (hbmGet t k) 1 pch = poolUsed (hbmGet s k) 1 pch ++ [m])
    ∧ (∀ h : Nat, r.ce + n < 2 → rowRead s h (RowErr.mk k pch bank row n false) = true →
        ctrGet (readRow h s (RowErr.mk k pch bank row n false)) .hbm k 0xc28 = ctrGet s .hbm k 0xc28 + BitVec.ofNat 64 n
        ∧ aget (fun _ => {}) (hbmGet (readRow h s (RowErr.mk k pch bank row n false)) k).rows key = { r with ce := r.ce + n })

/-- MIGRATION_SWITCH of a migration in progress that moves one version of a page of an allocated tensor: that version
lies at the destination and the other where it was, one migration is counted, the migration is over (shown with MIG_EN
0), and every byte of the tensors is as before. HBM_MARGIN_GO with bit 0 in READY, with test access to the memory and a
margin mode set, on a fitted stack in operation: the stack is margining with no errors and not done. MARGIN_DONE on a
margining stack: it is in operation again, DONE, with the bit errors up to 65535; on any other stack nothing changes.
Rests on 08_hbm_cache_placement.md, R204, R225. -/
def Obligations.PagesSwitchAndMarginsEnd : Prop :=
  ∀ s : State,
    (∀ (h : BitVec 24) (page : Nat) (ver : Bool) (g : Mig) (tn : Tensor),
      s.mem.migs.find? (fun g => g.handle == h.toNat && g.page == page && g.ver == ver) = some g → tensorOf s h.toNat = some tn →
      g.dst2 = none → ∃ t pg, exec (.migrationSwitch h page ver) s = .next t
        ∧ tensorOf t h.toNat = some { tn with pages := tn.pages.set page pg } ∧ pg.stack = g.dstStack
        ∧ (ver = true → pg.widx = g.dst ∧ pg.idx = (tn.pages.getD page {}).idx)
        ∧ (ver = false → pg.idx = g.dst ∧ pg.widx = (tn.pages.getD page {}).widx)
        ∧ ((pgGet s .plc 0 8).getLsbD 0 = false → t.mem.migs = s.mem.migs.erase g) ∧ ctrGet t .plc 0 0xc10 = ctrGet s .plc 0 0xc10 + 1
        ∧ t.mem.bytes = s.mem.bytes ∧ t.mem.work = s.mem.work ∧ t.arr = s.arr)
    ∧ (∀ (r : Requester) (k : Fin 12) (v : Word), regReaches s .hbm k 0x110 → v.getLsbD 0 = true →
        (pgGet s .sec 0 0x124).getLsbD 4 = true → s.seq.dev = .ready → (hbmGet s k).st = .operating →
        (pgGet s .hbm k 0x10c).toNat % 4 ≠ 0 → ∃ t, exec (.hbmMarginGo r k v) s = .next t
          ∧ (hbmGet t k).st = .margining ∧ (hbmGet t k).marginErr = 0 ∧ (hbmGet t k).marginDone = false
          ∧ t.mem.bytes = s.mem.bytes ∧ t.arr = s.arr ∧ t.regs = s.regs)
    ∧ (∀ (k : Fin 12) (n : Nat),
        ((hbmGet s k).st = .margining → ∃ t, exec (.marginDone k n) s = .next t ∧ (hbmGet t k).st = .operating
          ∧ (hbmGet t k).marginErr = min n 0xffff ∧ (hbmGet t k).marginDone = true ∧ t.mem.bytes = s.mem.bytes ∧ t.arr = s.arr)
        ∧ ((hbmGet s k).st ≠ .margining → exec (.marginDone k n) s = .next s))

/-- LOG_WRITE of the oldest event that waits (that events wait and are written one by one is assumption 111), with
firmware running, no request to serve and no overload: the event is the newest of the log under the next sequence number, which rises by one, and waits no longer. DELAYED_LOG_WRITE with an
entry kept on chip and room in the record region: the oldest kept entry becomes the newest record, marked DELAYED.
COMPACTION with firmware running and neither a request to serve nor an event that waits: of the records exactly the REMAP
entries that a later REMAP of the same row supersedes are gone. Memory, the arrays, the registers and the device state
are as before.
Rests on 08_hbm_cache_placement.md, 15_management_and_security.md, 18_errors_and_test.md, R223, R400, R465, R469. -/
def Obligations.TheLogIsWritten : Prop :=
  ∀ s : State,
    (∀ (k : Byte) e rest, s.log.todo = e :: rest → e.kind = k.toNat → mpRuns s = true → mailWork s = false → s.mp.overloaded = false →
      ∃ t, exec (.logWrite k e.source e.status e.payload) s = .next t ∧ t.log.events.getLast? = some { e with seq := s.log.next } ∧ t.log.next = s.log.next + 1
        ∧ t.log.todo = rest ∧ t.log.records = s.log.records ∧ t.mem = s.mem ∧ t.arr = s.arr ∧ t.regs = s.regs ∧ t.seq = s.seq)
    ∧ (∀ e rest, s.log.kept = e :: rest → s.log.records.length < recordMax → ∃ t, exec .delayedLogWrite s = .next t
        ∧ t.log.records = s.log.records ++ [{ e with flags := e.flags ||| 4 }] ∧ t.log.kept = rest ∧ t.log.events = s.log.events
        ∧ t.mem = s.mem ∧ t.arr = s.arr ∧ t.regs = s.regs ∧ t.seq = s.seq)
    ∧ (mpRuns s = true → mailWork s = false → s.log.todo = [] →
        ∃ t, exec .compaction s = .next t ∧ t.log.events = s.log.events ∧ t.mem = s.mem ∧ t.arr = s.arr ∧ t.regs = s.regs ∧ t.seq = s.seq
        ∧ ∀ e, e ∈ t.log.records ↔ e ∈ s.log.records ∧
            ¬ (e.kind = 6 ∧ ∃ f ∈ s.log.records, f.kind = 6 ∧ e.seq < f.seq ∧ remapRow f = remapRow e))

/-- With the device on and the management processor running. UTIL_WINDOW u: the utilization reads u; from 95 on the
processor is overloaded and a telemetry period below 64 ms doubles, up to 64, in the window that enters overload too
(assumption 58); while it is overloaded a window of at
most 50 halves the period, not below 1 ms, and ten of them in a row end the overload. TELEMETRY_SAMPLE with no request
to serve and no event to log: the newest sample of the ring has 16 bytes, which from byte 4 on hold the inlet, the
outlet, the flow, the input power, the junction, the period and the state code, and the ring holds at most 4096.
MIN_VER_RAISE: MIN_VER, which counts as 0 while its record fails its signature, rises to the running image's value when
that is higher, in a record that reads well, and an event of it waits for the log (assumption 111); else nothing
changes. MP_WATCHDOG: the count and the total of watchdog resets rise by one, the
reset cause is 2 and the test scope is 0, while the device state, the program, memory and the arrays are as before.
Rests on 15_management_and_security.md, R400, R402, R403, R414. -/
def Obligations.TheManagementProcessorKeepsTime : Prop :=
  ∀ s : State, hostQuiet s → s.seq.dev ≠ .off → s.mp.started = true →
    (∀ u : BitVec 7, ∃ t, exec (.utilWindow u) s = .next t ∧ t.mp.util = u.toNat ∧ t.mem = s.mem ∧ t.arr = s.arr ∧ t.seq = s.seq
      ∧ (95 ≤ u.toNat → t.mp.overloaded = true ∧ ((pgGet s .mbx 0 0x124).toNat < 64 →
          (pgGet t .mbx 0 0x124).toNat = min 64 (2 * (pgGet s .mbx 0 0x124).toNat)))
      ∧ (u.toNat ≤ 50 → s.mp.overloaded = true → (pgGet t .mbx 0 0x124).toNat = max 1 ((pgGet s .mbx 0 0x124).toNat / 2)
          ∧ t.mp.overloaded = decide (s.mp.low + 1 < 10))
      ∧ (50 < u.toNat → u.toNat < 95 → t.mp.overloaded = s.mp.overloaded ∧ t.regs = s.regs))
    ∧ (mailWork s = false → s.log.todo = [] → ∃ t x, exec .telemetrySample s = .next t ∧ t.mp.ring.getLast? = some x ∧ x.length = 16 ∧ t.mp.ring.length ≤ 4096
        ∧ x.drop 4 = leBytes 2 (thmNat s 0x12c) ++ leBytes 2 (thmNat s 0x130) ++ leBytes 2 (thmNat s 0x134)
            ++ leBytes 2 (pgGet s .pwrM 0 0x10c).toNat ++ leBytes 2 (thmNat s 0x138 % 2 ^ 16)
            ++ leBytes 1 (pgGet s .mbx 0 0x124).toNat ++ leBytes 1 (devCode s.seq.dev)
        ∧ t.mem = s.mem ∧ t.arr = s.arr ∧ t.regs = s.regs ∧ t.seq = s.seq)
    ∧ (∃ t, exec .minVerRaise s = .next t ∧ (minVerNow s.mp < (fwSlot s s.mp.slot).minAfter →
          t.mp = { s.mp with minVer := (fwSlot s s.mp.slot).minAfter, minBad := false } ∧ t.log.todo.length = s.log.todo.length + 1
          ∧ t.mem = s.mem ∧ t.arr = s.arr ∧ t.regs = s.regs ∧ t.seq = s.seq)
        ∧ ((fwSlot s s.mp.slot).minAfter ≤ minVerNow s.mp → t = s))
    ∧ (∃ t, exec .mpWatchdog s = .next t ∧ ctrGet t .mbx 0 0xc38 = ctrGet s .mbx 0 0xc38 + 1
        ∧ (pgGet t .mbx 0 0x130).toNat = min 0xffffffff ((pgGet s .mbx 0 0x130).toNat + 1) ∧ pgGet t .sec 0 0x124 = 0
        ∧ t.seq = { s.seq with resetCause := 2 } ∧ t.mp.overloaded = false ∧ t.mp.minVer = s.mp.minVer ∧ t.mp.counter = s.mp.counter
        ∧ t.mem = s.mem ∧ t.arr = s.arr)

/-- With the device on, the management processor running, the channel of the request empty and nothing else waiting on
the host side, INFO, LOG_READ, TEL_READ, MP_STATUS and TEST_DISABLE complete: the request is answered on its channel
with OK and the response of Table 15.4: INFO with its 40 bytes, LOG_READ with the entries from the first index on,
TEL_READ with the index of its first sample and the samples, MP_STATUS with its 16 bytes. A COUNT above 256 or 4096 is
answered with LENGTH_RANGE and no entries. MP_STATUS on channel 1 or 2, which does not accept it, is answered with
FIELD_RESERVED, and on a secure channel, where it is no verified envelope, with AUTH_REQUIRED, which is counted. Memory,
the arrays, the registers and the device state are as before, those of an AUTH_REQUIRED apart: its interrupt is noted.
TEST_DISABLE is answered with OK, and the test scope is 0.
Rests on 15_management_and_security.md, 18_errors_and_test.md, R404, R405, R408, R410, R421, R468. -/
def Obligations.RequestsAreAnswered : Prop :=
  ∀ (tag : Half) (first : Word) (count : Half) (s : State),
    (mpServes s 0 → ∃ t, exec (.info tag) s = .next t ∧ (chanGet t 0).out = respMsgs 1 tag stOK (infoBytes s)
      ∧ (infoBytes s).length = 40 ∧ t.mem = s.mem ∧ t.arr = s.arr ∧ t.regs = s.regs ∧ t.seq = s.seq)
    ∧ (mpServes s 1 → ∃ t, exec (.logRead tag first count) s = .next t ∧ (chanGet t 1).out =
        (if 256 < count.toNat then respMsgs 2 tag stLen [] else
          respMsgs 2 tag stOK ((logEntries s first.toNat count.toNat).flatMap entryBytes))
      ∧ t.mem = s.mem ∧ t.arr = s.arr ∧ t.regs = s.regs ∧ t.seq = s.seq)
    ∧ (mpServes s 2 → ∃ t, exec (.telRead tag first count) s = .next t ∧ (chanGet t 2).out =
        (if 4096 < count.toNat then respMsgs 3 tag stLen [] else
          respMsgs 3 tag stOK (leBytes 4 (max first.toNat s.mp.ringBase)
            ++ ((s.mp.ring.drop (max first.toNat s.mp.ringBase - s.mp.ringBase)).take count.toNat).flatten))
      ∧ t.mem = s.mem ∧ t.arr = s.arr ∧ t.regs = s.regs ∧ t.seq = s.seq)
    ∧ (∀ c : Fin 8, mpServes s c → ∃ t, exec (.mpStatus c tag) s = .next t ∧ (chanGet t c).out =
        (if c.val = 0 ∨ c.val = 3 then respMsgs 4 tag stOK (mpStatusBytes s)
         else if c.val < 4 then respMsgs 4 tag stField [] else respMsgs 4 tag stAuth [])
      ∧ (mpStatusBytes s).length = 16 ∧ t.mem = s.mem ∧ t.arr = s.arr ∧ t.seq.dev = s.seq.dev
      ∧ (c.val < 4 → t.regs = s.regs ∧ t.seq = s.seq)
      ∧ ctrGet t .sec 0 0xc08 = ctrGet s .sec 0 0xc08 + (if 4 ≤ c.val then 1 else 0))
    ∧ (mpServes s 3 → ∃ t, exec (.testDisable tag) s = .next t ∧ (chanGet t 3).out = respMsgs 5 tag stOK []
      ∧ pgGet t .sec 0 0x124 = 0 ∧ t.mem = s.mem ∧ t.arr = s.arr ∧ t.seq = s.seq)

/-- An envelope served on its channel, with its own command and a signature of 4627 bytes. When it passes the checks of
R410: ENROLL makes its payload the operator key, RELEASE leaves no key, TEST_ENABLE puts its scope in force, ATTEST
answers with the quote over the nonce and its signature unless an identity fault is present, and FW_UPDATE of an image
that passes R415, with no log entry kept on chip (R469), puts the image into the slot that does not run and marks that
slot pending; each of them commits the envelope's counter. When it fails a check, or carries a counter at or below the stored one, key, counter, firmware
slots and test scope are as before and the answer carries the first failing status. An envelope with a counter at or
below the stored one fails. What the signature checks decide is left open (assumption 10).
Rests on 15_management_and_security.md, R410, R411, R412, R415, R420, R421. -/
def Obligations.EnvelopesActOnceAndCommitTheirCounter : Prop :=
  ∀ (tag : Half) (e : Envelope) (s : State) (c : Instr) (ch cmd : Nat),
    ((c = .enroll tag e ∧ ch = 4 ∧ cmd = 0x01) ∨ (c = .release tag e ∧ ch = 4 ∧ cmd = 0x02) ∨ (c = .fwUpdate tag e ∧ ch = 5 ∧ cmd = 0x10)
      ∨ (c = .attest tag e ∧ ch = 6 ∧ cmd = 0x20) ∨ (c = .testEnable tag e ∧ ch = 7 ∧ cmd = 0x30)) →
    mpServes s ch → e.cmd.toNat = cmd → e.sig.length = 4627 →
    ∀ more, more = (if cmd = 0x10 then fwUpdateCheck e s else []) →
    ((envCheck s cmd e more).1 = stOK → ∃ t, exec c s = .next t ∧ t.mem = s.mem ∧ t.arr = s.arr ∧ t.seq = s.seq
      ∧ (cmd = 0x01 → t.mp.opkey = some e.payload ∧ t.mp.counter = e.counter ∧ (chanGet t ch).out = respMsgs cmd tag stOK [])
      ∧ (cmd = 0x02 → t.mp.opkey = none ∧ t.mp.counter = e.counter ∧ (chanGet t ch).out = respMsgs cmd tag stOK [])
      ∧ (cmd = 0x10 → ∀ x bs, x = fwExtent e → x.len ≠ 0 → bs = tensorBytes s x.h x.off x.len → s.log.kept = [] →
          sha3_512 bs = (e.payload.drop 20).take 64 → fwImageOk bs = true → minVerNow s.mp ≤ leNat ((bs.drop 4).take 4) →
          t.mp.pendSlot = some (if s.mp.slot = 0 then 1 else 0) ∧ t.mp.counter = e.counter
          ∧ t.mp.fw = s.mp.fw.set (if s.mp.slot = 0 then 1 else 0)
              { image := bs, sigOk := true, version := leNat ((bs.drop 4).take 4), minAfter := leNat ((bs.drop 8).take 4) })
      ∧ (cmd = 0x20 → (s.mp.idFault = false → t.mp.counter = e.counter ∧ (chanGet t ch).out = respMsgs cmd tag stOK
            (quoteBody s e.payload ++ padTo 4627 (Config.mldsaSign (devSeed s) (sha3_512 (quoteBody s e.payload)) [])))
          ∧ (s.mp.idFault = true → t.mp.counter = s.mp.counter ∧ (chanGet t ch).out = respMsgs cmd tag stIdFault []))
      ∧ (cmd = 0x30 → pgGet t .sec 0 0x124 = BitVec.ofNat 32 (leNat e.payload) ∧ t.mp.counter = e.counter
          ∧ (chanGet t ch).out = respMsgs cmd tag stOK []))
    ∧ ((envCheck s cmd e more).1 ≠ stOK → ∃ t, exec c s = .next t ∧ t.mp.opkey = s.mp.opkey ∧ t.mp.counter = s.mp.counter
      ∧ t.mp.fw = s.mp.fw ∧ t.mp.pendSlot = s.mp.pendSlot ∧ pgGet t .sec 0 0x124 = pgGet s .sec 0 0x124 ∧ t.mem = s.mem ∧ t.arr = s.arr
      ∧ (chanGet t ch).out = respMsgs cmd tag (envCheck s cmd e more).1 [])
    ∧ (e.counter ≤ s.mp.counter → (envCheck s cmd e more).1 ≠ stOK)

/-- SYNC on an open port with the device's VID and a header in order, which names one of the device's own addresses, with
nothing waiting on the host side. From the address in force, or while HST_HOST_IP is zero from a link-local address to
the device's link-local address: the host is synchronized and reachable on the port that it named, its address is in force, no completion is kept any longer, and
the first SEQ expected of the host is 1; a SYNC leaves in reply when the control priority is not paused and the address
stands in the neighbour cache, and else waits. From any other address, or with a header that is not in order, nothing
changes but the count of dropped frames, beside those of its codewords; of another VID, and where the FEC could not
decode it, nothing changes but the counts of codewords (that a frame of another VID is counted nowhere else is
assumption 110). Memory, the arrays and the device state are as before.
Rests on 12_host_interface.md, 16_startup_and_configuration.md, R330, R332, R335, R336, R337, R353, R435. -/
def Obligations.TheHostSynchronizes : Prop :=
  ∀ (h : HctHdr) (s : State), hostQuiet s →
    (ethFits s h.toEthHdr → headerOk s h (some 0) = true →
      ((s.hst.hostIp = h.src ∧ h.src ≠ 0) ∨ (regIp s 0x110 = 0 ∧ isLinkLocal h.src = true ∧ h.dst = linkLocal s) →
        ∃ t, exec (.sync h.toPktHdr h.toDgramHdr) s = .next t ∧ t.hst.synced = true ∧ t.hst.unreachable = false ∧ t.hst.hostPort = h.port
          ∧ t.hst.hostIp = h.src ∧ t.hst.kept = [] ∧ t.hst.host.rxSeq = 0 ∧ t.mem = s.mem ∧ t.arr = s.arr ∧ t.seq = s.seq
          ∧ (prioOpen s false = true → cached s h.src = true →
              t.hst.syncDue = false ∧ ∃ x, .sync x ∈ t.wire ∧ x.dst = h.src ∧ x.dport = h.port)
          ∧ (prioOpen s false = false ∨ cached s h.src = false → t.hst.syncDue = true))
      ∧ (s.hst.hostIp ≠ h.src ∨ h.src = 0 → regIp s 0x110 ≠ 0 ∨ isLinkLocal h.src = false ∨ h.dst ≠ linkLocal s →
          exec (.sync h.toPktHdr h.toDgramHdr) s = .next (dropFrame (fecCount .hst 0 0xc30 h.toFecRx s))))
    ∧ (ethFits s h.toEthHdr → headerOk s h (some 0) = false →
        exec (.sync h.toPktHdr h.toDgramHdr) s = .next (dropFrame (fecCount .hst 0 0xc30 h.toFecRx s)))
    ∧ (portOpen s = true → h.fecOk = false ∨ h.vid ≠ (ethTag s false).vid →
        exec (.sync h.toPktHdr h.toDgramHdr) s = .next (fecCount .hst 0 0xc30 h.toFecRx s))

/-- ACK of a synchronized host, in order by R335, with nothing waiting to leave to it and no channel waiting: exactly the
frames that it names, by its number or by its bitmap (assumption 60), are no longer kept for a resend. RESEND_TIMEOUT of an
unacknowledged frame of the host whose priority is not paused, on a link in UP: the frame leaves again with its SEQ and
its count of resends rises by one; at the sixteenth resend of a frame that is not of a mailbox the host becomes
unreachable. ACK_DELAY with frames received since the latest acknowledgement, the control priority not paused, the
peer's address in the neighbour cache and no reply to a SYNC waiting: an ACK of the highest SEQ in order leaves with
the bitmap of those held above it, and no frame counts as unacknowledged. Memory, the arrays and the device state are
as before. With the device on and the host synchronized and reachable. COMPLETION: the entries gathered leave in their
order in frames of up to 64, and none is left. INTERRUPT: of the pending pages those whose INT_STAT is still nonzero
leave in the order of their offsets with it, in frames of up to 64, and no page is pending any longer. The frames for
the host before are still there, in front; memory, the arrays, the registers and the device state are as before.
Rests on 12_host_interface.md, 17_register_directory.md, R330, R332, R335, R336, R337, R340, R454, R456. -/
def Obligations.ResendsAndGatheredEntriesLeave : Prop :=
  (∀ s : State, portOpen s = true → hostQuiet s →
    (∀ (h : HctHdr) (m : BitVec 64), ethFits s h.toEthHdr → headerOk s h (some 0) = true → acceptedFrom s h.src h.port = some .host →
      s.hst.host.txq = [] → (∀ c, (chanGet s c).outWait = false) →
      ∃ t, exec (.ack h.toPktHdr h.toDgramHdr m) s = .next t ∧ t.hst.host.txq = [] ∧ t.mem = s.mem ∧ t.arr = s.arr ∧ t.seq = s.seq
        ∧ t.hst.host.unacked = s.hst.host.unacked.filter (fun u => !(decide ((h.ack - u.seq).toNat < 2 ^ 31)
            || (decide ((u.seq - h.ack).toNat ≤ 64) && m.getLsbD ((u.seq - h.ack).toNat - 1)))))
    ∧ (∀ (q : Word) (u : TxFrame), s.hst.host.unacked.find? (fun u => u.seq == q) = some u →
        s.hst.paused.contains (prioOf s (isBulk u.f)).toNat = false →
        (u.resends + 1 < 16 ∨ endless u.f = true → ∃ t, exec (.resendTimeout .host q) s = .next t
          ∧ t.wire = .hct .host (txHdr s .host (isBulk u.f)) q u.f :: s.wire
          ∧ t.hst.host.unacked = s.hst.host.unacked.map (fun v => if v.seq = q then { v with resends := v.resends + 1 } else v)
          ∧ t.hst.unreachable = s.hst.unreachable ∧ t.mem = s.mem ∧ t.arr = s.arr ∧ t.seq = s.seq)
        ∧ (16 ≤ u.resends + 1 → endless u.f = false → s.hst.unreachable = false → ∃ t, exec (.resendTimeout .host q) s = .next t
          ∧ t.hst.unreachable = true ∧ .hct .host (txHdr s .host (isBulk u.f)) q u.f ∈ t.wire
          ∧ t.mem = s.mem ∧ t.arr = s.arr ∧ t.seq = s.seq))
    ∧ (∀ p : HctPeer, (peerGet s p).sinceAck ≠ 0 → prioOpen s false = true → resolved s p = true → s.hst.syncDue = false →
        ∃ t, exec (.ackDelay p) s = .next t
        ∧ t.wire = .ack p (txHdr s p false) (ackBits (peerGet s p)) :: s.wire ∧ (txHdr s p false).ack = (peerGet s p).rxSeq
        ∧ (peerGet t p).sinceAck = 0 ∧ t.mem = s.mem ∧ t.arr = s.arr ∧ t.seq = s.seq ∧ t.regs = s.regs))
  ∧ (∀ s : State, s.seq.dev ≠ .off → s.hst.synced = true → s.hst.unreachable = false →
    (∃ t, exec .completion s = .next t ∧ t.hst.gather = [] ∧ t.mem = s.mem ∧ t.arr = s.arr ∧ t.seq = s.seq ∧ t.regs = s.regs
      ∧ hostFrames t = hostFrames s ++ (List.range ((s.hst.gather.length + 63) / 64)).map (fun k =>
          .completion ((s.hst.gather.drop (64 * k)).take 64)))
    ∧ (∃ t, exec .interrupt s = .next t ∧ t.irq = [] ∧ t.mem = s.mem ∧ t.arr = s.arr ∧ t.seq = s.seq ∧ t.regs = s.regs
      ∧ ∀ es, es = (sortAsc s.irq).filterMap (pendingEntry s) →
          hostFrames t = hostFrames s ++ (List.range ((es.length + 63) / 64)).map (fun k => .interrupt ((es.drop (64 * k)).take 64))))

/-- With the device on and nothing waiting on the host side. HOST_LINK_TRAINING that succeeds on a link that trains: the
link is UP with the addresses of HST_IP and HST_HOST_IP; one that fails changes nothing. On an open port:
HOST_LOSS_OF_LOCK brings it to RETRAIN; a solicitation of one of the device's own addresses is answered with an
advertisement of hop limit 255, an echo request to one, in a frame of at most 9022 bytes, with its payload once the
sender stands in the neighbour cache, which is asked for it otherwise; both leave while the control priority is not
paused and else wait; an advertisement of the host or of a basin peer stands first in the neighbour cache; a frame of
another VID and an 802.3x PAUSE frame change nothing but the counts of codewords (assumption 110), and what no row of
Table 12.2 takes is counted as dropped beside them; an address in use is solicited again; an XOFF of a priority in use
pauses it and an XON of it ends the pause, and the time paused is counted. EXCHANGE_SLOT: the slot is in force. Memory
and the arrays are as before.
Rests on 12_host_interface.md, R328, R329, R330, R331, R332, R351, R353. -/
def Obligations.TheHostLinkAndItsNeighbours : Prop :=
  ∀ s : State, s.seq.dev ≠ .off → hostQuiet s →
    ((s.hst.link = .training ∨ s.hst.link = .retrain) →
      (∃ t, exec (.hostLinkTraining true) s = .next t ∧ t.hst.link = .up ∧ t.hst.ip = regIp s 0x100 ∧ t.hst.hostIp = regIp s 0x110
        ∧ t.mem = s.mem ∧ t.arr = s.arr) ∧ exec (.hostLinkTraining false) s = .next s)
    ∧ (s.hst.link = .up →
      (∃ t, exec .hostLossOfLock s = .next t ∧ t.hst.link = .retrain ∧ t.mem = s.mem ∧ t.arr = s.arr)
      ∧ (∀ e src a, ethFits s e → ownAddr s a = true → ∃ t, exec (.neighbourSolicitation ⟨e, src⟩ a) s = .next t
          ∧ (prioOpen s false = true → t.wire = .advert (ethTag s false) 255 a :: s.wire ∧ t.hst = s.hst)
          ∧ (prioOpen s false = false → t.wire = s.wire ∧ t.hst = { s.hst with nd := s.hst.nd ++ [.advert a] })
          ∧ t.mem = s.mem ∧ t.arr = s.arr)
      ∧ (∀ e src a (pl : List Byte), ethFits s e → ownAddr s a = true → pl.length ≤ 8952 → ∃ t, exec (.echoRequest ⟨e, src⟩ a pl) s = .next t
          ∧ (cached s src = true → prioOpen s false = true → t.wire = .echo (ethTag s false) src pl :: s.wire ∧ t.hst = s.hst)
          ∧ (cached s src = false ∨ prioOpen s false = false → t.hst.nd.take (s.hst.nd.length + 1) = s.hst.nd ++ [.echo src pl])
          ∧ (cached s src = false → prioOpen s false = true → src ∉ s.hst.asked → t.wire = .solicit (ethTag s false) src :: s.wire)
          ∧ t.mem = s.mem ∧ t.arr = s.arr)
      ∧ (∀ e src a (pl : List Byte), 8952 < pl.length → exec (.echoRequest ⟨e, src⟩ a pl) s = .next s)
      ∧ (∀ e src mac, ethFits s e → knownAddr s src = true → ∃ t, exec (.neighbourAdvertisement ⟨e, src⟩ mac) s = .next t
          ∧ t.hst.cache = (src, mac) :: s.hst.cache.filter (fun c => c.1 != src) ∧ t.mem = s.mem ∧ t.arr = s.arr)
      ∧ (∀ e src a, (e.fecOk = false ∨ e.vid ≠ (ethTag s false).vid ∨ e.stray = some .pause →
              exec (.neighbourSolicitation ⟨e, src⟩ a) s = .next (fecCount .hst 0 0xc30 e.toFecRx s))
          ∧ (e.fecOk = true → e.vid = (ethTag s false).vid → e.stray ≠ none → e.stray ≠ some .pause →
              exec (.neighbourSolicitation ⟨e, src⟩ a) s = .next (dropFrame (fecCount .hst 0 0xc30 e.toFecRx s))))
      ∧ (∀ a, knownAddr s a = true → cached s a = true →
          (prioOpen s false = true → exec (.neighbourResolicit a) s = .next (send s (.solicit (ethTag s false) a)))
          ∧ (prioOpen s false = false → exec (.neighbourResolicit a) s = .next (holdNd s (.solicit a))))
      ∧ (∀ (prio : BitVec 3) (ns : Nat), prio = prioOf s false ∨ prio = prioOf s true →
          (∃ t, exec (.pfcReceived prio true ns) s = .next t ∧ prio.toNat ∈ t.hst.paused
            ∧ ctrGet t .hst 0 0xc40 = ctrGet s .hst 0 0xc40 + BitVec.ofNat 64 ns ∧ t.mem = s.mem ∧ t.arr = s.arr)
          ∧ (∃ t, exec (.pfcReceived prio false ns) s = .next t ∧ prio.toNat ∉ t.hst.paused ∧ t.mem = s.mem ∧ t.arr = s.arr)))
    ∧ (∀ k : Fin 16, ∃ t, exec (.exchangeSlot k) s = .next t ∧ t.hst.slot = k.val ∧ t.mem = s.mem ∧ t.arr = s.arr)

/-- A frame of the host that is next in order is taken: its SEQ is the highest in order. SQ_WRITE without DOORBELL that
touches no command that waits: the commands stand in their slots, and HEAD and TAIL are as before; with RING, to the end
of the queue, while the front command cannot start yet: TAIL lies behind the last of them, and the queue waits at the
front. DOORBELL of a TAIL up to 256 ahead of HEAD, whose front command cannot start yet: TAIL follows, and the queue
waits at the front. DATA of the one granted WRITE, of a tensor that holds no records: the chunk's bytes are in memory
and every other byte is as before; with its last chunk, while nothing waits for a fence, the WRITE is in progress no
longer. REG_REQ of one read of a page other than the host port's: the response gives
the register's value with OK. MAILBOX of a whole request of one message to an empty channel of a running management
processor: the channel holds the request; a message to an occupied channel waits and is not acknowledged, apart from
the frames of other channels (assumption 78), and is counted. A datagram of any of these types that a test of the link
refuses is not taken, and is counted in TST_LINK_DONE; an ACK that leaves it out leaves at once, where the control
priority is open and the peer's address in the neighbour cache, and is due otherwise (assumption 89).
Rests on 12_host_interface.md, 15_management_and_security.md, 18_errors_and_test.md, R335, R336, R338, R343, R345, R346,
R407, R475. -/
def Obligations.FramesOfTheHostAreTaken : Prop :=
  ∀ (h : HctHdr) (s : State), s.seq.ramp = none → s.hst.heads = [] → (s.seq.dev = .paused → s.seq.pause = []) →
    (∀ (q : Fin 16) (first : Half) (cmds : List Cmd), hctTakes s h (.sqWrite q false first cmds) .host → s.hst.access = [] →
      (∀ j k, j < cmds.length → k < (queueGet s q).tail - (queueGet s q).head → (first.toNat + j) % 256 ≠ ((queueGet s q).head + k) % 256) →
      ∃ t, exec (.sqWrite h q false first cmds) s = .next t ∧ t.hst.host.rxSeq = h.seq ∧ t.mem = s.mem ∧ t.arr = s.arr
        ∧ (queueGet t q).head = (queueGet s q).head ∧ (queueGet t q).tail = (queueGet s q).tail
        ∧ ∀ j, j < cmds.length → aget (fun _ => 0) (queueGet t q).slots ((first.toNat + j) % 256) = cmds.getD j 0)
    ∧ (∀ (q : Fin 16) (first : Half) (cmds : List Cmd), hctTakes s h (.sqWrite q true first cmds) .host → s.hst.access = [] →
      first.toNat = (queueGet s q).tail % 65536 → (queueGet s q).head ≤ (queueGet s q).tail →
      (queueGet s q).tail - (queueGet s q).head + cmds.length ≤ 256 →
      startable s q (if (queueGet s q).head = (queueGet s q).tail then cmds.getD 0 0 else frontCmd s q) = false →
      ∃ t, exec (.sqWrite h q true first cmds) s = .next t ∧ t.hst.host.rxSeq = h.seq ∧ t.hst.heads = [q.val] ∧ t.mem = s.mem ∧ t.arr = s.arr
        ∧ (queueGet t q).head = (queueGet s q).head ∧ (queueGet t q).tail = (queueGet s q).tail + cmds.length
        ∧ ∀ j, j < cmds.length → aget (fun _ => 0) (queueGet t q).slots ((first.toNat + j) % 256) = cmds.getD j 0)
    ∧ (∀ (q : Fin 16) (tail : Half) (d : Nat), hctTakes s h (.doorbell q tail) .host → s.hst.access = [] →
      tailAhead (queueGet s q) tail.toNat = some d → d ≠ 0 → startable s q (frontCmd s q) = false →
      ∃ t, exec (.doorbell h q tail) s = .next t ∧ t.hst.host.rxSeq = h.seq ∧ t.hst.heads = [q.val] ∧ t.mem = s.mem ∧ t.arr = s.arr
        ∧ (queueGet t q).head = (queueGet s q).head ∧ (queueGet t q).tail = (queueGet s q).head + d)
    ∧ (∀ (q : Fin 16) (off : BitVec 64) (bs : List Byte) (a : Access) (e : Extent),
      hctTakes s h (.data q (cmdTag a.cmd.w) 0 off bs) .host → s.hst.access = [a] → a.write = true → a.cmd.q = q.val → a.entries = [e] →
      recKind s e.h = 0 → a.buf = [] → off.toNat % 8192 = 0 → off.toNat < e.len → bs.length = min 8192 (e.len - off.toNat) →
      (a.chunks.length + 1 < (e.len + 8191) / 8192 ∨ s.cfl.ops = [] ∧ (∀ u, (updGet s u).waiting = none) ∧ s.mem.lateFree = []) →
      ∃ t, exec (.data h q (cmdTag a.cmd.w) 0 off bs) s = .next t ∧ t.hst.host.rxSeq = h.seq ∧ t.arr = s.arr
        ∧ ((e.len + 8191) / 8192 ≤ a.chunks.length + 1 → off.toNat / 8192 ∉ a.chunks → t.hst.access = [])
        ∧ ∀ k, memByte t k = if tkey e.h (e.off + off.toNat) ≤ k ∧ k < tkey e.h (e.off + off.toNat) + bs.length then
            bs.getD (k - tkey e.h (e.off + off.toNat)) 0 else memByte s k)
    ∧ (∀ (id : Half) (off : Word) (p : Pg) (i : Nat), hctTakes s h (.regReq id [(off, 0)]) .host → s.hst.unreachable = false → s.hst.access = [] →
      off.toNat % 4 = 0 → pageOf off.toNat = some (p, i) → p ≠ .hst → off.toNat % 0x1000 ≠ 0x0c →
      freeReading s off.toNat = none → (∀ hd, s.holdHost = some hd → off.toNat ≠ hd.off + 4) →
      ∃ t, exec (.regReq h id [(off, 0)]) s = .next t ∧ t.hst.host.rxSeq = h.seq
        ∧ .regResp id [(readNow s off.toNat, stOK)] ∈ hostFrames t ∧ t.mem = s.mem ∧ t.arr = s.arr ∧ t.seq = s.seq
        ∧ ∀ o, o ≠ pageBase .hst 0 + 0x090 → regGet t o = regGet s o)
    ∧ (∀ (c : Fin 8) (m : List Byte), hctTakes s h (.mailbox c m) .host → s.hst.access = [] →
      (chanGet s c = {} → s.mp.started = true → (m.getD 1 0).toNat = 3 → leNat ((m.drop 4).take 4) = 0 → leNat ((m.drop 12).take 4) = 0 →
        leNat ((m.drop 8).take 4) ≤ 240 → ((m.drop 16).drop (leNat ((m.drop 8).take 4))).any (· != 0) = false →
        requestCheck c (m.getD 0 0).toNat ((m.drop 16).take (leNat ((m.drop 8).take 4))) = [] →
        ∃ t, exec (.mailbox h c m) s = .next t ∧ t.hst.host.rxSeq = h.seq ∧ t.mem = s.mem ∧ t.arr = s.arr ∧ t.seq = s.seq
          ∧ (chanGet t c).inb = 2 ∧ (chanGet t c).op = (m.getD 0 0).toNat ∧ (chanGet t c).tag = BitVec.ofNat 16 (leNat ((m.drop 2).take 2))
          ∧ (chanGet t c).buf = (m.drop 16).take (leNat ((m.drop 8).take 4)))
      ∧ ((chanGet s c).inb = 2 → ∃ t, exec (.mailbox h c m) s = .next t ∧ t.hst.host.rxSeq = s.hst.host.rxSeq
          ∧ chanGet t c = chanGet s c ∧ (h.seq, some c.val) ∈ t.hst.host.refused
          ∧ ctrGet t .mbx 0 0xc10 = ctrGet s .mbx 0 0xc10 + 1 ∧ t.mem = s.mem ∧ t.arr = s.arr ∧ t.seq = s.seq))
    ∧ (∀ (f : HctFrame) (p : HctPeer) (c : Instr),
      ((∃ q ring first cmds, f = .sqWrite q ring first cmds ∧ c = .sqWrite h q ring first cmds)
        ∨ (∃ q tail, f = .doorbell q tail ∧ c = .doorbell h q tail)
        ∨ (∃ q tag entry off bs, f = .data q tag entry off bs ∧ c = .data h q tag entry off bs)
        ∨ (∃ id ops, f = .regReq id ops ∧ c = .regReq h id ops) ∨ (∃ ch m, f = .mailbox ch m ∧ c = .mailbox h ch m)
        ∨ (∃ ts bs, f = .basin ts bs ∧ c = .basin h ts bs)) →
      ethFits s h.toEthHdr → datagramPeer s h f = some p → linkRefuses s .hst 0 s.hst.tst 1 = true →
      ∃ t, exec c s = .next t ∧ t.hst.tst = linkNext s .hst 0 s.hst.tst 1 ∧ t.mem = s.mem ∧ t.arr = s.arr ∧ t.seq = s.seq
        ∧ (peerGet t p).rxSeq = (peerGet s p).rxSeq ∧ (peerGet t p).early = (peerGet s p).early
        ∧ (prioOpen s false = true → (p = .host → s.hst.syncDue = false) → resolved s p = true →
            t.wire = .ack p (txHdr s p false) (ackBits (peerGet s p)) :: s.wire)
        ∧ (prioOpen s false = false ∨ resolved s p = false → (peerGet t p).ackDue = true)
        ∧ (pgGet t .hst 0 0x090).toNat = min 0xffffffff ((pgGet s .hst 0 0x090).toNat + 1)
        ∧ ∀ o, o ≠ pageBase .hst 0 + 0x090 → regGet t o = regGet s o)

/-- A BASIN frame of a basin peer that is next in order, of a loaded program and a basin table. When its position, reach
index and shape agree with the table and its step is the present one, and a REDUCE of its RID and step is in progress:
its part joins the parts received, the REDUCE goes on with it, and the frame is acknowledged. One that completes the
result of its reach makes that an operand of the tree over the reaches. One that does not, and that staging cannot
hold while no left operand waits there, is written to the scratch region of DST_H and counted as spilled (assumption
101). When position, reach index or shape disagree: it is acknowledged, counted, and nothing
else of the reduction changes.
Rests on 11_peer_links_and_collectives.md, 12_host_interface.md, R307, R350, R352. -/
def Obligations.BasinFramesJoinTheirReduce : Prop :=
  ∀ (h : HctHdr) (ts : BasinTs) (bs : List Byte) (r : Fin 8) (b : Basin) (g : Prog) (s : State), hostQuiet s →
    hctTakes s h (.basin ts bs) (.basin r) → s.hst.basin = some b → s.seq.prog = some g →
    (ts.pos.toNat = r.val → ts.reachIndex.toNat = b.ridx.getD r 0 → ts.shape.toNat = g.shape →
      ts.sLow = (stepS s).truncate 32 →
      ∀ (o : CflOp) (x : BasinPart) (v : State), s.cfl.ops.find? (fun o => o.op == 1 && o.d.rid == ts.rid && o.sLow == ts.sLow) = some o →
      x = BasinPart.mk r ts.rid.toNat ts.shard.toNat ts.first.toNat bs false → v = { s with cfl := { s.cfl with basinIn := s.cfl.basinIn ++ [x] } } →
      ∃ t u, exec (.basin h ts bs) s = .next t ∧ u.seq = s.seq ∧ u.arr = s.arr ∧ t.cfl = (cflAdvance u).cfl ∧ t.mem = (cflAdvance u).mem
        ∧ (peerGet t (.basin r)).rxSeq = h.seq
        ∧ (basinPart v o r (myBlocks v o) = none →
            (stagedBytes v ≤ stagingSize → u.cfl = v.cfl ∧ u.mem = s.mem)
            ∧ (stagingSize < stagedBytes v → treeSpill o.basin (reachCount v) (reachHere v o) = none → x ∉ s.cfl.basinIn →
                ∀ p, p = scratchPlace v o →
                u.cfl = { s.cfl with basinIn := s.cfl.basinIn ++ [{ x with spilled := true }] }
                ∧ ctrGet u .cfl 0 0xc18 = ctrGet s .cfl 0 0xc18 + BitVec.ofNat 64 bs.length
                ∧ ∀ k, memByte u k = if tkey o.d.dstH.toNat p.1 ≤ k ∧ k < tkey o.d.dstH.toNat p.1 + min bs.length p.2 then
                    bs.getD (k - tkey o.d.dstH.toNat p.1) 0 else memByte s k))
        ∧ (basinPart v o r (myBlocks v o) ≠ none → ts.shard.toNat = myIndex s → o.basin.taken.contains r.val = false → o.basin.spilled = [] →
            ∀ w, w = opPut v { o with basin := { o.basin with taken := o.basin.taken ++ [r.val] } } →
            stagedBytes w ≤ stagingSize → u.cfl = w.cfl ∧ u.mem = s.mem))
    ∧ (ts.pos.toNat ≠ r.val ∨ ts.reachIndex.toNat ≠ b.ridx.getD r 0 ∨ ts.shape.toNat ≠ g.shape →
      ∃ t, exec (.basin h ts bs) s = .next t ∧ t.cfl = s.cfl ∧ t.mem = s.mem ∧ t.arr = s.arr ∧ t.port = s.port
        ∧ ctrGet t .hst 0 0xc70 = ctrGet s .hst 0 0xc70 + 1 ∧ (peerGet t (.basin r)).rxSeq = h.seq)

/-- With the device on and nothing waiting on the host side, a write to a register of a present block. REGISTER_WRITE of
an RW register that its own rule accepts (which reads the defined bits alone, assumption 82): the register holds the
value in its defined bits, and its reserved bits are zero; one that its rule rejects, and one of a read-only register, change nothing; a write to INT_SET sets the defined
bits of INT_RAW that are 1 in the value. INT_CLR clears the bits of INT_RAW that are 1 in the value. HST_IRQ_RESEND
with bit 0 and HST_COAL above 0: every routed page whose INT_STAT is not zero is pending. NGL_EXP_ID_LO, NGL_EXP_ID_HI
and NGL_EXP_INFO take their value outside RUNNING, and keep theirs in RUNNING. The tensors, their bytes and the arrays
are as before.
Rests on 00_scope.md, 17_register_directory.md, 11_peer_links_and_collectives.md, R8, R9, R443, R449, R299. -/
def Obligations.RegistersAreWritten : Prop :=
  ∀ (r : Requester) (v : Word) (s : State),
    (∀ (p : Pg) (i o : Nat) (off : Word), off.toNat = pageBase p i + o → regReaches s p i o → regAcc p o = .rw →
      (regRule s p o v = stOK → ∃ t, exec (.registerWrite r off v) s = .next t ∧ pgGet t p i o = v &&& regMask p o
        ∧ t.mem.bytes = s.mem.bytes ∧ t.mem.work = s.mem.work ∧ t.mem.tensors = s.mem.tensors ∧ t.arr = s.arr)
      ∧ (regRule s p o v ≠ stOK → exec (.registerWrite r off v) s = .next s))
    ∧ (∀ (p : Pg) (i o : Nat) (off : Word), off.toNat = pageBase p i + o → regReaches s p i o →
      (regAcc p o = .ro → exec (.registerWrite r off v) s = .next s)
      ∧ (regAcc p o = .w1s → ∃ t, exec (.registerWrite r off v) s = .next t
          ∧ pgGet t p i 0x10 = pgGet s p i 0x10 ||| (v &&& p.intMask) ∧ t.mem = s.mem ∧ t.arr = s.arr))
    ∧ (∀ (p : Pg) (i : Nat) (page : Word), page.toNat = pageBase p i → regReaches s p i 0x18 → p.intMask ≠ 0 →
      ∃ t, exec (.intClr r page v) s = .next t ∧ pgGet t p i 0x10 = pgGet s p i 0x10 &&& ~~~v ∧ t.mem = s.mem ∧ t.arr = s.arr)
    ∧ (regReaches s .hst 0 0x188 → v.getLsbD 0 = true → pgGet s .hst 0 0x12c ≠ 0 →
      ∃ t, exec (.hstIrqResend r v) s = .next t ∧ t.mem = s.mem ∧ t.arr = s.arr ∧ t.regs = s.regs
        ∧ ∀ e ∈ intPages s, irqRouted s e.1 = true → pageBase e.1 e.2 ∈ t.irq)
    ∧ (∀ (p : Fin 6) (w : Fin 3), regReaches s .ngl p (0x100 + 4 * w) →
      (s.seq.dev ≠ .running → ∃ t, exec (.nglExpWrite r p w v) s = .next t
        ∧ pgGet t .ngl p (0x100 + 4 * w) = v &&& regMask .ngl (0x100 + 4 * w) ∧ t.mem = s.mem ∧ t.arr = s.arr)
      ∧ (s.seq.dev = .running → exec (.nglExpWrite r p w v) s = .next s))

/-- With the device on and nothing waiting on the host side. SNAP of a present page outside RUNNING: every latched counter
of the page holds what the live one held, every live one starts again, and the counters of other pages are as before;
in RUNNING nothing changes. ENABLE of a peer port in DOWN brings it to TRAINING, ENABLE = 0 brings one in another
state to DOWN; the same holds of the host port, and NGL_RETRAIN brings a peer port in UP or FAILED to TRAINING. Tensor
memory and the arrays are as before.
Rests on 11_peer_links_and_collectives.md, 12_host_interface.md, 16_startup_and_configuration.md, R290, R329, R440. -/
def Obligations.CountersLatchAndPortsTurn : Prop :=
  ∀ (r : Requester) (v page : Word) (s : State),
    (∀ (p : Pg) (i : Nat), page.toNat = pageBase p i → regReaches s p i 0x20 → v.getLsbD 0 = true →
      (s.seq.dev ≠ .running → ∃ t, exec (.snap r page v) s = .next t ∧ t.mem = s.mem ∧ t.arr = s.arr
        ∧ ∀ k, (pageBase p i ≤ k → k < pageBase p i + 0x1000 →
              aget ctrReset t.lat k = aget ctrReset s.ctr k ∧ aget ctrReset t.ctr k = ctrReset k)
            ∧ (k < pageBase p i ∨ pageBase p i + 0x1000 ≤ k →
              aget ctrReset t.lat k = aget ctrReset s.lat k ∧ aget ctrReset t.ctr k = aget ctrReset s.ctr k))
      ∧ (s.seq.dev = .running → exec (.snap r page v) s = .next s))
    ∧ (∀ p : Fin 6, page.toNat = pageBase .ngl p → regReaches s .ngl p 8 →
      (v.getLsbD 0 = true → (portGet s p).st = .down → ∃ t, exec (.portEnable r page v) s = .next t
        ∧ (portGet t p).st = .training ∧ t.mem = s.mem ∧ t.arr = s.arr)
      ∧ (v.getLsbD 0 = false → ∃ t, exec (.portEnable r page v) s = .next t ∧ (portGet t p).st = .down ∧ t.mem = s.mem ∧ t.arr = s.arr))
    ∧ (page.toNat = pageBase .hst 0 → regReaches s .hst 0 8 →
      (v.getLsbD 0 = true → s.hst.link = .down → ∃ t, exec (.portEnable r page v) s = .next t ∧ t.hst.link = .training
        ∧ t.mem = s.mem ∧ t.arr = s.arr)
      ∧ (v.getLsbD 0 = false → ∃ t, exec (.portEnable r page v) s = .next t ∧ t.hst.link = .down ∧ t.mem = s.mem ∧ t.arr = s.arr))
    ∧ (∀ p : Fin 6, regReaches s .ngl p 0x120 → v.getLsbD 0 = true → ((portGet s p).st = .up ∨ (portGet s p).st = .failed) →
      ∃ t, exec (.nglRetrain r p v) s = .next t ∧ (portGet t p).st = .training ∧ (portGet t p).attempts = 0
        ∧ t.mem = s.mem ∧ t.arr = s.arr ∧ t.regs = s.regs)

/-- SEQ_RESET with its key, with nothing waiting on the host side. MP_RESET with the device on: the reset cause is 1,
the test scope is 0, the rest of the device state, memory and the arrays are as before. RUN_RESET in READY, LOADED,
PAUSED or HALTED: the device is in READY with reset cause 3, no program, no overlay and mode 0, and every tensor and
every committed byte are as before. HUB_RESET in STANDBY, READY, LOADED, PAUSED or HALTED: the device is in STANDBY, or
HALTED when a vertical stage could not start, with reset cause 4, without a program, a tensor or a queue with commands.
A run reset or hub reset in any other state changes no device state, memory or array. All of them keep MIN_VER, the
operator key and the stored counter. Without the key nothing changes.
Rests on 16_startup_and_configuration.md, R429, R430. -/
def Obligations.ResetsKeepWhatTheTableKeeps : Prop :=
  ∀ (r : Requester) (v : Word) (s : State), hostQuiet s → s.seq.dev ≠ .off →
    (v.toNat / 2 ^ 16 = 0x7e51 →
      (∃ t, exec (.mpReset r v) s = .next t ∧ t.seq = { s.seq with resetCause := 1 } ∧ pgGet t .sec 0 0x124 = 0 ∧ t.mem = s.mem
        ∧ t.arr = s.arr ∧ t.mp.minVer = s.mp.minVer ∧ t.mp.opkey = s.mp.opkey ∧ t.mp.counter = s.mp.counter)
      ∧ (s.seq.dev = .ready ∨ s.seq.dev = .loaded ∨ s.seq.dev = .paused ∨ s.seq.dev = .halted →
        ∃ t, exec (.runReset r v) s = .next t ∧ t.seq.dev = .ready ∧ t.seq.resetCause = 3 ∧ t.seq.prog = none ∧ t.seq.overlays = []
          ∧ t.seq.mode = 0 ∧ t.mem.tensors = s.mem.tensors ∧ (∀ k, memByte t k = memByte s k)
          ∧ t.mp.minVer = s.mp.minVer ∧ t.mp.opkey = s.mp.opkey ∧ t.mp.counter = s.mp.counter)
      ∧ (s.seq.dev = .standby ∨ s.seq.dev = .ready ∨ s.seq.dev = .loaded ∨ s.seq.dev = .paused ∨ s.seq.dev = .halted →
        ∃ t, exec (.hubReset r v) s = .next t
          ∧ t.seq.dev = (if t.pwr.stage.any (fun e => e.2.fault) then .halted else .standby) ∧ t.seq.resetCause = 4 ∧ t.seq.prog = none ∧ t.mem.tensors = []
          ∧ t.hst.heads = [] ∧ t.hst.queues = [] ∧ t.mp.minVer = s.mp.minVer ∧ t.mp.opkey = s.mp.opkey ∧ t.mp.counter = s.mp.counter)
      ∧ (∀ c, (c = .runReset r v ∧ (s.seq.dev = .standby ∨ s.seq.dev = .running ∨ s.seq.dev = .safe))
          ∨ (c = .hubReset r v ∧ (s.seq.dev = .running ∨ s.seq.dev = .safe)) → ∃ t, exec c s = .next t ∧ t.seq.dev = s.seq.dev ∧ t.seq.prog = s.seq.prog ∧ t.mem = s.mem ∧ t.arr = s.arr ∧ t.mp = s.mp))
    ∧ (v.toNat / 2 ^ 16 ≠ 0x7e51 → ∀ c, c = .mpReset r v ∨ c = .runReset r v ∨ c = .hubReset r v → exec c s = .next s)

/-- Each of the eighteen host commands, placed on an empty queue with nothing waiting on the host side and nothing that
holds it back. When it passes every check: its effect, on the state in which its queue stands behind it. When a check
other than that of the neighbours gives a status: it is rejected with that status, and has no other effect. With the
device off nothing changes.
Rests on 09_schedule_and_determinism.md, 12_host_interface.md, R253, R254, R255, R338, R339. -/
def Obligations.CommandsStartFromTheirQueue : Prop :=
  ∀ (q : Fin 16) (w v : Cmd) (s : State) (c : Instr),
    ((c = .wake q w ∧ v = withOp 0x01 w) ∨ (c = .sleep q w ∧ v = withOp 0x02 w) ∨ (c = .load q w ∧ v = withOp 0x03 w)
      ∨ (c = .unload q w ∧ v = withOp 0x04 w) ∨ (c = .start q w ∧ v = withOp 0x05 w) ∨ (c = .pause q w ∧ v = withOp 0x06 w)
      ∨ (c = .resume q w ∧ v = withOp 0x07 w) ∨ (c = .abort q w ∧ v = withOp 0x08 w) ∨ (c = .alloc q w ∧ v = withOp 0x10 w)
      ∨ (c = .free q w ∧ v = withOp 0x11 w) ∨ (c = .read q w ∧ v = withOp 0x12 w) ∨ (c = .write q w ∧ v = withOp 0x13 w)
      ∨ (c = .event q w ∧ v = withOp 0x14 w) ∨ (c = .ledger q w ∧ v = withOp 0x15 w) ∨ (c = .config q w ∧ v = withOp 0x18 w)
      ∨ (c = .overlayLoad q w ∧ v = withAction 0 w) ∨ (c = .overlayApply q w ∧ v = withAction 1 w)
      ∨ (c = .overlayClear q w ∧ v = withAction 2 w)) →
    (cmdMayRun s q v → exec c s = .next (cmdEffect (CmdRef.mk q v) (cmdAt s q v)))
    ∧ (∀ st, cmdStarts s q v → cmdStatus (cmdAt s q v) v = st → st ≠ stOK → st ≠ stNeighbour →
        exec c s = .next (reject (cmdAt s q v) (CmdRef.mk q v) st))
    ∧ (s.seq.dev = .off → exec c s = .next s)

/-- Commands that pass their checks. WAKE: every fitted stack whose tile's vertical stage is not in fault trains, but for
those in operation, and the device stays in STANDBY; HBM_TRAINING_DONE
without a failed stack and without a stage in fault, with the identity record sound: the stacks are in operation, and
the device is in READY or waits for lehr ramps; with a failed one, or a fitted stack without its stage, it stays where
it is and no ramp is awaited. SLEEP: STANDBY, every stack that has its stage in self-refresh, every array that is listed off, dark or excluded. UNLOAD: READY with no program. PAUSE: the command
waits for the boundary. ABORT: LOADED with the program, no halt and no steps left, and no commit. In all of them every
byte of the committed versions is as before.
Rests on 09_schedule_and_determinism.md, 16_startup_and_configuration.md, R252, R256, R257, R427, R428. -/
def Obligations.StateCommandsMoveTheDevice : Prop :=
  ∀ (q : Fin 16) (w : Cmd) (s : State),
    (cmdMayRun s q (withOp 0x01 w) → ∃ t, exec (.wake q w) s = .next t ∧ t.seq.dev = .standby
      ∧ t.seq.ramp = some (.wakeTrain (CmdRef.mk q (withOp 0x01 w))) ∧ (∀ k ∈ liveStacks s, k < 12 →
          (hbmGet t k).st = if (hbmGet s k).st = .operating then .operating else .training)
      ∧ t.mem.bytes = s.mem.bytes ∧ t.arr = s.arr)
    ∧ (∀ (failed : List (Fin 12)) (c : CmdRef), s.seq.ramp = some (.wakeTrain c) → s.hst.heads = [] → s.hst.access = [] →
        (s.seq.dev = .paused → s.seq.pause = []) →
      ((∀ k ∈ failed, s.fit.hbmFitted.contains k.val = false) → (∀ k ∈ s.fit.hbmFitted, k ∈ liveStacks s) → s.fit.idSigOk = true → ∃ t, exec (.hbmTrainingDone failed) s = .next t
        ∧ (∀ k ∈ s.fit.hbmFitted, k < 12 → (hbmGet t k).st = .operating) ∧ (t.seq.ramp = some (.wakeRamp c) ∨ t.seq.dev = .ready)
        ∧ t.mem.bytes = s.mem.bytes)
      ∧ ((∃ k ∈ failed, s.fit.hbmFitted.contains k.val = true) ∨ (∃ k ∈ s.fit.hbmFitted, k ∉ liveStacks s) →
        ∃ t, exec (.hbmTrainingDone failed) s = .next t
        ∧ t.seq.dev = s.seq.dev ∧ t.seq.ramp = none ∧ (∀ k ∈ failed, k.val ∈ liveStacks s → (hbmGet t k).st = .untrained)
        ∧ t.mem.bytes = s.mem.bytes ∧ t.arr = s.arr))
    ∧ (cmdMayRun s q (withOp 0x02 w) → ∃ t, exec (.sleep q w) s = .next t ∧ t.seq.dev = .standby
      ∧ (∀ k ∈ liveStacks s, k < 12 → (hbmGet t k).st = .selfRefresh)
      ∧ (∀ e ∈ t.arr, e.2.st = .off ∨ e.2.st = .dark ∨ e.2.st = .excluded) ∧ t.mem.tensors = s.mem.tensors ∧ t.mem.bytes = s.mem.bytes)
    ∧ (cmdMayRun s q (withOp 0x04 w) → ∃ t, exec (.unload q w) s = .next t ∧ t.seq.dev = .ready ∧ t.seq.prog = none
      ∧ (∀ e ∈ t.arr, e.2.slot = none ∧ e.2.prog = []) ∧ t.mem.tensors = s.mem.tensors ∧ ∀ k, memByte t k = memByte s k)
    ∧ (cmdMayRun s q (withOp 0x06 w) → ∃ t, exec (.pause q w) s = .next t ∧ t.seq.dev = .running
      ∧ t.seq.pause = s.seq.pause ++ [CmdRef.mk q (withOp 0x06 w)] ∧ t.mem = s.mem ∧ t.arr = s.arr ∧ t.regs = s.regs)
    ∧ (cmdMayRun s q (withOp 0x08 w) → ∃ t, exec (.abort q w) s = .next t ∧ t.seq.dev = .loaded ∧ t.seq.prog = s.seq.prog
      ∧ t.seq.halt = none ∧ t.seq.stepsLeft = 0 ∧ t.mem.commits = s.mem.commits ∧ ∀ k, memByte t k = memByte s k)

/-- START, or RESUME in PAUSED, of a loaded program with STEPS above zero that passes its checks, with no vertical stage
in fault and no reserve owed, that finds a spare for every slot. The steps left are STEPS. When no lehr ramp is in
progress after action 7 the device is in RUNNING with nothing issued, completed, closed or arrived; when one is, the
device waits in its state for the end of the ramps. RESUME in HALTED of a step that was kept: the device is in RUNNING
without a halt, its arrays at the voltage of their state, and, when no descriptor waits to go on and no tensor was
restored, every byte of the committed versions is as before. STEPS of zero completes with OK and runs nothing.
Rests on 09_schedule_and_determinism.md, R257, R258, R245. -/
def Obligations.StartAndResumeOpenAStep : Prop :=
  ∀ (q : Fin 16) (w v : Cmd) (s : State) (c : Instr) (p : Prog), s.seq.prog = some p →
    ((c = .start q w ∧ v = withOp 0x05 w) ∨ (c = .resume q w ∧ v = withOp 0x07 w)) → cmdMayRun s q v →
    (cmdSteps v = 0 → exec c s = .next (complete (cmdAt s q v) (CmdRef.mk q v) stOK 0))
    ∧ (cmdSteps v ≠ 0 → (s.seq.dev = .paused ∨ s.seq.dev = .loaded ∧ s.seq.reserveOwed = false) →
        s.pwr.stage.any (fun e => e.2.fault) = false →
        ∀ x, x = actions57 (openTake (CmdRef.mk q v) (latchNow (cmdAt s q v))) → x.2 = true → ∃ t, exec c s = .next t ∧ t.seq.stepsLeft = cmdSteps v
          ∧ (ramping x.1 = false → t.seq.dev = .running ∧ t.seq.issued = 0 ∧ t.seq.done = 0 ∧ t.seq.closed = [] ∧ t.seq.parts = []
              ∧ t.seq.arrived = [] ∧ t.seq.ramp = none)
          ∧ (ramping x.1 = true → t.seq.dev = s.seq.dev ∧ t.seq.ramp = some (.release (CmdRef.mk q v))))
    ∧ (cmdSteps v ≠ 0 → s.seq.dev = .halted → s.seq.halt = some .kept → ∃ t, exec c s = .next t ∧ t.seq.dev = .running
        ∧ t.seq.halt = none ∧ t.seq.stepsLeft = cmdSteps v
        ∧ (s.cfl.ops = [] → (∀ u, (updGet s u).waiting = none) → s.mem.restored = [] →
            t.arr = (thawArrs s).arr ∧ ∀ k, memByte t k = memByte s k))

/-- ALLOC that passes its checks: a handle that named no tensor, and is neither 0 nor 0xffffff, names one of the size
and class asked for, with one page for each 2 MiB begun; every other tensor and every byte is as before, and the
registers are, as shown with MIG_EN 0. Which handle it is stays open (assumption 9). FREE that passes its checks: the
handle names no tensor any longer, its bytes read zero, and every other tensor and every other byte is as before.
Rests on 08_hbm_cache_placement.md, R199, R200, R201, R213. -/
def Obligations.TensorsAreAllocatedAndFreed : Prop :=
  ∀ (q : Fin 16) (w : Cmd) (s : State),
    (∀ v, v = withOp 0x10 w → cmdMayRun s q v → ∃ t h ps, exec (.alloc q w) s = .next t ∧ h ≠ 0 ∧ h < 0xffffff ∧ tensorOf s h = none
      ∧ tensorOf t h = some { size := allocSize v, cls := allocClass v, pages := ps } ∧ ps.length = (allocSize v + pageSize - 1) / pageSize
      ∧ (∀ g, g ≠ h → tensorOf t g = tensorOf s g) ∧ (∀ k, memByte t k = memByte s k) ∧ t.arr = s.arr
      ∧ ((pgGet s .plc 0 8).getLsbD 0 = false → t.regs = s.regs))
    ∧ (∀ v h, v = withOp 0x11 w → h = cmdNat v 4 4 % 2 ^ 24 → cmdMayRun s q v → ∃ t, exec (.free q w) s = .next t ∧ tensorOf t h = none
      ∧ (∀ g, g ≠ h → tensorOf t g = tensorOf s g)
      ∧ (∀ k, memByte t k = if tkey h 0 ≤ k ∧ k < tkey (h + 1) 0 then 0 else memByte s k) ∧ t.arr = s.arr)

/-- READ of one extent of at least one byte of a tensor on tiles without a stage fault, that passes its checks, with room in
the window of the host for its frames: DATA frames with the committed bytes, 8192 in each but the last, are the newest
frames for the host, the READ is in progress, and a tensor of class STATE holds a fence of the queue. A READ within one
line of 128 bytes of a tensor of another class passes the slice of the line's stack: when one of the 16 ways of its set
holds the line, it is a hit and stands first in its set, dirty if it was; else it is a miss, and where the slice's
policy allocates the tensor's class the line stands first, clean, before 15 of those held. WRITE of at least one byte:
a GRANT with the queue and the tag is the newest frame for the host, and the WRITE is in progress. Without a host that
is synchronized and reachable both complete with HOST_UNREACHABLE (assumption 84). Memory, the arrays and the registers
are as before, the counts of a test that injects errors apart.
Rests on 08_hbm_cache_placement.md, 12_host_interface.md, R206, R209, R210, R215, R337, R342, R343. -/
def Obligations.ReadsAndWritesBegin : Prop :=
  ∀ (q : Fin 16) (w v : Cmd) (s : State) (h off n : Nat), h = cmdNat v 4 4 → off = cmdNat v 8 8 → n = cmdNat v 16 8 → n ≠ 0 →
    (v = withOp 0x12 w → cmdMayRun s q v → cmdNat v 24 4 = 0 →
      (hostAway s = false → onFault s h off n = false → (hostFrames s).length + (n + 8191) / 8192 ≤ 256 → ∃ t, exec (.read q w) s = .next t
        ∧ hostFrames t = hostFrames s ++ (List.range ((n + 8191) / 8192)).map (fun k =>
            .data q (cmdTag v) 0 (8192 * k) (hostBytes s q h (off + 8192 * k) (min 8192 (n - 8192 * k))).1)
        ∧ (∃ a ∈ t.hst.access, a.cmd = CmdRef.mk q v ∧ a.write = false)
        ∧ (isState s h = true → Fence.mk q h s.mem.commits false ∈ t.mem.fences)
        ∧ t.mem.bytes = s.mem.bytes ∧ t.arr = s.arr ∧ regsKept s t
        ∧ (∀ tn pg x no set ls, tensorOf s h = some tn → tn.cls ≠ 0 → off / lineBytes = (off + n - 1) / lineBytes →
            pg = tn.pages.getD (off / pageSize) {} → x = pg.stack / 3 → no = lineNo pg.stack pg.idx (off % pageSize / lineBytes) →
            set = lineSet s.fit no → ls = aget (fun _ => []) (sliceGet s x).sets set →
            (∀ e, ls.find? (fun e => e.1 == no) = some e → ctrGet t .msc x 0xc00 = ctrGet s .msc x 0xc00 + 1
              ∧ ctrGet t .msc x 0xc08 = ctrGet s .msc x 0xc08
              ∧ aget (fun _ => []) (sliceGet t x).sets set = (no, e.2) :: ls.filter (fun e => e.1 != no))
            ∧ (ls.find? (fun e => e.1 == no) = none → ctrGet t .msc x 0xc08 = ctrGet s .msc x 0xc08 + 1
              ∧ ctrGet t .msc x 0xc00 = ctrGet s .msc x 0xc00
              ∧ aget (fun _ => []) (sliceGet t x).sets set =
                  if (sliceGet s x).policy.getLsbD tn.cls = true then (no, false) :: ls.take 15 else ls)))
      ∧ (hostAway s = true → exec (.read q w) s = .next (complete (cmdAt s q v) (CmdRef.mk q v) stUnreachable 0)))
    ∧ (v = withOp 0x13 w → cmdMayRun s q v →
      (hostAway s = false → ∃ t, exec (.write q w) s = .next t ∧ hostFrames t = hostFrames s ++ [.grant q (cmdTag v)]
        ∧ (∃ a ∈ t.hst.access, a.cmd = CmdRef.mk q v ∧ a.write = true ∧ a.entries = [Extent.mk h off n])
        ∧ t.mem = s.mem ∧ t.arr = s.arr ∧ t.regs = s.regs)
      ∧ (hostAway s = true → exec (.write q w) s = .next (complete (cmdAt s q v) (CmdRef.mk q v) stUnreachable 0)))

/-- Commands that pass their checks. LOAD of an image: the device is in LOADED with the program of that image and no
steps left. CONFIG of an image: its entries are written in order and are the base image, with mode 0, and the image is
kept in flash when STORE asks for it. OVERLAY_LOAD: the slot holds the image. OVERLAY_APPLY: the slot is pending for its
step, behind those before it. OVERLAY_CLEAR: the slot is empty. EVENT: COUNT is added to the counter of its step.
LEDGER: its tensor and mode are in force. The other slots and counters, and every byte of the committed versions, are as
before; but LOAD leaves offsets 0x44 to 0x4f of every allocated scale record at zero (assumption 105).
Rests on 09_schedule_and_determinism.md, 11_peer_links_and_collectives.md, 16_startup_and_configuration.md, R230,
R256, R257, R321, R433, R436, R480. -/
def Obligations.ProgramsAndConfigurationsAreTaken : Prop :=
  ∀ (q : Fin 16) (w v : Cmd) (s : State), cmdMayRun s q v →
    (v = withOp 0x03 w → loadLen v ≠ 0 → ∃ t p, exec (.load q w) s = .next t ∧ t.seq.dev = .loaded ∧ t.seq.prog = some p
      ∧ p.handle = loadH v ∧ p.off = loadOff v ∧ p.len = loadLen v ∧ t.seq.stepsLeft = 0 ∧ t.seq.halt = none
      ∧ ∀ k, memByte t k = if p.scaleRec ≠ 0 ∧ tkey p.scaleRec 80 ≤ k ∧ k < tkey (p.scaleRec + 1) 0
            ∧ recAllocated t ((k - tkey p.scaleRec 0) / 80) = true ∧ 0x44 ≤ (k - tkey p.scaleRec 0) % 80 then 0 else memByte s k)
    ∧ (v = withOp 0x18 w → cmdNat v 16 4 ≠ 0 → ∀ bs, bs = tensorBytes s (cmdNat v 4 4) (cmdNat v 8 5) (cmdNat v 16 4) →
      ∃ t, exec (.config q w) s = .next t ∧ t.seq.baseImage = imgEntries bs ∧ t.seq.cfgBase = 2 ∧ t.seq.mode = 0
        ∧ t.regs = (writeEntries (seqReads (cmdNat v 4 4) (cmdNat v 8 5) (cmdNat v 16 4) (cmdAt s q v)) (imgEntries bs)).regs
        ∧ t.mp.stored = (if v.getLsbD 160 then some bs else s.mp.stored) ∧ t.mem.bytes = s.mem.bytes)
    ∧ (v = withAction 0 w → cmdNat v 20 4 ≠ 0 → ∀ bs, bs = tensorBytes s (cmdNat v 8 4) (cmdNat v 12 5) (cmdNat v 20 4) →
      ∃ t, exec (.overlayLoad q w) s = .next t ∧ ovGet t (ovSlot v) = some (Overlay.mk (imgMode bs) bs (imgEntries bs))
        ∧ (∀ k, k ≠ ovSlot v → ovGet t k = ovGet s k) ∧ t.mem = s.mem ∧ t.arr = s.arr)
    ∧ (v = withAction 1 w → ∃ t, exec (.overlayApply q w) s = .next t
        ∧ t.seq.applies = s.seq.applies ++ [Apply.mk (ovSlot v) (cmdNat v 24 8) (CmdRef.mk q v)] ∧ t.mem = s.mem ∧ t.arr = s.arr ∧ t.regs = s.regs)
    ∧ (v = withAction 2 w → ∃ t, exec (.overlayClear q w) s = .next t ∧ ovGet t (ovSlot v) = none
        ∧ (∀ k, k ≠ ovSlot v → ovGet t k = ovGet s k) ∧ t.mem = s.mem ∧ t.arr = s.arr ∧ t.regs = s.regs)
    ∧ (v = withOp 0x14 w → ∃ t, exec (.event q w) s = .next t
        ∧ aget (fun _ => 0) t.seq.hostEv (evKey v) = aget (fun _ => 0) s.seq.hostEv (evKey v) + evCount v
        ∧ (∀ k, k ≠ evKey v → aget (fun _ => 0) t.seq.hostEv k = aget (fun _ => 0) s.seq.hostEv k)
        ∧ t.mem = s.mem ∧ t.arr = s.arr ∧ t.regs = s.regs)
    ∧ (v = withOp 0x15 w → ∃ t, exec (.ledger q w) s = .next t ∧ t.cfl.ledgerH = cmdNat v 4 4 ∧ t.cfl.ledgerMode = cmdNat v 8 1
        ∧ t.mem = s.mem ∧ t.arr = s.arr ∧ t.regs = s.regs)

/-- With the device on and nothing waiting on the host side. A write to THM_CAP_REQ of less than 1000 or more than 4000 W,
its reserved bits zero (of any other value RegistersAreWritten speaks, under assumption 82), is answered with
LENGTH_RANGE and changes nothing. One within range is in THM_CAP_REQ, and neither the driver cap nor the cap in force
changes; action 6 makes it the driver cap, and a later write before that action replaces it. The cap in force follows the thermal and the input cap at every moment.
Rests on R378. -/
def Obligations.TheDriverCapWaitsForActionSix : Prop :=
  ∀ (r : Requester) (off v w : Word) (s : State), off.toNat = pageBase .thm 0 + 0x100 → regReaches s .thm 0 0x100 →
    (v.toNat < 4096 → (v.toNat < 1000 ∨ 4000 < v.toNat) → regWrite s off.toNat v = (s, stLen) ∧ exec (.registerWrite r off v) s = .next s)
    ∧ (1000 ≤ v.toNat → v.toNat ≤ 4000 → (regWrite s off.toNat v).2 = stOK ∧ ∃ t, exec (.registerWrite r off v) s = .next t
        ∧ pgGet t .thm 0 0x100 = v ∧ t.thm.capDrv = s.thm.capDrv ∧ capForce t = capForce s
        ∧ (action6 t).thm.capDrv = v.toNat
        ∧ (1000 ≤ w.toNat → w.toNat ≤ 4000 → ∃ u, exec (.registerWrite r off w) t = .next u ∧ u.thm.capDrv = s.thm.capDrv
            ∧ (action6 u).thm.capDrv = w.toNat))
    ∧ (∀ x y : Word, capForce (pgSet (pgSet s .thm 0 0x108 x) .thm 0 0x10c y) = min (min 4000 s.thm.capDrv) (min x.toNat y.toNat))

/-- For every F32 a above zero: enc_s8(a) is a code from 0x00 to 0xfe, no other such code has a value nearer to a, and
where another one is as near its bit 0 is clear. A value below 2^-15 gives 0x00 and one above 114,688, infinity
included, gives 0xfe.
Rests on R125. -/
def Obligations.TheBlockScaleIsTheNearestCode : Prop :=
  ∀ a : F32,
    (∀ (m : Nat) (e : Int) (v : Rat) (val d : Nat → Rat), f32V a = .fin false m e → m ≠ 0 → v = (m : Rat) * (2 : Rat) ^ e →
      (∀ c, val c = ((8 + c % 8 : Nat) : Rat) * (2 : Rat) ^ (c / 8) / 2 ^ 18) → (∀ c, d c = if val c ≤ v then v - val c else val c - v) →
      (encS8 a).toNat ≤ 0xfe
      ∧ (∀ c, c ≤ 0xfe → d (encS8 a).toNat ≤ d c)
      ∧ (∀ c, c ≤ 0xfe → c ≠ (encS8 a).toNat → d (encS8 a).toNat = d c → (encS8 a).toNat % 2 = 0)
      ∧ (v < 1 / 2 ^ 15 → encS8 a = 0x00) ∧ (114688 < v → encS8 a = 0xfe))
    ∧ (f32V a = .inf false → encS8 a = 0xfe)
end

