-- ==== Sys2Proof/Laws/Cache.lean ====
section
/-! SUPPORT. What an access through the memory-side cache can change: the slices' lines and the counters, and nothing
else. -/

namespace Sys2Proof.Machine

theorem foldl_same {α β : Type} (g : State → β) (f : State → α → State) (h : ∀ s x, g (f s x) = g s) (l : List α) (s : State) :
    g (l.foldl f s) = g s := by
  induction l generalizing s with
  | nil => rfl
  | cons x r ih => simp [ih, h]

/-- An access leaves everything but the slices, the counters and what a test of errors counts as it is. -/
theorem memAccess_same {β : Type} (g : State → β) (hm : ∀ s m, g { s with msc := m } = g s) (hb : ∀ s p i o n, g (bump s p i o n) = g s)
    (ht : ∀ s p i o n, g (tstCount s p i o n) = g s) (hd : ∀ s, g (draw s).2 = g s) (prio : Nat) (k : AccKind) (bypass work : Bool) (h off n : Nat) (s : State) : g (memAccess prio k bypass work h off n s) = g s := by
  have inj : ∀ stack n s, g (injectErrs stack n s) = g s := by
    intro stack n s
    unfold injectErrs
    dsimp only
    split
    · rfl
    · rw [hb, ht, hd]
  have run : ∀ alloc stack phys lo n s, g (runAccess prio k alloc stack phys lo n s) = g s := by
    intro alloc stack phys lo n s
    unfold runAccess
    split
    · rfl
    · split
      · dsimp only; unfold hbmBytes; rw [inj, hb, hb]
      · dsimp only
        rw [inj, foldl_same g _ (fun s j => by unfold hbmBytes; exact hb ..)]
        unfold hbmBytes
        rw [hb, hb, hb, hb, hm]
  unfold memAccess
  split
  · rfl
  · exact foldl_same g _ (fun s p => run ..) _ s

@[simp] theorem memAccess_mem (prio : Nat) (k : AccKind) (bypass work : Bool) (h off n : Nat) (s : State) :
    (memAccess prio k bypass work h off n s).mem = s.mem := memAccess_same State.mem (fun _ _ => rfl) (fun _ _ _ _ _ => rfl) (fun _ _ _ _ _ => rfl) (fun _ => rfl) ..
@[simp] theorem memAccess_arr (prio : Nat) (k : AccKind) (bypass work : Bool) (h off n : Nat) (s : State) :
    (memAccess prio k bypass work h off n s).arr = s.arr := memAccess_same State.arr (fun _ _ => rfl) (fun _ _ _ _ _ => rfl) (fun _ _ _ _ _ => rfl) (fun _ => rfl) ..
@[simp] theorem memAccess_seq (prio : Nat) (k : AccKind) (bypass work : Bool) (h off n : Nat) (s : State) :
    (memAccess prio k bypass work h off n s).seq = s.seq := memAccess_same State.seq (fun _ _ => rfl) (fun _ _ _ _ _ => rfl) (fun _ _ _ _ _ => rfl) (fun _ => rfl) ..
@[simp] theorem memAccess_dma (prio : Nat) (k : AccKind) (bypass work : Bool) (h off n : Nat) (s : State) :
    (memAccess prio k bypass work h off n s).dma = s.dma := memAccess_same State.dma (fun _ _ => rfl) (fun _ _ _ _ _ => rfl) (fun _ _ _ _ _ => rfl) (fun _ => rfl) ..
@[simp] theorem memAccess_upd (prio : Nat) (k : AccKind) (bypass work : Bool) (h off n : Nat) (s : State) :
    (memAccess prio k bypass work h off n s).upd = s.upd := memAccess_same State.upd (fun _ _ => rfl) (fun _ _ _ _ _ => rfl) (fun _ _ _ _ _ => rfl) (fun _ => rfl) ..
@[simp] theorem memAccess_cfl (prio : Nat) (k : AccKind) (bypass work : Bool) (h off n : Nat) (s : State) :
    (memAccess prio k bypass work h off n s).cfl = s.cfl := memAccess_same State.cfl (fun _ _ => rfl) (fun _ _ _ _ _ => rfl) (fun _ _ _ _ _ => rfl) (fun _ => rfl) ..
@[simp] theorem memAccess_hst (prio : Nat) (k : AccKind) (bypass work : Bool) (h off n : Nat) (s : State) :
    (memAccess prio k bypass work h off n s).hst = s.hst := memAccess_same State.hst (fun _ _ => rfl) (fun _ _ _ _ _ => rfl) (fun _ _ _ _ _ => rfl) (fun _ => rfl) ..

end Sys2Proof.Machine
end

