-- ==== Sys2Proof/Laws/State.lean ====
section
/-! SUPPORT. What each update of the state leaves as it is: one lemma per operation and field, and what the update
writes. -/

namespace Sys2Proof.Machine

/-! ### regSet -/

@[simp] theorem regSet_fit (s : State) (off : Nat) (v : Word) : (regSet s off v).fit = s.fit := rfl
@[simp] theorem regSet_ctr (s : State) (off : Nat) (v : Word) : (regSet s off v).ctr = s.ctr := rfl
@[simp] theorem regSet_lat (s : State) (off : Nat) (v : Word) : (regSet s off v).lat = s.lat := rfl
@[simp] theorem regSet_perSeq (s : State) (off : Nat) (v : Word) : (regSet s off v).perSeq = s.perSeq := rfl
@[simp] theorem regSet_perPage (s : State) (off : Nat) (v : Word) : (regSet s off v).perPage = s.perPage := rfl
@[simp] theorem regSet_holdHost (s : State) (off : Nat) (v : Word) : (regSet s off v).holdHost = s.holdHost := rfl
@[simp] theorem regSet_holdMp (s : State) (off : Nat) (v : Word) : (regSet s off v).holdMp = s.holdMp := rfl
@[simp] theorem regSet_irq (s : State) (off : Nat) (v : Word) : (regSet s off v).irq = s.irq := rfl
@[simp] theorem regSet_arr (s : State) (off : Nat) (v : Word) : (regSet s off v).arr = s.arr := rfl
@[simp] theorem regSet_dma (s : State) (off : Nat) (v : Word) : (regSet s off v).dma = s.dma := rfl
@[simp] theorem regSet_mem (s : State) (off : Nat) (v : Word) : (regSet s off v).mem = s.mem := rfl
@[simp] theorem regSet_msc (s : State) (off : Nat) (v : Word) : (regSet s off v).msc = s.msc := rfl
@[simp] theorem regSet_seq (s : State) (off : Nat) (v : Word) : (regSet s off v).seq = s.seq := rfl
@[simp] theorem regSet_upd (s : State) (off : Nat) (v : Word) : (regSet s off v).upd = s.upd := rfl
@[simp] theorem regSet_port (s : State) (off : Nat) (v : Word) : (regSet s off v).port = s.port := rfl
@[simp] theorem regSet_cfl (s : State) (off : Nat) (v : Word) : (regSet s off v).cfl = s.cfl := rfl
@[simp] theorem regSet_hst (s : State) (off : Nat) (v : Word) : (regSet s off v).hst = s.hst := rfl
@[simp] theorem regSet_pwr (s : State) (off : Nat) (v : Word) : (regSet s off v).pwr = s.pwr := rfl
@[simp] theorem regSet_thm (s : State) (off : Nat) (v : Word) : (regSet s off v).thm = s.thm := rfl
@[simp] theorem regSet_mp (s : State) (off : Nat) (v : Word) : (regSet s off v).mp = s.mp := rfl
@[simp] theorem regSet_log (s : State) (off : Nat) (v : Word) : (regSet s off v).log = s.log := rfl
@[simp] theorem regSet_wire (s : State) (off : Nat) (v : Word) : (regSet s off v).wire = s.wire := rfl
@[simp] theorem regSet_drawn (s : State) (off : Nat) (v : Word) : (regSet s off v).drawn = s.drawn := rfl
@[simp] theorem regSet_pending (s : State) (off : Nat) (v : Word) : (regSet s off v).pending = s.pending := rfl

/-! ### pgSet -/

@[simp] theorem pgSet_fit (s : State) (p : Pg) (i o : Nat) (v : Word) : (pgSet s p i o v).fit = s.fit := rfl
@[simp] theorem pgSet_ctr (s : State) (p : Pg) (i o : Nat) (v : Word) : (pgSet s p i o v).ctr = s.ctr := rfl
@[simp] theorem pgSet_lat (s : State) (p : Pg) (i o : Nat) (v : Word) : (pgSet s p i o v).lat = s.lat := rfl
@[simp] theorem pgSet_perSeq (s : State) (p : Pg) (i o : Nat) (v : Word) : (pgSet s p i o v).perSeq = s.perSeq := rfl
@[simp] theorem pgSet_perPage (s : State) (p : Pg) (i o : Nat) (v : Word) : (pgSet s p i o v).perPage = s.perPage := rfl
@[simp] theorem pgSet_holdHost (s : State) (p : Pg) (i o : Nat) (v : Word) : (pgSet s p i o v).holdHost = s.holdHost := rfl
@[simp] theorem pgSet_holdMp (s : State) (p : Pg) (i o : Nat) (v : Word) : (pgSet s p i o v).holdMp = s.holdMp := rfl
@[simp] theorem pgSet_irq (s : State) (p : Pg) (i o : Nat) (v : Word) : (pgSet s p i o v).irq = s.irq := rfl
@[simp] theorem pgSet_arr (s : State) (p : Pg) (i o : Nat) (v : Word) : (pgSet s p i o v).arr = s.arr := rfl
@[simp] theorem pgSet_dma (s : State) (p : Pg) (i o : Nat) (v : Word) : (pgSet s p i o v).dma = s.dma := rfl
@[simp] theorem pgSet_mem (s : State) (p : Pg) (i o : Nat) (v : Word) : (pgSet s p i o v).mem = s.mem := rfl
@[simp] theorem pgSet_msc (s : State) (p : Pg) (i o : Nat) (v : Word) : (pgSet s p i o v).msc = s.msc := rfl
@[simp] theorem pgSet_seq (s : State) (p : Pg) (i o : Nat) (v : Word) : (pgSet s p i o v).seq = s.seq := rfl
@[simp] theorem pgSet_upd (s : State) (p : Pg) (i o : Nat) (v : Word) : (pgSet s p i o v).upd = s.upd := rfl
@[simp] theorem pgSet_port (s : State) (p : Pg) (i o : Nat) (v : Word) : (pgSet s p i o v).port = s.port := rfl
@[simp] theorem pgSet_cfl (s : State) (p : Pg) (i o : Nat) (v : Word) : (pgSet s p i o v).cfl = s.cfl := rfl
@[simp] theorem pgSet_hst (s : State) (p : Pg) (i o : Nat) (v : Word) : (pgSet s p i o v).hst = s.hst := rfl
@[simp] theorem pgSet_pwr (s : State) (p : Pg) (i o : Nat) (v : Word) : (pgSet s p i o v).pwr = s.pwr := rfl
@[simp] theorem pgSet_thm (s : State) (p : Pg) (i o : Nat) (v : Word) : (pgSet s p i o v).thm = s.thm := rfl
@[simp] theorem pgSet_mp (s : State) (p : Pg) (i o : Nat) (v : Word) : (pgSet s p i o v).mp = s.mp := rfl
@[simp] theorem pgSet_log (s : State) (p : Pg) (i o : Nat) (v : Word) : (pgSet s p i o v).log = s.log := rfl
@[simp] theorem pgSet_wire (s : State) (p : Pg) (i o : Nat) (v : Word) : (pgSet s p i o v).wire = s.wire := rfl
@[simp] theorem pgSet_drawn (s : State) (p : Pg) (i o : Nat) (v : Word) : (pgSet s p i o v).drawn = s.drawn := rfl
@[simp] theorem pgSet_pending (s : State) (p : Pg) (i o : Nat) (v : Word) : (pgSet s p i o v).pending = s.pending := rfl

/-! ### send -/

@[simp] theorem send_fit (s : State) (m : Msg) : (send s m).fit = s.fit := rfl
@[simp] theorem send_regs (s : State) (m : Msg) : (send s m).regs = s.regs := rfl
@[simp] theorem send_ctr (s : State) (m : Msg) : (send s m).ctr = s.ctr := rfl
@[simp] theorem send_lat (s : State) (m : Msg) : (send s m).lat = s.lat := rfl
@[simp] theorem send_perSeq (s : State) (m : Msg) : (send s m).perSeq = s.perSeq := rfl
@[simp] theorem send_perPage (s : State) (m : Msg) : (send s m).perPage = s.perPage := rfl
@[simp] theorem send_holdHost (s : State) (m : Msg) : (send s m).holdHost = s.holdHost := rfl
@[simp] theorem send_holdMp (s : State) (m : Msg) : (send s m).holdMp = s.holdMp := rfl
@[simp] theorem send_irq (s : State) (m : Msg) : (send s m).irq = s.irq := rfl
@[simp] theorem send_arr (s : State) (m : Msg) : (send s m).arr = s.arr := rfl
@[simp] theorem send_dma (s : State) (m : Msg) : (send s m).dma = s.dma := rfl
@[simp] theorem send_mem (s : State) (m : Msg) : (send s m).mem = s.mem := rfl
@[simp] theorem send_msc (s : State) (m : Msg) : (send s m).msc = s.msc := rfl
@[simp] theorem send_seq (s : State) (m : Msg) : (send s m).seq = s.seq := rfl
@[simp] theorem send_upd (s : State) (m : Msg) : (send s m).upd = s.upd := rfl
@[simp] theorem send_port (s : State) (m : Msg) : (send s m).port = s.port := rfl
@[simp] theorem send_cfl (s : State) (m : Msg) : (send s m).cfl = s.cfl := rfl
@[simp] theorem send_hst (s : State) (m : Msg) : (send s m).hst = s.hst := rfl
@[simp] theorem send_pwr (s : State) (m : Msg) : (send s m).pwr = s.pwr := rfl
@[simp] theorem send_thm (s : State) (m : Msg) : (send s m).thm = s.thm := rfl
@[simp] theorem send_mp (s : State) (m : Msg) : (send s m).mp = s.mp := rfl
@[simp] theorem send_log (s : State) (m : Msg) : (send s m).log = s.log := rfl
@[simp] theorem send_drawn (s : State) (m : Msg) : (send s m).drawn = s.drawn := rfl
@[simp] theorem send_pending (s : State) (m : Msg) : (send s m).pending = s.pending := rfl

/-! ### ctrSet -/

@[simp] theorem ctrSet_fit (s : State) (p : Pg) (i o : Nat) (v : DWord) : (ctrSet s p i o v).fit = s.fit := rfl
@[simp] theorem ctrSet_regs (s : State) (p : Pg) (i o : Nat) (v : DWord) : (ctrSet s p i o v).regs = s.regs := rfl
@[simp] theorem ctrSet_lat (s : State) (p : Pg) (i o : Nat) (v : DWord) : (ctrSet s p i o v).lat = s.lat := rfl
@[simp] theorem ctrSet_perSeq (s : State) (p : Pg) (i o : Nat) (v : DWord) : (ctrSet s p i o v).perSeq = s.perSeq := rfl
@[simp] theorem ctrSet_perPage (s : State) (p : Pg) (i o : Nat) (v : DWord) : (ctrSet s p i o v).perPage = s.perPage := rfl
@[simp] theorem ctrSet_holdHost (s : State) (p : Pg) (i o : Nat) (v : DWord) : (ctrSet s p i o v).holdHost = s.holdHost := rfl
@[simp] theorem ctrSet_holdMp (s : State) (p : Pg) (i o : Nat) (v : DWord) : (ctrSet s p i o v).holdMp = s.holdMp := rfl
@[simp] theorem ctrSet_irq (s : State) (p : Pg) (i o : Nat) (v : DWord) : (ctrSet s p i o v).irq = s.irq := rfl
@[simp] theorem ctrSet_arr (s : State) (p : Pg) (i o : Nat) (v : DWord) : (ctrSet s p i o v).arr = s.arr := rfl
@[simp] theorem ctrSet_dma (s : State) (p : Pg) (i o : Nat) (v : DWord) : (ctrSet s p i o v).dma = s.dma := rfl
@[simp] theorem ctrSet_mem (s : State) (p : Pg) (i o : Nat) (v : DWord) : (ctrSet s p i o v).mem = s.mem := rfl
@[simp] theorem ctrSet_msc (s : State) (p : Pg) (i o : Nat) (v : DWord) : (ctrSet s p i o v).msc = s.msc := rfl
@[simp] theorem ctrSet_seq (s : State) (p : Pg) (i o : Nat) (v : DWord) : (ctrSet s p i o v).seq = s.seq := rfl
@[simp] theorem ctrSet_upd (s : State) (p : Pg) (i o : Nat) (v : DWord) : (ctrSet s p i o v).upd = s.upd := rfl
@[simp] theorem ctrSet_port (s : State) (p : Pg) (i o : Nat) (v : DWord) : (ctrSet s p i o v).port = s.port := rfl
@[simp] theorem ctrSet_cfl (s : State) (p : Pg) (i o : Nat) (v : DWord) : (ctrSet s p i o v).cfl = s.cfl := rfl
@[simp] theorem ctrSet_hst (s : State) (p : Pg) (i o : Nat) (v : DWord) : (ctrSet s p i o v).hst = s.hst := rfl
@[simp] theorem ctrSet_pwr (s : State) (p : Pg) (i o : Nat) (v : DWord) : (ctrSet s p i o v).pwr = s.pwr := rfl
@[simp] theorem ctrSet_thm (s : State) (p : Pg) (i o : Nat) (v : DWord) : (ctrSet s p i o v).thm = s.thm := rfl
@[simp] theorem ctrSet_mp (s : State) (p : Pg) (i o : Nat) (v : DWord) : (ctrSet s p i o v).mp = s.mp := rfl
@[simp] theorem ctrSet_log (s : State) (p : Pg) (i o : Nat) (v : DWord) : (ctrSet s p i o v).log = s.log := rfl
@[simp] theorem ctrSet_wire (s : State) (p : Pg) (i o : Nat) (v : DWord) : (ctrSet s p i o v).wire = s.wire := rfl
@[simp] theorem ctrSet_drawn (s : State) (p : Pg) (i o : Nat) (v : DWord) : (ctrSet s p i o v).drawn = s.drawn := rfl
@[simp] theorem ctrSet_pending (s : State) (p : Pg) (i o : Nat) (v : DWord) : (ctrSet s p i o v).pending = s.pending := rfl

/-! ### bump -/

@[simp] theorem bump_fit (s : State) (p : Pg) (i o n : Nat) : (bump s p i o n).fit = s.fit := rfl
@[simp] theorem bump_regs (s : State) (p : Pg) (i o n : Nat) : (bump s p i o n).regs = s.regs := rfl
@[simp] theorem bump_lat (s : State) (p : Pg) (i o n : Nat) : (bump s p i o n).lat = s.lat := rfl
@[simp] theorem bump_perSeq (s : State) (p : Pg) (i o n : Nat) : (bump s p i o n).perSeq = s.perSeq := rfl
@[simp] theorem bump_perPage (s : State) (p : Pg) (i o n : Nat) : (bump s p i o n).perPage = s.perPage := rfl
@[simp] theorem bump_holdHost (s : State) (p : Pg) (i o n : Nat) : (bump s p i o n).holdHost = s.holdHost := rfl
@[simp] theorem bump_holdMp (s : State) (p : Pg) (i o n : Nat) : (bump s p i o n).holdMp = s.holdMp := rfl
@[simp] theorem bump_irq (s : State) (p : Pg) (i o n : Nat) : (bump s p i o n).irq = s.irq := rfl
@[simp] theorem bump_arr (s : State) (p : Pg) (i o n : Nat) : (bump s p i o n).arr = s.arr := rfl
@[simp] theorem bump_dma (s : State) (p : Pg) (i o n : Nat) : (bump s p i o n).dma = s.dma := rfl
@[simp] theorem bump_mem (s : State) (p : Pg) (i o n : Nat) : (bump s p i o n).mem = s.mem := rfl
@[simp] theorem bump_msc (s : State) (p : Pg) (i o n : Nat) : (bump s p i o n).msc = s.msc := rfl
@[simp] theorem bump_seq (s : State) (p : Pg) (i o n : Nat) : (bump s p i o n).seq = s.seq := rfl
@[simp] theorem bump_upd (s : State) (p : Pg) (i o n : Nat) : (bump s p i o n).upd = s.upd := rfl
@[simp] theorem bump_port (s : State) (p : Pg) (i o n : Nat) : (bump s p i o n).port = s.port := rfl
@[simp] theorem bump_cfl (s : State) (p : Pg) (i o n : Nat) : (bump s p i o n).cfl = s.cfl := rfl
@[simp] theorem bump_hst (s : State) (p : Pg) (i o n : Nat) : (bump s p i o n).hst = s.hst := rfl
@[simp] theorem bump_pwr (s : State) (p : Pg) (i o n : Nat) : (bump s p i o n).pwr = s.pwr := rfl
@[simp] theorem bump_thm (s : State) (p : Pg) (i o n : Nat) : (bump s p i o n).thm = s.thm := rfl
@[simp] theorem bump_mp (s : State) (p : Pg) (i o n : Nat) : (bump s p i o n).mp = s.mp := rfl
@[simp] theorem bump_log (s : State) (p : Pg) (i o n : Nat) : (bump s p i o n).log = s.log := rfl
@[simp] theorem bump_wire (s : State) (p : Pg) (i o n : Nat) : (bump s p i o n).wire = s.wire := rfl
@[simp] theorem bump_drawn (s : State) (p : Pg) (i o n : Nat) : (bump s p i o n).drawn = s.drawn := rfl
@[simp] theorem bump_pending (s : State) (p : Pg) (i o n : Nat) : (bump s p i o n).pending = s.pending := rfl

/-! ### arrSet -/

@[simp] theorem arrSet_fit (s : State) (a : Nat) (r : Arr) : (arrSet s a r).fit = s.fit := rfl
@[simp] theorem arrSet_regs (s : State) (a : Nat) (r : Arr) : (arrSet s a r).regs = s.regs := rfl
@[simp] theorem arrSet_ctr (s : State) (a : Nat) (r : Arr) : (arrSet s a r).ctr = s.ctr := rfl
@[simp] theorem arrSet_lat (s : State) (a : Nat) (r : Arr) : (arrSet s a r).lat = s.lat := rfl
@[simp] theorem arrSet_perSeq (s : State) (a : Nat) (r : Arr) : (arrSet s a r).perSeq = s.perSeq := rfl
@[simp] theorem arrSet_perPage (s : State) (a : Nat) (r : Arr) : (arrSet s a r).perPage = s.perPage := rfl
@[simp] theorem arrSet_holdHost (s : State) (a : Nat) (r : Arr) : (arrSet s a r).holdHost = s.holdHost := rfl
@[simp] theorem arrSet_holdMp (s : State) (a : Nat) (r : Arr) : (arrSet s a r).holdMp = s.holdMp := rfl
@[simp] theorem arrSet_irq (s : State) (a : Nat) (r : Arr) : (arrSet s a r).irq = s.irq := rfl
@[simp] theorem arrSet_dma (s : State) (a : Nat) (r : Arr) : (arrSet s a r).dma = s.dma := rfl
@[simp] theorem arrSet_mem (s : State) (a : Nat) (r : Arr) : (arrSet s a r).mem = s.mem := rfl
@[simp] theorem arrSet_msc (s : State) (a : Nat) (r : Arr) : (arrSet s a r).msc = s.msc := rfl
@[simp] theorem arrSet_seq (s : State) (a : Nat) (r : Arr) : (arrSet s a r).seq = s.seq := rfl
@[simp] theorem arrSet_upd (s : State) (a : Nat) (r : Arr) : (arrSet s a r).upd = s.upd := rfl
@[simp] theorem arrSet_port (s : State) (a : Nat) (r : Arr) : (arrSet s a r).port = s.port := rfl
@[simp] theorem arrSet_cfl (s : State) (a : Nat) (r : Arr) : (arrSet s a r).cfl = s.cfl := rfl
@[simp] theorem arrSet_hst (s : State) (a : Nat) (r : Arr) : (arrSet s a r).hst = s.hst := rfl
@[simp] theorem arrSet_pwr (s : State) (a : Nat) (r : Arr) : (arrSet s a r).pwr = s.pwr := rfl
@[simp] theorem arrSet_thm (s : State) (a : Nat) (r : Arr) : (arrSet s a r).thm = s.thm := rfl
@[simp] theorem arrSet_mp (s : State) (a : Nat) (r : Arr) : (arrSet s a r).mp = s.mp := rfl
@[simp] theorem arrSet_log (s : State) (a : Nat) (r : Arr) : (arrSet s a r).log = s.log := rfl
@[simp] theorem arrSet_wire (s : State) (a : Nat) (r : Arr) : (arrSet s a r).wire = s.wire := rfl
@[simp] theorem arrSet_drawn (s : State) (a : Nat) (r : Arr) : (arrSet s a r).drawn = s.drawn := rfl
@[simp] theorem arrSet_pending (s : State) (a : Nat) (r : Arr) : (arrSet s a r).pending = s.pending := rfl

/-! ### arrMod -/

@[simp] theorem arrMod_fit (s : State) (a : Nat) (f : Arr → Arr) : (arrMod s a f).fit = s.fit := rfl
@[simp] theorem arrMod_regs (s : State) (a : Nat) (f : Arr → Arr) : (arrMod s a f).regs = s.regs := rfl
@[simp] theorem arrMod_ctr (s : State) (a : Nat) (f : Arr → Arr) : (arrMod s a f).ctr = s.ctr := rfl
@[simp] theorem arrMod_lat (s : State) (a : Nat) (f : Arr → Arr) : (arrMod s a f).lat = s.lat := rfl
@[simp] theorem arrMod_perSeq (s : State) (a : Nat) (f : Arr → Arr) : (arrMod s a f).perSeq = s.perSeq := rfl
@[simp] theorem arrMod_perPage (s : State) (a : Nat) (f : Arr → Arr) : (arrMod s a f).perPage = s.perPage := rfl
@[simp] theorem arrMod_holdHost (s : State) (a : Nat) (f : Arr → Arr) : (arrMod s a f).holdHost = s.holdHost := rfl
@[simp] theorem arrMod_holdMp (s : State) (a : Nat) (f : Arr → Arr) : (arrMod s a f).holdMp = s.holdMp := rfl
@[simp] theorem arrMod_irq (s : State) (a : Nat) (f : Arr → Arr) : (arrMod s a f).irq = s.irq := rfl
@[simp] theorem arrMod_dma (s : State) (a : Nat) (f : Arr → Arr) : (arrMod s a f).dma = s.dma := rfl
@[simp] theorem arrMod_mem (s : State) (a : Nat) (f : Arr → Arr) : (arrMod s a f).mem = s.mem := rfl
@[simp] theorem arrMod_msc (s : State) (a : Nat) (f : Arr → Arr) : (arrMod s a f).msc = s.msc := rfl
@[simp] theorem arrMod_seq (s : State) (a : Nat) (f : Arr → Arr) : (arrMod s a f).seq = s.seq := rfl
@[simp] theorem arrMod_upd (s : State) (a : Nat) (f : Arr → Arr) : (arrMod s a f).upd = s.upd := rfl
@[simp] theorem arrMod_port (s : State) (a : Nat) (f : Arr → Arr) : (arrMod s a f).port = s.port := rfl
@[simp] theorem arrMod_cfl (s : State) (a : Nat) (f : Arr → Arr) : (arrMod s a f).cfl = s.cfl := rfl
@[simp] theorem arrMod_hst (s : State) (a : Nat) (f : Arr → Arr) : (arrMod s a f).hst = s.hst := rfl
@[simp] theorem arrMod_pwr (s : State) (a : Nat) (f : Arr → Arr) : (arrMod s a f).pwr = s.pwr := rfl
@[simp] theorem arrMod_thm (s : State) (a : Nat) (f : Arr → Arr) : (arrMod s a f).thm = s.thm := rfl
@[simp] theorem arrMod_mp (s : State) (a : Nat) (f : Arr → Arr) : (arrMod s a f).mp = s.mp := rfl
@[simp] theorem arrMod_log (s : State) (a : Nat) (f : Arr → Arr) : (arrMod s a f).log = s.log := rfl
@[simp] theorem arrMod_wire (s : State) (a : Nat) (f : Arr → Arr) : (arrMod s a f).wire = s.wire := rfl
@[simp] theorem arrMod_drawn (s : State) (a : Nat) (f : Arr → Arr) : (arrMod s a f).drawn = s.drawn := rfl
@[simp] theorem arrMod_pending (s : State) (a : Nat) (f : Arr → Arr) : (arrMod s a f).pending = s.pending := rfl

/-! ### dmaMod -/

@[simp] theorem dmaMod_fit (s : State) (e : Nat) (f : Dma → Dma) : (dmaMod s e f).fit = s.fit := rfl
@[simp] theorem dmaMod_regs (s : State) (e : Nat) (f : Dma → Dma) : (dmaMod s e f).regs = s.regs := rfl
@[simp] theorem dmaMod_ctr (s : State) (e : Nat) (f : Dma → Dma) : (dmaMod s e f).ctr = s.ctr := rfl
@[simp] theorem dmaMod_lat (s : State) (e : Nat) (f : Dma → Dma) : (dmaMod s e f).lat = s.lat := rfl
@[simp] theorem dmaMod_perSeq (s : State) (e : Nat) (f : Dma → Dma) : (dmaMod s e f).perSeq = s.perSeq := rfl
@[simp] theorem dmaMod_perPage (s : State) (e : Nat) (f : Dma → Dma) : (dmaMod s e f).perPage = s.perPage := rfl
@[simp] theorem dmaMod_holdHost (s : State) (e : Nat) (f : Dma → Dma) : (dmaMod s e f).holdHost = s.holdHost := rfl
@[simp] theorem dmaMod_holdMp (s : State) (e : Nat) (f : Dma → Dma) : (dmaMod s e f).holdMp = s.holdMp := rfl
@[simp] theorem dmaMod_irq (s : State) (e : Nat) (f : Dma → Dma) : (dmaMod s e f).irq = s.irq := rfl
@[simp] theorem dmaMod_arr (s : State) (e : Nat) (f : Dma → Dma) : (dmaMod s e f).arr = s.arr := rfl
@[simp] theorem dmaMod_mem (s : State) (e : Nat) (f : Dma → Dma) : (dmaMod s e f).mem = s.mem := rfl
@[simp] theorem dmaMod_msc (s : State) (e : Nat) (f : Dma → Dma) : (dmaMod s e f).msc = s.msc := rfl
@[simp] theorem dmaMod_seq (s : State) (e : Nat) (f : Dma → Dma) : (dmaMod s e f).seq = s.seq := rfl
@[simp] theorem dmaMod_upd (s : State) (e : Nat) (f : Dma → Dma) : (dmaMod s e f).upd = s.upd := rfl
@[simp] theorem dmaMod_port (s : State) (e : Nat) (f : Dma → Dma) : (dmaMod s e f).port = s.port := rfl
@[simp] theorem dmaMod_cfl (s : State) (e : Nat) (f : Dma → Dma) : (dmaMod s e f).cfl = s.cfl := rfl
@[simp] theorem dmaMod_hst (s : State) (e : Nat) (f : Dma → Dma) : (dmaMod s e f).hst = s.hst := rfl
@[simp] theorem dmaMod_pwr (s : State) (e : Nat) (f : Dma → Dma) : (dmaMod s e f).pwr = s.pwr := rfl
@[simp] theorem dmaMod_thm (s : State) (e : Nat) (f : Dma → Dma) : (dmaMod s e f).thm = s.thm := rfl
@[simp] theorem dmaMod_mp (s : State) (e : Nat) (f : Dma → Dma) : (dmaMod s e f).mp = s.mp := rfl
@[simp] theorem dmaMod_log (s : State) (e : Nat) (f : Dma → Dma) : (dmaMod s e f).log = s.log := rfl
@[simp] theorem dmaMod_wire (s : State) (e : Nat) (f : Dma → Dma) : (dmaMod s e f).wire = s.wire := rfl
@[simp] theorem dmaMod_drawn (s : State) (e : Nat) (f : Dma → Dma) : (dmaMod s e f).drawn = s.drawn := rfl
@[simp] theorem dmaMod_pending (s : State) (e : Nat) (f : Dma → Dma) : (dmaMod s e f).pending = s.pending := rfl

/-! ### updMod -/

@[simp] theorem updMod_fit (s : State) (u : Nat) (f : Upd → Upd) : (updMod s u f).fit = s.fit := rfl
@[simp] theorem updMod_regs (s : State) (u : Nat) (f : Upd → Upd) : (updMod s u f).regs = s.regs := rfl
@[simp] theorem updMod_ctr (s : State) (u : Nat) (f : Upd → Upd) : (updMod s u f).ctr = s.ctr := rfl
@[simp] theorem updMod_lat (s : State) (u : Nat) (f : Upd → Upd) : (updMod s u f).lat = s.lat := rfl
@[simp] theorem updMod_perSeq (s : State) (u : Nat) (f : Upd → Upd) : (updMod s u f).perSeq = s.perSeq := rfl
@[simp] theorem updMod_perPage (s : State) (u : Nat) (f : Upd → Upd) : (updMod s u f).perPage = s.perPage := rfl
@[simp] theorem updMod_holdHost (s : State) (u : Nat) (f : Upd → Upd) : (updMod s u f).holdHost = s.holdHost := rfl
@[simp] theorem updMod_holdMp (s : State) (u : Nat) (f : Upd → Upd) : (updMod s u f).holdMp = s.holdMp := rfl
@[simp] theorem updMod_irq (s : State) (u : Nat) (f : Upd → Upd) : (updMod s u f).irq = s.irq := rfl
@[simp] theorem updMod_arr (s : State) (u : Nat) (f : Upd → Upd) : (updMod s u f).arr = s.arr := rfl
@[simp] theorem updMod_dma (s : State) (u : Nat) (f : Upd → Upd) : (updMod s u f).dma = s.dma := rfl
@[simp] theorem updMod_mem (s : State) (u : Nat) (f : Upd → Upd) : (updMod s u f).mem = s.mem := rfl
@[simp] theorem updMod_msc (s : State) (u : Nat) (f : Upd → Upd) : (updMod s u f).msc = s.msc := rfl
@[simp] theorem updMod_seq (s : State) (u : Nat) (f : Upd → Upd) : (updMod s u f).seq = s.seq := rfl
@[simp] theorem updMod_port (s : State) (u : Nat) (f : Upd → Upd) : (updMod s u f).port = s.port := rfl
@[simp] theorem updMod_cfl (s : State) (u : Nat) (f : Upd → Upd) : (updMod s u f).cfl = s.cfl := rfl
@[simp] theorem updMod_hst (s : State) (u : Nat) (f : Upd → Upd) : (updMod s u f).hst = s.hst := rfl
@[simp] theorem updMod_pwr (s : State) (u : Nat) (f : Upd → Upd) : (updMod s u f).pwr = s.pwr := rfl
@[simp] theorem updMod_thm (s : State) (u : Nat) (f : Upd → Upd) : (updMod s u f).thm = s.thm := rfl
@[simp] theorem updMod_mp (s : State) (u : Nat) (f : Upd → Upd) : (updMod s u f).mp = s.mp := rfl
@[simp] theorem updMod_log (s : State) (u : Nat) (f : Upd → Upd) : (updMod s u f).log = s.log := rfl
@[simp] theorem updMod_wire (s : State) (u : Nat) (f : Upd → Upd) : (updMod s u f).wire = s.wire := rfl
@[simp] theorem updMod_drawn (s : State) (u : Nat) (f : Upd → Upd) : (updMod s u f).drawn = s.drawn := rfl
@[simp] theorem updMod_pending (s : State) (u : Nat) (f : Upd → Upd) : (updMod s u f).pending = s.pending := rfl

/-! ### portMod -/

@[simp] theorem portMod_fit (s : State) (p : Nat) (f : Port → Port) : (portMod s p f).fit = s.fit := rfl
@[simp] theorem portMod_regs (s : State) (p : Nat) (f : Port → Port) : (portMod s p f).regs = s.regs := rfl
@[simp] theorem portMod_ctr (s : State) (p : Nat) (f : Port → Port) : (portMod s p f).ctr = s.ctr := rfl
@[simp] theorem portMod_lat (s : State) (p : Nat) (f : Port → Port) : (portMod s p f).lat = s.lat := rfl
@[simp] theorem portMod_perSeq (s : State) (p : Nat) (f : Port → Port) : (portMod s p f).perSeq = s.perSeq := rfl
@[simp] theorem portMod_perPage (s : State) (p : Nat) (f : Port → Port) : (portMod s p f).perPage = s.perPage := rfl
@[simp] theorem portMod_holdHost (s : State) (p : Nat) (f : Port → Port) : (portMod s p f).holdHost = s.holdHost := rfl
@[simp] theorem portMod_holdMp (s : State) (p : Nat) (f : Port → Port) : (portMod s p f).holdMp = s.holdMp := rfl
@[simp] theorem portMod_irq (s : State) (p : Nat) (f : Port → Port) : (portMod s p f).irq = s.irq := rfl
@[simp] theorem portMod_arr (s : State) (p : Nat) (f : Port → Port) : (portMod s p f).arr = s.arr := rfl
@[simp] theorem portMod_dma (s : State) (p : Nat) (f : Port → Port) : (portMod s p f).dma = s.dma := rfl
@[simp] theorem portMod_mem (s : State) (p : Nat) (f : Port → Port) : (portMod s p f).mem = s.mem := rfl
@[simp] theorem portMod_msc (s : State) (p : Nat) (f : Port → Port) : (portMod s p f).msc = s.msc := rfl
@[simp] theorem portMod_seq (s : State) (p : Nat) (f : Port → Port) : (portMod s p f).seq = s.seq := rfl
@[simp] theorem portMod_upd (s : State) (p : Nat) (f : Port → Port) : (portMod s p f).upd = s.upd := rfl
@[simp] theorem portMod_cfl (s : State) (p : Nat) (f : Port → Port) : (portMod s p f).cfl = s.cfl := rfl
@[simp] theorem portMod_hst (s : State) (p : Nat) (f : Port → Port) : (portMod s p f).hst = s.hst := rfl
@[simp] theorem portMod_pwr (s : State) (p : Nat) (f : Port → Port) : (portMod s p f).pwr = s.pwr := rfl
@[simp] theorem portMod_thm (s : State) (p : Nat) (f : Port → Port) : (portMod s p f).thm = s.thm := rfl
@[simp] theorem portMod_mp (s : State) (p : Nat) (f : Port → Port) : (portMod s p f).mp = s.mp := rfl
@[simp] theorem portMod_log (s : State) (p : Nat) (f : Port → Port) : (portMod s p f).log = s.log := rfl
@[simp] theorem portMod_wire (s : State) (p : Nat) (f : Port → Port) : (portMod s p f).wire = s.wire := rfl
@[simp] theorem portMod_drawn (s : State) (p : Nat) (f : Port → Port) : (portMod s p f).drawn = s.drawn := rfl
@[simp] theorem portMod_pending (s : State) (p : Nat) (f : Port → Port) : (portMod s p f).pending = s.pending := rfl

/-! ### hbmMod -/

@[simp] theorem hbmMod_fit (s : State) (k : Nat) (f : Hbm → Hbm) : (hbmMod s k f).fit = s.fit := rfl
@[simp] theorem hbmMod_regs (s : State) (k : Nat) (f : Hbm → Hbm) : (hbmMod s k f).regs = s.regs := rfl
@[simp] theorem hbmMod_ctr (s : State) (k : Nat) (f : Hbm → Hbm) : (hbmMod s k f).ctr = s.ctr := rfl
@[simp] theorem hbmMod_lat (s : State) (k : Nat) (f : Hbm → Hbm) : (hbmMod s k f).lat = s.lat := rfl
@[simp] theorem hbmMod_perSeq (s : State) (k : Nat) (f : Hbm → Hbm) : (hbmMod s k f).perSeq = s.perSeq := rfl
@[simp] theorem hbmMod_perPage (s : State) (k : Nat) (f : Hbm → Hbm) : (hbmMod s k f).perPage = s.perPage := rfl
@[simp] theorem hbmMod_holdHost (s : State) (k : Nat) (f : Hbm → Hbm) : (hbmMod s k f).holdHost = s.holdHost := rfl
@[simp] theorem hbmMod_holdMp (s : State) (k : Nat) (f : Hbm → Hbm) : (hbmMod s k f).holdMp = s.holdMp := rfl
@[simp] theorem hbmMod_irq (s : State) (k : Nat) (f : Hbm → Hbm) : (hbmMod s k f).irq = s.irq := rfl
@[simp] theorem hbmMod_arr (s : State) (k : Nat) (f : Hbm → Hbm) : (hbmMod s k f).arr = s.arr := rfl
@[simp] theorem hbmMod_dma (s : State) (k : Nat) (f : Hbm → Hbm) : (hbmMod s k f).dma = s.dma := rfl
@[simp] theorem hbmMod_msc (s : State) (k : Nat) (f : Hbm → Hbm) : (hbmMod s k f).msc = s.msc := rfl
@[simp] theorem hbmMod_seq (s : State) (k : Nat) (f : Hbm → Hbm) : (hbmMod s k f).seq = s.seq := rfl
@[simp] theorem hbmMod_upd (s : State) (k : Nat) (f : Hbm → Hbm) : (hbmMod s k f).upd = s.upd := rfl
@[simp] theorem hbmMod_port (s : State) (k : Nat) (f : Hbm → Hbm) : (hbmMod s k f).port = s.port := rfl
@[simp] theorem hbmMod_cfl (s : State) (k : Nat) (f : Hbm → Hbm) : (hbmMod s k f).cfl = s.cfl := rfl
@[simp] theorem hbmMod_hst (s : State) (k : Nat) (f : Hbm → Hbm) : (hbmMod s k f).hst = s.hst := rfl
@[simp] theorem hbmMod_pwr (s : State) (k : Nat) (f : Hbm → Hbm) : (hbmMod s k f).pwr = s.pwr := rfl
@[simp] theorem hbmMod_thm (s : State) (k : Nat) (f : Hbm → Hbm) : (hbmMod s k f).thm = s.thm := rfl
@[simp] theorem hbmMod_mp (s : State) (k : Nat) (f : Hbm → Hbm) : (hbmMod s k f).mp = s.mp := rfl
@[simp] theorem hbmMod_log (s : State) (k : Nat) (f : Hbm → Hbm) : (hbmMod s k f).log = s.log := rfl
@[simp] theorem hbmMod_wire (s : State) (k : Nat) (f : Hbm → Hbm) : (hbmMod s k f).wire = s.wire := rfl
@[simp] theorem hbmMod_drawn (s : State) (k : Nat) (f : Hbm → Hbm) : (hbmMod s k f).drawn = s.drawn := rfl
@[simp] theorem hbmMod_pending (s : State) (k : Nat) (f : Hbm → Hbm) : (hbmMod s k f).pending = s.pending := rfl

/-! ### reguMod -/

@[simp] theorem reguMod_fit (s : State) (a : Nat) (f : Regu → Regu) : (reguMod s a f).fit = s.fit := rfl
@[simp] theorem reguMod_regs (s : State) (a : Nat) (f : Regu → Regu) : (reguMod s a f).regs = s.regs := rfl
@[simp] theorem reguMod_ctr (s : State) (a : Nat) (f : Regu → Regu) : (reguMod s a f).ctr = s.ctr := rfl
@[simp] theorem reguMod_lat (s : State) (a : Nat) (f : Regu → Regu) : (reguMod s a f).lat = s.lat := rfl
@[simp] theorem reguMod_perSeq (s : State) (a : Nat) (f : Regu → Regu) : (reguMod s a f).perSeq = s.perSeq := rfl
@[simp] theorem reguMod_perPage (s : State) (a : Nat) (f : Regu → Regu) : (reguMod s a f).perPage = s.perPage := rfl
@[simp] theorem reguMod_holdHost (s : State) (a : Nat) (f : Regu → Regu) : (reguMod s a f).holdHost = s.holdHost := rfl
@[simp] theorem reguMod_holdMp (s : State) (a : Nat) (f : Regu → Regu) : (reguMod s a f).holdMp = s.holdMp := rfl
@[simp] theorem reguMod_irq (s : State) (a : Nat) (f : Regu → Regu) : (reguMod s a f).irq = s.irq := rfl
@[simp] theorem reguMod_arr (s : State) (a : Nat) (f : Regu → Regu) : (reguMod s a f).arr = s.arr := rfl
@[simp] theorem reguMod_dma (s : State) (a : Nat) (f : Regu → Regu) : (reguMod s a f).dma = s.dma := rfl
@[simp] theorem reguMod_mem (s : State) (a : Nat) (f : Regu → Regu) : (reguMod s a f).mem = s.mem := rfl
@[simp] theorem reguMod_msc (s : State) (a : Nat) (f : Regu → Regu) : (reguMod s a f).msc = s.msc := rfl
@[simp] theorem reguMod_seq (s : State) (a : Nat) (f : Regu → Regu) : (reguMod s a f).seq = s.seq := rfl
@[simp] theorem reguMod_upd (s : State) (a : Nat) (f : Regu → Regu) : (reguMod s a f).upd = s.upd := rfl
@[simp] theorem reguMod_port (s : State) (a : Nat) (f : Regu → Regu) : (reguMod s a f).port = s.port := rfl
@[simp] theorem reguMod_cfl (s : State) (a : Nat) (f : Regu → Regu) : (reguMod s a f).cfl = s.cfl := rfl
@[simp] theorem reguMod_hst (s : State) (a : Nat) (f : Regu → Regu) : (reguMod s a f).hst = s.hst := rfl
@[simp] theorem reguMod_thm (s : State) (a : Nat) (f : Regu → Regu) : (reguMod s a f).thm = s.thm := rfl
@[simp] theorem reguMod_mp (s : State) (a : Nat) (f : Regu → Regu) : (reguMod s a f).mp = s.mp := rfl
@[simp] theorem reguMod_log (s : State) (a : Nat) (f : Regu → Regu) : (reguMod s a f).log = s.log := rfl
@[simp] theorem reguMod_wire (s : State) (a : Nat) (f : Regu → Regu) : (reguMod s a f).wire = s.wire := rfl
@[simp] theorem reguMod_drawn (s : State) (a : Nat) (f : Regu → Regu) : (reguMod s a f).drawn = s.drawn := rfl
@[simp] theorem reguMod_pending (s : State) (a : Nat) (f : Regu → Regu) : (reguMod s a f).pending = s.pending := rfl

/-! ### stageMod -/

@[simp] theorem stageMod_fit (s : State) (t : Nat) (f : Stage → Stage) : (stageMod s t f).fit = s.fit := rfl
@[simp] theorem stageMod_regs (s : State) (t : Nat) (f : Stage → Stage) : (stageMod s t f).regs = s.regs := rfl
@[simp] theorem stageMod_ctr (s : State) (t : Nat) (f : Stage → Stage) : (stageMod s t f).ctr = s.ctr := rfl
@[simp] theorem stageMod_lat (s : State) (t : Nat) (f : Stage → Stage) : (stageMod s t f).lat = s.lat := rfl
@[simp] theorem stageMod_perSeq (s : State) (t : Nat) (f : Stage → Stage) : (stageMod s t f).perSeq = s.perSeq := rfl
@[simp] theorem stageMod_perPage (s : State) (t : Nat) (f : Stage → Stage) : (stageMod s t f).perPage = s.perPage := rfl
@[simp] theorem stageMod_holdHost (s : State) (t : Nat) (f : Stage → Stage) : (stageMod s t f).holdHost = s.holdHost := rfl
@[simp] theorem stageMod_holdMp (s : State) (t : Nat) (f : Stage → Stage) : (stageMod s t f).holdMp = s.holdMp := rfl
@[simp] theorem stageMod_irq (s : State) (t : Nat) (f : Stage → Stage) : (stageMod s t f).irq = s.irq := rfl
@[simp] theorem stageMod_arr (s : State) (t : Nat) (f : Stage → Stage) : (stageMod s t f).arr = s.arr := rfl
@[simp] theorem stageMod_dma (s : State) (t : Nat) (f : Stage → Stage) : (stageMod s t f).dma = s.dma := rfl
@[simp] theorem stageMod_mem (s : State) (t : Nat) (f : Stage → Stage) : (stageMod s t f).mem = s.mem := rfl
@[simp] theorem stageMod_msc (s : State) (t : Nat) (f : Stage → Stage) : (stageMod s t f).msc = s.msc := rfl
@[simp] theorem stageMod_seq (s : State) (t : Nat) (f : Stage → Stage) : (stageMod s t f).seq = s.seq := rfl
@[simp] theorem stageMod_upd (s : State) (t : Nat) (f : Stage → Stage) : (stageMod s t f).upd = s.upd := rfl
@[simp] theorem stageMod_port (s : State) (t : Nat) (f : Stage → Stage) : (stageMod s t f).port = s.port := rfl
@[simp] theorem stageMod_cfl (s : State) (t : Nat) (f : Stage → Stage) : (stageMod s t f).cfl = s.cfl := rfl
@[simp] theorem stageMod_hst (s : State) (t : Nat) (f : Stage → Stage) : (stageMod s t f).hst = s.hst := rfl
@[simp] theorem stageMod_thm (s : State) (t : Nat) (f : Stage → Stage) : (stageMod s t f).thm = s.thm := rfl
@[simp] theorem stageMod_mp (s : State) (t : Nat) (f : Stage → Stage) : (stageMod s t f).mp = s.mp := rfl
@[simp] theorem stageMod_log (s : State) (t : Nat) (f : Stage → Stage) : (stageMod s t f).log = s.log := rfl
@[simp] theorem stageMod_wire (s : State) (t : Nat) (f : Stage → Stage) : (stageMod s t f).wire = s.wire := rfl
@[simp] theorem stageMod_drawn (s : State) (t : Nat) (f : Stage → Stage) : (stageMod s t f).drawn = s.drawn := rfl
@[simp] theorem stageMod_pending (s : State) (t : Nat) (f : Stage → Stage) : (stageMod s t f).pending = s.pending := rfl

/-! ### streamMod -/

@[simp] theorem streamMod_fit (s : State) (st : Nat) (f : Stream → Stream) : (streamMod s st f).fit = s.fit := rfl
@[simp] theorem streamMod_regs (s : State) (st : Nat) (f : Stream → Stream) : (streamMod s st f).regs = s.regs := rfl
@[simp] theorem streamMod_ctr (s : State) (st : Nat) (f : Stream → Stream) : (streamMod s st f).ctr = s.ctr := rfl
@[simp] theorem streamMod_lat (s : State) (st : Nat) (f : Stream → Stream) : (streamMod s st f).lat = s.lat := rfl
@[simp] theorem streamMod_perSeq (s : State) (st : Nat) (f : Stream → Stream) : (streamMod s st f).perSeq = s.perSeq := rfl
@[simp] theorem streamMod_perPage (s : State) (st : Nat) (f : Stream → Stream) : (streamMod s st f).perPage = s.perPage := rfl
@[simp] theorem streamMod_holdHost (s : State) (st : Nat) (f : Stream → Stream) : (streamMod s st f).holdHost = s.holdHost := rfl
@[simp] theorem streamMod_holdMp (s : State) (st : Nat) (f : Stream → Stream) : (streamMod s st f).holdMp = s.holdMp := rfl
@[simp] theorem streamMod_irq (s : State) (st : Nat) (f : Stream → Stream) : (streamMod s st f).irq = s.irq := rfl
@[simp] theorem streamMod_arr (s : State) (st : Nat) (f : Stream → Stream) : (streamMod s st f).arr = s.arr := rfl
@[simp] theorem streamMod_dma (s : State) (st : Nat) (f : Stream → Stream) : (streamMod s st f).dma = s.dma := rfl
@[simp] theorem streamMod_mem (s : State) (st : Nat) (f : Stream → Stream) : (streamMod s st f).mem = s.mem := rfl
@[simp] theorem streamMod_msc (s : State) (st : Nat) (f : Stream → Stream) : (streamMod s st f).msc = s.msc := rfl
@[simp] theorem streamMod_upd (s : State) (st : Nat) (f : Stream → Stream) : (streamMod s st f).upd = s.upd := rfl
@[simp] theorem streamMod_port (s : State) (st : Nat) (f : Stream → Stream) : (streamMod s st f).port = s.port := rfl
@[simp] theorem streamMod_cfl (s : State) (st : Nat) (f : Stream → Stream) : (streamMod s st f).cfl = s.cfl := rfl
@[simp] theorem streamMod_hst (s : State) (st : Nat) (f : Stream → Stream) : (streamMod s st f).hst = s.hst := rfl
@[simp] theorem streamMod_pwr (s : State) (st : Nat) (f : Stream → Stream) : (streamMod s st f).pwr = s.pwr := rfl
@[simp] theorem streamMod_thm (s : State) (st : Nat) (f : Stream → Stream) : (streamMod s st f).thm = s.thm := rfl
@[simp] theorem streamMod_mp (s : State) (st : Nat) (f : Stream → Stream) : (streamMod s st f).mp = s.mp := rfl
@[simp] theorem streamMod_log (s : State) (st : Nat) (f : Stream → Stream) : (streamMod s st f).log = s.log := rfl
@[simp] theorem streamMod_wire (s : State) (st : Nat) (f : Stream → Stream) : (streamMod s st f).wire = s.wire := rfl
@[simp] theorem streamMod_drawn (s : State) (st : Nat) (f : Stream → Stream) : (streamMod s st f).drawn = s.drawn := rfl
@[simp] theorem streamMod_pending (s : State) (st : Nat) (f : Stream → Stream) : (streamMod s st f).pending = s.pending := rfl

/-! ### queueMod -/

@[simp] theorem queueMod_fit (s : State) (q : Nat) (f : Queue → Queue) : (queueMod s q f).fit = s.fit := rfl
@[simp] theorem queueMod_regs (s : State) (q : Nat) (f : Queue → Queue) : (queueMod s q f).regs = s.regs := rfl
@[simp] theorem queueMod_ctr (s : State) (q : Nat) (f : Queue → Queue) : (queueMod s q f).ctr = s.ctr := rfl
@[simp] theorem queueMod_lat (s : State) (q : Nat) (f : Queue → Queue) : (queueMod s q f).lat = s.lat := rfl
@[simp] theorem queueMod_perSeq (s : State) (q : Nat) (f : Queue → Queue) : (queueMod s q f).perSeq = s.perSeq := rfl
@[simp] theorem queueMod_perPage (s : State) (q : Nat) (f : Queue → Queue) : (queueMod s q f).perPage = s.perPage := rfl
@[simp] theorem queueMod_holdHost (s : State) (q : Nat) (f : Queue → Queue) : (queueMod s q f).holdHost = s.holdHost := rfl
@[simp] theorem queueMod_holdMp (s : State) (q : Nat) (f : Queue → Queue) : (queueMod s q f).holdMp = s.holdMp := rfl
@[simp] theorem queueMod_irq (s : State) (q : Nat) (f : Queue → Queue) : (queueMod s q f).irq = s.irq := rfl
@[simp] theorem queueMod_arr (s : State) (q : Nat) (f : Queue → Queue) : (queueMod s q f).arr = s.arr := rfl
@[simp] theorem queueMod_dma (s : State) (q : Nat) (f : Queue → Queue) : (queueMod s q f).dma = s.dma := rfl
@[simp] theorem queueMod_mem (s : State) (q : Nat) (f : Queue → Queue) : (queueMod s q f).mem = s.mem := rfl
@[simp] theorem queueMod_msc (s : State) (q : Nat) (f : Queue → Queue) : (queueMod s q f).msc = s.msc := rfl
@[simp] theorem queueMod_seq (s : State) (q : Nat) (f : Queue → Queue) : (queueMod s q f).seq = s.seq := rfl
@[simp] theorem queueMod_upd (s : State) (q : Nat) (f : Queue → Queue) : (queueMod s q f).upd = s.upd := rfl
@[simp] theorem queueMod_port (s : State) (q : Nat) (f : Queue → Queue) : (queueMod s q f).port = s.port := rfl
@[simp] theorem queueMod_cfl (s : State) (q : Nat) (f : Queue → Queue) : (queueMod s q f).cfl = s.cfl := rfl
@[simp] theorem queueMod_pwr (s : State) (q : Nat) (f : Queue → Queue) : (queueMod s q f).pwr = s.pwr := rfl
@[simp] theorem queueMod_thm (s : State) (q : Nat) (f : Queue → Queue) : (queueMod s q f).thm = s.thm := rfl
@[simp] theorem queueMod_mp (s : State) (q : Nat) (f : Queue → Queue) : (queueMod s q f).mp = s.mp := rfl
@[simp] theorem queueMod_log (s : State) (q : Nat) (f : Queue → Queue) : (queueMod s q f).log = s.log := rfl
@[simp] theorem queueMod_wire (s : State) (q : Nat) (f : Queue → Queue) : (queueMod s q f).wire = s.wire := rfl
@[simp] theorem queueMod_drawn (s : State) (q : Nat) (f : Queue → Queue) : (queueMod s q f).drawn = s.drawn := rfl
@[simp] theorem queueMod_pending (s : State) (q : Nat) (f : Queue → Queue) : (queueMod s q f).pending = s.pending := rfl

/-! ### chanMod -/

@[simp] theorem chanMod_fit (s : State) (c : Nat) (f : Chan → Chan) : (chanMod s c f).fit = s.fit := rfl
@[simp] theorem chanMod_regs (s : State) (c : Nat) (f : Chan → Chan) : (chanMod s c f).regs = s.regs := rfl
@[simp] theorem chanMod_ctr (s : State) (c : Nat) (f : Chan → Chan) : (chanMod s c f).ctr = s.ctr := rfl
@[simp] theorem chanMod_lat (s : State) (c : Nat) (f : Chan → Chan) : (chanMod s c f).lat = s.lat := rfl
@[simp] theorem chanMod_perSeq (s : State) (c : Nat) (f : Chan → Chan) : (chanMod s c f).perSeq = s.perSeq := rfl
@[simp] theorem chanMod_perPage (s : State) (c : Nat) (f : Chan → Chan) : (chanMod s c f).perPage = s.perPage := rfl
@[simp] theorem chanMod_holdHost (s : State) (c : Nat) (f : Chan → Chan) : (chanMod s c f).holdHost = s.holdHost := rfl
@[simp] theorem chanMod_holdMp (s : State) (c : Nat) (f : Chan → Chan) : (chanMod s c f).holdMp = s.holdMp := rfl
@[simp] theorem chanMod_irq (s : State) (c : Nat) (f : Chan → Chan) : (chanMod s c f).irq = s.irq := rfl
@[simp] theorem chanMod_arr (s : State) (c : Nat) (f : Chan → Chan) : (chanMod s c f).arr = s.arr := rfl
@[simp] theorem chanMod_dma (s : State) (c : Nat) (f : Chan → Chan) : (chanMod s c f).dma = s.dma := rfl
@[simp] theorem chanMod_mem (s : State) (c : Nat) (f : Chan → Chan) : (chanMod s c f).mem = s.mem := rfl
@[simp] theorem chanMod_msc (s : State) (c : Nat) (f : Chan → Chan) : (chanMod s c f).msc = s.msc := rfl
@[simp] theorem chanMod_seq (s : State) (c : Nat) (f : Chan → Chan) : (chanMod s c f).seq = s.seq := rfl
@[simp] theorem chanMod_upd (s : State) (c : Nat) (f : Chan → Chan) : (chanMod s c f).upd = s.upd := rfl
@[simp] theorem chanMod_port (s : State) (c : Nat) (f : Chan → Chan) : (chanMod s c f).port = s.port := rfl
@[simp] theorem chanMod_cfl (s : State) (c : Nat) (f : Chan → Chan) : (chanMod s c f).cfl = s.cfl := rfl
@[simp] theorem chanMod_hst (s : State) (c : Nat) (f : Chan → Chan) : (chanMod s c f).hst = s.hst := rfl
@[simp] theorem chanMod_pwr (s : State) (c : Nat) (f : Chan → Chan) : (chanMod s c f).pwr = s.pwr := rfl
@[simp] theorem chanMod_thm (s : State) (c : Nat) (f : Chan → Chan) : (chanMod s c f).thm = s.thm := rfl
@[simp] theorem chanMod_log (s : State) (c : Nat) (f : Chan → Chan) : (chanMod s c f).log = s.log := rfl
@[simp] theorem chanMod_wire (s : State) (c : Nat) (f : Chan → Chan) : (chanMod s c f).wire = s.wire := rfl
@[simp] theorem chanMod_drawn (s : State) (c : Nat) (f : Chan → Chan) : (chanMod s c f).drawn = s.drawn := rfl
@[simp] theorem chanMod_pending (s : State) (c : Nat) (f : Chan → Chan) : (chanMod s c f).pending = s.pending := rfl

/-! ### memWrite -/

@[simp] theorem memWrite_fit (s : State) (h off : Nat) (bs : List Byte) : (memWrite s h off bs).fit = s.fit := rfl
@[simp] theorem memWrite_regs (s : State) (h off : Nat) (bs : List Byte) : (memWrite s h off bs).regs = s.regs := rfl
@[simp] theorem memWrite_ctr (s : State) (h off : Nat) (bs : List Byte) : (memWrite s h off bs).ctr = s.ctr := rfl
@[simp] theorem memWrite_lat (s : State) (h off : Nat) (bs : List Byte) : (memWrite s h off bs).lat = s.lat := rfl
@[simp] theorem memWrite_perSeq (s : State) (h off : Nat) (bs : List Byte) : (memWrite s h off bs).perSeq = s.perSeq := rfl
@[simp] theorem memWrite_perPage (s : State) (h off : Nat) (bs : List Byte) : (memWrite s h off bs).perPage = s.perPage := rfl
@[simp] theorem memWrite_holdHost (s : State) (h off : Nat) (bs : List Byte) : (memWrite s h off bs).holdHost = s.holdHost := rfl
@[simp] theorem memWrite_holdMp (s : State) (h off : Nat) (bs : List Byte) : (memWrite s h off bs).holdMp = s.holdMp := rfl
@[simp] theorem memWrite_irq (s : State) (h off : Nat) (bs : List Byte) : (memWrite s h off bs).irq = s.irq := rfl
@[simp] theorem memWrite_arr (s : State) (h off : Nat) (bs : List Byte) : (memWrite s h off bs).arr = s.arr := rfl
@[simp] theorem memWrite_dma (s : State) (h off : Nat) (bs : List Byte) : (memWrite s h off bs).dma = s.dma := rfl
@[simp] theorem memWrite_msc (s : State) (h off : Nat) (bs : List Byte) : (memWrite s h off bs).msc = s.msc := rfl
@[simp] theorem memWrite_seq (s : State) (h off : Nat) (bs : List Byte) : (memWrite s h off bs).seq = s.seq := rfl
@[simp] theorem memWrite_upd (s : State) (h off : Nat) (bs : List Byte) : (memWrite s h off bs).upd = s.upd := rfl
@[simp] theorem memWrite_port (s : State) (h off : Nat) (bs : List Byte) : (memWrite s h off bs).port = s.port := rfl
@[simp] theorem memWrite_cfl (s : State) (h off : Nat) (bs : List Byte) : (memWrite s h off bs).cfl = s.cfl := rfl
@[simp] theorem memWrite_hst (s : State) (h off : Nat) (bs : List Byte) : (memWrite s h off bs).hst = s.hst := rfl
@[simp] theorem memWrite_pwr (s : State) (h off : Nat) (bs : List Byte) : (memWrite s h off bs).pwr = s.pwr := rfl
@[simp] theorem memWrite_thm (s : State) (h off : Nat) (bs : List Byte) : (memWrite s h off bs).thm = s.thm := rfl
@[simp] theorem memWrite_mp (s : State) (h off : Nat) (bs : List Byte) : (memWrite s h off bs).mp = s.mp := rfl
@[simp] theorem memWrite_log (s : State) (h off : Nat) (bs : List Byte) : (memWrite s h off bs).log = s.log := rfl
@[simp] theorem memWrite_wire (s : State) (h off : Nat) (bs : List Byte) : (memWrite s h off bs).wire = s.wire := rfl
@[simp] theorem memWrite_drawn (s : State) (h off : Nat) (bs : List Byte) : (memWrite s h off bs).drawn = s.drawn := rfl
@[simp] theorem memWrite_pending (s : State) (h off : Nat) (bs : List Byte) : (memWrite s h off bs).pending = s.pending := rfl

/-! ### logEvent -/

@[simp] theorem logEvent_fit (e : LogEnt) (s : State) : (logEvent e s).fit = s.fit := rfl
@[simp] theorem logEvent_regs (e : LogEnt) (s : State) : (logEvent e s).regs = s.regs := rfl
@[simp] theorem logEvent_ctr (e : LogEnt) (s : State) : (logEvent e s).ctr = s.ctr := rfl
@[simp] theorem logEvent_lat (e : LogEnt) (s : State) : (logEvent e s).lat = s.lat := rfl
@[simp] theorem logEvent_perSeq (e : LogEnt) (s : State) : (logEvent e s).perSeq = s.perSeq := rfl
@[simp] theorem logEvent_perPage (e : LogEnt) (s : State) : (logEvent e s).perPage = s.perPage := rfl
@[simp] theorem logEvent_holdHost (e : LogEnt) (s : State) : (logEvent e s).holdHost = s.holdHost := rfl
@[simp] theorem logEvent_holdMp (e : LogEnt) (s : State) : (logEvent e s).holdMp = s.holdMp := rfl
@[simp] theorem logEvent_irq (e : LogEnt) (s : State) : (logEvent e s).irq = s.irq := rfl
@[simp] theorem logEvent_arr (e : LogEnt) (s : State) : (logEvent e s).arr = s.arr := rfl
@[simp] theorem logEvent_dma (e : LogEnt) (s : State) : (logEvent e s).dma = s.dma := rfl
@[simp] theorem logEvent_mem (e : LogEnt) (s : State) : (logEvent e s).mem = s.mem := rfl
@[simp] theorem logEvent_msc (e : LogEnt) (s : State) : (logEvent e s).msc = s.msc := rfl
@[simp] theorem logEvent_seq (e : LogEnt) (s : State) : (logEvent e s).seq = s.seq := rfl
@[simp] theorem logEvent_upd (e : LogEnt) (s : State) : (logEvent e s).upd = s.upd := rfl
@[simp] theorem logEvent_port (e : LogEnt) (s : State) : (logEvent e s).port = s.port := rfl
@[simp] theorem logEvent_cfl (e : LogEnt) (s : State) : (logEvent e s).cfl = s.cfl := rfl
@[simp] theorem logEvent_hst (e : LogEnt) (s : State) : (logEvent e s).hst = s.hst := rfl
@[simp] theorem logEvent_pwr (e : LogEnt) (s : State) : (logEvent e s).pwr = s.pwr := rfl
@[simp] theorem logEvent_thm (e : LogEnt) (s : State) : (logEvent e s).thm = s.thm := rfl
@[simp] theorem logEvent_mp (e : LogEnt) (s : State) : (logEvent e s).mp = s.mp := rfl
@[simp] theorem logEvent_wire (e : LogEnt) (s : State) : (logEvent e s).wire = s.wire := rfl
@[simp] theorem logEvent_drawn (e : LogEnt) (s : State) : (logEvent e s).drawn = s.drawn := rfl
@[simp] theorem logEvent_pending (e : LogEnt) (s : State) : (logEvent e s).pending = s.pending := rfl

/-! ### draw -/

@[simp] theorem draw_fit (s : State) : (draw s).2.fit = s.fit := rfl
@[simp] theorem draw_regs (s : State) : (draw s).2.regs = s.regs := rfl
@[simp] theorem draw_ctr (s : State) : (draw s).2.ctr = s.ctr := rfl
@[simp] theorem draw_lat (s : State) : (draw s).2.lat = s.lat := rfl
@[simp] theorem draw_perSeq (s : State) : (draw s).2.perSeq = s.perSeq := rfl
@[simp] theorem draw_perPage (s : State) : (draw s).2.perPage = s.perPage := rfl
@[simp] theorem draw_holdHost (s : State) : (draw s).2.holdHost = s.holdHost := rfl
@[simp] theorem draw_holdMp (s : State) : (draw s).2.holdMp = s.holdMp := rfl
@[simp] theorem draw_irq (s : State) : (draw s).2.irq = s.irq := rfl
@[simp] theorem draw_arr (s : State) : (draw s).2.arr = s.arr := rfl
@[simp] theorem draw_dma (s : State) : (draw s).2.dma = s.dma := rfl
@[simp] theorem draw_mem (s : State) : (draw s).2.mem = s.mem := rfl
@[simp] theorem draw_msc (s : State) : (draw s).2.msc = s.msc := rfl
@[simp] theorem draw_seq (s : State) : (draw s).2.seq = s.seq := rfl
@[simp] theorem draw_upd (s : State) : (draw s).2.upd = s.upd := rfl
@[simp] theorem draw_port (s : State) : (draw s).2.port = s.port := rfl
@[simp] theorem draw_cfl (s : State) : (draw s).2.cfl = s.cfl := rfl
@[simp] theorem draw_hst (s : State) : (draw s).2.hst = s.hst := rfl
@[simp] theorem draw_pwr (s : State) : (draw s).2.pwr = s.pwr := rfl
@[simp] theorem draw_thm (s : State) : (draw s).2.thm = s.thm := rfl
@[simp] theorem draw_mp (s : State) : (draw s).2.mp = s.mp := rfl
@[simp] theorem draw_log (s : State) : (draw s).2.log = s.log := rfl
@[simp] theorem draw_wire (s : State) : (draw s).2.wire = s.wire := rfl
@[simp] theorem draw_pending (s : State) : (draw s).2.pending = s.pending := rfl
@[simp] theorem draw_fst (s : State) : (draw s).1 = s.drawn := rfl
@[simp] theorem draw_drawn (s : State) : (draw s).2.drawn = s.drawn + 1 := rfl

end Sys2Proof.Machine
end

