-- ==== Sys2Proof/Laws/Tables.lean ====
section
/-! SUPPORT. Sparse tables: what a write or a clearing leaves at each key, and that every operation keeps the canonical
form; then the memory operations. -/

namespace Sys2Proof.Machine

variable {α : Type}

/-! ### Reading after writing -/

theorem aget_of_no_key (d : Nat → α) (m : AMap α) (k : Nat) (h : ∀ p ∈ m, p.1 ≠ k) : aget d m k = d k := by
  induction m with
  | nil => rfl
  | cons p r ih =>
    have h1 : p.1 ≠ k := h p (by simp)
    simp only [aget, h1, ↓reduceIte]
    exact ih (fun q hq => h q (by simp [hq]))

theorem aget_append_left (d : Nat → α) (m n : AMap α) (k : Nat) (h : ∀ p ∈ n, p.1 ≠ k) : aget d (m ++ n) k = aget d m k := by
  induction m with
  | nil => exact aget_of_no_key d n k h
  | cons p r ih =>
    by_cases e : p.1 = k
    · simp [aget, e]
    · simp [aget, e, ih]

theorem aget_append_right (d : Nat → α) (m n : AMap α) (k : Nat) (h : ∀ p ∈ m, p.1 ≠ k) : aget d (m ++ n) k = aget d n k := by
  induction m with
  | nil => rfl
  | cons p r ih =>
    have h1 : p.1 ≠ k := h p (by simp)
    simp only [List.cons_append, aget, h1, ↓reduceIte]
    exact ih (fun q hq => h q (by simp [hq]))

theorem aget_filter (d : Nat → α) (f : Nat → Bool) (m : AMap α) (k : Nat) (h : f k = true) :
    aget d (m.filter (fun p => f p.1)) k = aget d m k := by
  induction m with
  | nil => rfl
  | cons p r ih =>
    by_cases e : p.1 = k
    · subst e; simp [aget, h]
    · by_cases hf : f p.1 = true
      · simp [aget, e, hf, ih]
      · simp [aget, e, hf, ih]

theorem arange_key [DecidableEq α] (d f : Nat → α) (n start : Nat) : ∀ p ∈ arange d f start n, start ≤ p.1 ∧ p.1 < start + n := by
  induction n generalizing start with
  | zero => simp [arange]
  | succ n ih =>
    intro p hp
    unfold arange at hp
    split at hp
    · have := ih (start + 1) p hp; omega
    · rcases List.mem_cons.mp hp with rfl | hq
      · exact ⟨Nat.le_refl _, by simp⟩
      · have := ih (start + 1) p hq; omega

theorem aget_arange [DecidableEq α] (d f : Nat → α) (n start k : Nat) (h : start ≤ k ∧ k < start + n) :
    aget d (arange d f start n) k = f k := by
  induction n generalizing start with
  | zero => omega
  | succ n ih =>
    unfold arange
    by_cases e : start = k
    · subst e
      split
      · rename_i hd
        rw [hd]
        exact aget_of_no_key _ _ _ (fun p hp => by have := arange_key d f n (start + 1) p hp; omega)
      · simp [aget]
    · split
      · exact ih (start + 1) (by omega)
      · simp only [aget, e, ↓reduceIte]; exact ih (start + 1) (by omega)

/-- A range write reads back as written and leaves every other key as it was. -/
theorem aget_asetR [DecidableEq α] (d : Nat → α) (m : AMap α) (start len : Nat) (f : Nat → α) (k : Nat) :
    aget d (asetR d m start len f) k = if start ≤ k ∧ k < start + len then f k else aget d m k := by
  unfold asetR
  split
  · rename_i h
    rw [aget_append_left _ _ _ _ (fun p hp => by simp at hp; omega)]
    rw [aget_append_right _ _ _ _ (fun p hp => by simp at hp; omega)]
    exact aget_arange d f len start k h
  · rename_i h
    by_cases lt : k < start
    · rw [List.append_assoc, aget_append_left _ _ _ _ (fun p hp => by
        rcases List.mem_append.mp hp with hq | hq
        · have := arange_key d f len start p hq; omega
        · simp at hq; omega)]
      exact aget_filter d (fun j => decide (j < start)) m k (by simpa using lt)
    · rw [aget_append_right _ _ _ _ (fun p hp => by
        rcases List.mem_append.mp hp with hq | hq
        · simp at hq; omega
        · have := arange_key d f len start p hq; omega)]
      exact aget_filter d (fun j => decide (start + len ≤ j)) m k (by simp; omega)

theorem aget_aset [DecidableEq α] (d : Nat → α) (m : AMap α) (k j : Nat) (v : α) :
    aget d (aset d m k v) j = if j = k then v else aget d m j := by
  unfold aset
  rw [aget_asetR]
  by_cases h : j = k
  · simp [h]
  · have : ¬ (k ≤ j ∧ j < k + 1) := by omega
    rw [if_neg this, if_neg h]

@[simp] theorem aget_aset_self [DecidableEq α] (d : Nat → α) (m : AMap α) (k : Nat) (v : α) : aget d (aset d m k v) k = v := by
  simp [aget_aset]

theorem aget_aset_ne [DecidableEq α] (d : Nat → α) (m : AMap α) {k j : Nat} (v : α) (h : j ≠ k) :
    aget d (aset d m k v) j = aget d m j := by
  simp [aget_aset, h]

/-- Clearing restores the default in its range and leaves every other key as it was. -/
theorem aget_aclr (d : Nat → α) (m : AMap α) (start len k : Nat) :
    aget d (aclr m start len) k = if start ≤ k ∧ k < start + len then d k else aget d m k := by
  unfold aclr
  split
  · rename_i h
    refine aget_of_no_key d _ k (fun p hp => ?_)
    rcases List.mem_append.mp hp with hq | hq <;> simp at hq <;> omega
  · rename_i h
    by_cases lt : k < start
    · rw [aget_append_left _ _ _ _ (fun p hp => by simp at hp; omega)]
      exact aget_filter d (fun j => decide (j < start)) m k (by simpa using lt)
    · rw [aget_append_right _ _ _ _ (fun p hp => by simp at hp; omega)]
      exact aget_filter d (fun j => decide (start + len ≤ j)) m k (by simp; omega)

/-- Copying takes the source in its range and leaves every other key as it was. -/
theorem aget_acopy (d : Nat → α) (src dst : AMap α) (start len k : Nat) :
    aget d (acopy src dst start len) k = if start ≤ k ∧ k < start + len then aget d src k else aget d dst k := by
  unfold acopy
  split
  · rename_i h
    rw [aget_append_left _ _ _ _ (fun p hp => by simp at hp; omega)]
    rw [aget_append_right _ _ _ _ (fun p hp => by simp at hp; omega)]
    exact aget_filter d (fun j => decide (start ≤ j ∧ j < start + len)) src k (by simpa using h)
  · rename_i h
    by_cases lt : k < start
    · rw [List.append_assoc, aget_append_left _ _ _ _ (fun p hp => by
        rcases List.mem_append.mp hp with hq | hq <;> simp at hq <;> omega)]
      exact aget_filter d (fun j => decide (j < start)) dst k (by simpa using lt)
    · rw [aget_append_right _ _ _ _ (fun p hp => by
        rcases List.mem_append.mp hp with hq | hq <;> simp at hq <;> omega)]
      exact aget_filter d (fun j => decide (start + len ≤ j)) dst k (by simp; omega)

/-! ### The canonical form -/

theorem awf_nil [DecidableEq α] (d : Nat → α) : awf d [] := ⟨List.Pairwise.nil, fun _ hp => by cases hp⟩

theorem awf_filter [DecidableEq α] {d : Nat → α} {m : AMap α} (h : awf d m) (f : Nat × α → Bool) : awf d (m.filter f) :=
  ⟨h.1.filter f, fun p hp => h.2 p (List.mem_filter.mp hp).1⟩

theorem awf_append [DecidableEq α] {d : Nat → α} {m n : AMap α} (hm : awf d m) (hn : awf d n)
    (h : ∀ p ∈ m, ∀ q ∈ n, p.1 < q.1) : awf d (m ++ n) :=
  ⟨List.pairwise_append.mpr ⟨hm.1, hn.1, h⟩, fun p hp => by
    rcases List.mem_append.mp hp with hq | hq
    · exact hm.2 p hq
    · exact hn.2 p hq⟩

theorem awf_arange [DecidableEq α] (d f : Nat → α) (n start : Nat) : awf d (arange d f start n) := by
  induction n generalizing start with
  | zero => exact awf_nil d
  | succ n ih =>
    unfold arange
    split
    · exact ih (start + 1)
    · rename_i hd
      refine ⟨List.pairwise_cons.mpr ⟨fun p hp => ?_, (ih (start + 1)).1⟩, fun p hp => ?_⟩
      · have := arange_key d f n (start + 1) p hp; show start < p.1; omega
      · rcases List.mem_cons.mp hp with rfl | hq
        · exact hd
        · exact (ih (start + 1)).2 p hq

theorem awf_asetR [DecidableEq α] {d : Nat → α} {m : AMap α} (h : awf d m) (start len : Nat) (f : Nat → α) :
    awf d (asetR d m start len f) := by
  unfold asetR
  refine awf_append (awf_append (awf_filter h _) (awf_arange d f len start) ?_) (awf_filter h _) ?_
  · intro p hp q hq
    have := arange_key d f len start q hq
    simp at hp
    omega
  · intro p hp q hq
    simp at hq
    rcases List.mem_append.mp hp with hr | hr
    · simp at hr; omega
    · have := arange_key d f len start p hr; omega

theorem awf_aset [DecidableEq α] {d : Nat → α} {m : AMap α} (h : awf d m) (k : Nat) (v : α) : awf d (aset d m k v) :=
  awf_asetR h k 1 _

theorem awf_aclr [DecidableEq α] {d : Nat → α} {m : AMap α} (h : awf d m) (start len : Nat) : awf d (aclr m start len) :=
  awf_append (awf_filter h _) (awf_filter h _) (fun p hp q hq => by simp at hp hq; omega)

theorem awf_acopy [DecidableEq α] {d : Nat → α} {src dst : AMap α} (hs : awf d src) (hd : awf d dst) (start len : Nat) :
    awf d (acopy src dst start len) := by
  refine awf_append (awf_append (awf_filter hd _) (awf_filter hs _) ?_) (awf_filter hd _) ?_
  · intro p hp q hq; simp at hp hq; omega
  · intro p hp q hq
    simp at hq
    rcases List.mem_append.mp hp with hr | hr <;> simp at hr <;> omega

theorem awf_tail [DecidableEq α] {d : Nat → α} {p : Nat × α} {m : AMap α} (h : awf d (p :: m)) : awf d m :=
  ⟨(List.pairwise_cons.mp h.1).2, fun q hq => h.2 q (List.mem_cons_of_mem _ hq)⟩

theorem awf_head_fresh [DecidableEq α] {d : Nat → α} {p : Nat × α} {m : AMap α} (h : awf d (p :: m)) {k : Nat} (hk : k ≤ p.1) :
    aget d m k = d k :=
  aget_of_no_key d m k (fun q hq => by have := (List.pairwise_cons.mp h.1).1 q hq; omega)

/-- Two tables in canonical form that read the same everywhere are the same data. -/
theorem awf_ext [DecidableEq α] {d : Nat → α} {m n : AMap α} (hm : awf d m) (hn : awf d n) (h : ∀ k, aget d m k = aget d n k) :
    m = n := by
  induction m generalizing n with
  | nil =>
    cases n with
    | nil => rfl
    | cons q r =>
      have e := h q.1
      simp only [aget, ↓reduceIte] at e
      exact absurd e.symm (hn.2 q (by simp))
  | cons p m ih =>
    cases n with
    | nil =>
      have e := h p.1
      simp only [aget, ↓reduceIte] at e
      exact absurd e (hm.2 p (by simp))
    | cons q r =>
      rcases Nat.lt_trichotomy p.1 q.1 with lt | eq | gt
      · have e := h p.1
        have ne : q.1 ≠ p.1 := by omega
        simp only [aget, ↓reduceIte, ne] at e
        rw [awf_head_fresh hn (Nat.le_of_lt lt)] at e
        exact absurd e (hm.2 p (by simp))
      · have e := h p.1
        simp only [aget, ↓reduceIte, eq] at e
        have hp : p = q := Prod.ext eq e
        subst hp
        refine congrArg (p :: ·) (ih (awf_tail hm) (awf_tail hn) (fun k => ?_))
        by_cases hk : k ≤ p.1
        · rw [awf_head_fresh hm hk, awf_head_fresh hn hk]
        · have e := h k
          have ne : p.1 ≠ k := by omega
          simpa only [aget, ne, ↓reduceIte] using e
      · have e := h q.1
        have ne : p.1 ≠ q.1 := by omega
        simp only [aget, ↓reduceIte, ne] at e
        rw [awf_head_fresh hm (Nat.le_of_lt gt)] at e
        exact absurd e.symm (hn.2 q (by simp))

/-! ### Tensor memory -/

/-- Reading after a write to tensor memory (R199). -/
theorem memByte_memWrite (s : State) (h off : Nat) (bs : List Byte) (k : Nat) :
    memByte (memWrite s h off bs) k =
      if tkey h off ≤ k ∧ k < tkey h off + bs.length then bs.getD (k - tkey h off) 0 else memByte s k :=
  aget_asetR ..

@[simp] theorem workByte_memWrite (s : State) (h off : Nat) (bs : List Byte) (k : Nat) :
    workByte (memWrite s h off bs) k = workByte s k := rfl

/-- Reading after a write to the working version (R213). -/
theorem workByte_workWrite (s : State) (h off : Nat) (bs : List Byte) (k : Nat) :
    workByte (workWrite s h off bs) k =
      if tkey h off ≤ k ∧ k < tkey h off + bs.length then bs.getD (k - tkey h off) 0 else workByte s k := by
  unfold workWrite
  split
  · rename_i e
    have : bs.length = 0 := by simpa using e
    rw [if_neg (by omega)]
  · exact aget_asetR ..

@[simp] theorem memByte_workWrite (s : State) (h off : Nat) (bs : List Byte) (k : Nat) :
    memByte (workWrite s h off bs) k = memByte s k := by
  unfold workWrite
  split <;> rfl

theorem awf_unpoison {m : AMap Word} (h : awf (fun _ => (0 : Word)) m) (k n : Nat) : awf (fun _ => (0 : Word)) (unpoison m k n) := by
  unfold unpoison
  refine ⟨List.Pairwise.filter _ (List.pairwise_map.mpr (h.1.imp fun hab => hab)), fun p hp => ?_⟩
  simpa using (List.mem_filter.mp hp).2

/-- A write of a whole granule covers every byte of its marker (R224). -/
theorem granuleMask_whole (g : Nat) : granuleMask g (32 * g) 32 = BitVec.allOnes 32 := by
  unfold granuleMask
  have : 32 * g + 32 - 32 * g = 32 := by omega
  rw [this, Nat.sub_self]
  decide

theorem memWrite_wf (s : State) (h off : Nat) (bs : List Byte) (w : Memory.wf s.mem) : Memory.wf (memWrite s h off bs).mem :=
  ⟨awf_asetR w.1 .., w.2.1, awf_unpoison w.2.2.1 .., w.2.2.2⟩

theorem workWrite_wf (s : State) (h off : Nat) (bs : List Byte) (w : Memory.wf s.mem) : Memory.wf (workWrite s h off bs).mem := by
  unfold workWrite
  split
  · exact w
  · exact ⟨w.1, awf_asetR w.2.1 .., w.2.2.1, awf_unpoison w.2.2.2.1 .., awf_asetR w.2.2.2.2 ..⟩

theorem swapPage_wf (s : State) (h k : Nat) (w : Memory.wf s.mem) : Memory.wf (swapPage s h k).mem :=
  ⟨awf_acopy w.2.1 w.1 .., awf_acopy w.1 w.2.1 .., awf_acopy w.2.2.2.1 w.2.2.1 .., awf_acopy w.2.2.1 w.2.2.2.1 .., w.2.2.2.2⟩

theorem touchPage_wf (s : State) (h k : Nat) (w : Memory.wf s.mem) : Memory.wf (touchPage s h k).mem := by
  unfold touchPage
  split
  · exact w
  · dsimp only
    simp only [ctrSet, bump, memAccess_mem]
    exact ⟨w.1, awf_acopy w.1 w.2.1 .., w.2.2.1, awf_aclr w.2.2.2.1 .., awf_aset w.2.2.2.2 ..⟩

theorem discardWork_wf (s : State) (w : Memory.wf s.mem) : Memory.wf (discardWork s).mem := by
  have key : ∀ (l : AMap Bool) (m : Mem), Memory.wf m → Memory.wf (l.foldl (fun (m : Mem) e =>
      let k := tkey (e.1 / 2 ^ 20) (e.1 % 2 ^ 20 * pageSize)
      { m with work := aclr m.work k pageSize, wpoison := aclr m.wpoison (k / 32) (pageSize / 32) }) m) := by
    intro l
    induction l with
    | nil => exact fun _ h => h
    | cons x r ih => exact fun m h => ih _ ⟨h.1, awf_aclr h.2.1 .., h.2.2.1, awf_aclr h.2.2.2.1 .., h.2.2.2.2⟩
  have k := key s.mem.written s.mem w
  exact ⟨k.1, k.2.1, k.2.2.1, k.2.2.2.1, awf_nil _⟩

theorem reset_wf : Memory.wf State.reset.mem := ⟨awf_nil _, awf_nil _, awf_nil _, awf_nil _, awf_nil _⟩

/-! ### Registers and counters -/

@[simp] theorem regGet_regSet (s : State) (o p : Nat) (v : Word) : regGet (regSet s o v) p = if p = o then v else regGet s p :=
  aget_aset ..

@[simp] theorem pgGet_pgSet_self (s : State) (p : Pg) (i o : Nat) (v : Word) : pgGet (pgSet s p i o v) p i o = v := by
  simp [pgGet, pgSet]

@[simp] theorem ctrGet_ctrSet_self (s : State) (p : Pg) (i o : Nat) (v : DWord) : ctrGet (ctrSet s p i o v) p i o = v :=
  aget_aset_self ..

/-- A counter counts modulo 2^64 (R451). -/
@[simp] theorem ctrGet_bump_self (s : State) (p : Pg) (i o n : Nat) : ctrGet (bump s p i o n) p i o = ctrGet s p i o + BitVec.ofNat 64 n :=
  aget_aset_self ..

@[simp] theorem arrGet_arrSet_self (s : State) (a : Nat) (r : Arr) : arrGet (arrSet s a r) a = r := aget_aset_self ..

@[simp] theorem arrGet_arrMod_self (s : State) (a : Nat) (f : Arr → Arr) : arrGet (arrMod s a f) a = f (arrGet s a) := aget_aset_self ..

theorem arrGet_arrMod_ne (s : State) {a b : Nat} (f : Arr → Arr) (h : b ≠ a) : arrGet (arrMod s a f) b = arrGet s b := aget_aset_ne _ _ _ h

@[simp] theorem dmaGet_dmaMod_self (s : State) (e : Nat) (f : Dma → Dma) : dmaGet (dmaMod s e f) e = f (dmaGet s e) := aget_aset_self ..

@[simp] theorem updGet_updMod_self (s : State) (u : Nat) (f : Upd → Upd) : updGet (updMod s u f) u = f (updGet s u) := aget_aset_self ..

@[simp] theorem portGet_portMod_self (s : State) (p : Nat) (f : Port → Port) : portGet (portMod s p f) p = f (portGet s p) := aget_aset_self ..

@[simp] theorem reguGet_reguMod_self (s : State) (a : Nat) (f : Regu → Regu) : reguGet (reguMod s a f) a = f (reguGet s a) := aget_aset_self ..

@[simp] theorem stageGet_stageMod_self (s : State) (t : Nat) (f : Stage → Stage) : stageGet (stageMod s t f) t = f (stageGet s t) := aget_aset_self ..

@[simp] theorem chanGet_chanMod_self (s : State) (c : Nat) (f : Chan → Chan) : chanGet (chanMod s c f) c = f (chanGet s c) := aget_aset_self ..

@[simp] theorem queueGet_queueMod_self (s : State) (q : Nat) (f : Queue → Queue) : queueGet (queueMod s q f) q = f (queueGet s q) := aget_aset_self ..

end Sys2Proof.Machine
end

