-- ==== Sys2Proof/Laws/Quiet.lean ====
section
/-! SUPPORT. A quiet host side stays quiet: with no queue head, no host access and no awaited ramp, what follows a command
(ramps, READs, queue heads, update units that wait) changes nothing. -/

namespace Sys2Proof.Machine

theorem settle_of_no_head (s : State) (h : s.hst.heads = []) : settle s = s := by
  unfold settle settleGo; rw [h]; rfl

theorem feedReads_of_no_access (k : Nat) (s : State) (h : s.hst.access = []) : feedReads k s = s := by
  cases k with
  | zero => rfl
  | succ k => unfold feedReads; rw [h]; split <;> rfl

theorem runReads_of_no_access (s : State) (h : s.hst.access = []) : runReads s = s := by
  unfold runReads finishReads
  rw [feedReads_of_no_access _ _ h, h]; rfl

theorem afterRamps_of_no_ramp (s : State) (h : s.seq.ramp = none) : afterRamps s = s := by
  unfold afterRamps
  split
  · rfl
  · rw [h]

theorem runResume_of_no_pause (s : State) (h : s.seq.dev = .paused → s.seq.pause = []) : runResume s = s := by
  unfold runResume
  split
  · rename_i hd hp; rw [h hd] at hp; cases hp
  · rfl

theorem identSync_of_none (s : State) (h : ∀ p, p < 6 → identDue s p = false) : identSync s = s := by
  have key : ∀ l : List Nat, (∀ p ∈ l, p < 6) → l.foldl (fun s p => if identDue s p then portResend s p else s) s = s := by
    intro l
    induction l with
    | nil => exact fun _ => rfl
    | cons x r ih =>
      intro hl
      simp only [List.foldl_cons, h x (hl x (by simp)), Bool.false_eq_true, ↓reduceIte]
      exact ih (fun u hu => hl u (by simp [hu]))
  exact key _ (fun u hu => by simpa using hu)

theorem identSync_of_running (s : State) (h : s.seq.dev = .running) : identSync s = s :=
  identSync_of_none s (fun p _ => by simp [identDue, h])

theorem tidy_of_quiet (s : State) (h : hostQuiet s) : tidy s = s := by
  unfold tidy
  rw [afterRamps_of_no_ramp s h.2.2.1, runResume_of_no_pause s h.2.2.2.1, runReads_of_no_access s h.2.1, settle_of_no_head s h.1,
    identSync_of_none s h.2.2.2.2]

theorem runWaiting_of_none (s : State) (h : ∀ u, u < 12 → (updGet s u).waiting = none) : runWaiting s = s := by
  unfold runWaiting
  cases s.seq.prog with
  | none => rfl
  | some p =>
    dsimp only
    split
    · rfl
    have key : ∀ l : List Nat, (∀ u ∈ l, u < 12) → l.foldl (fun s u =>
      match (updGet s u).waiting, (updGet s u).active with
      | some (op, d), some (idx, _) =>
        if updFenced op d p s then s
        else updSweep op u idx d p (updMod s u (fun r => { r with waiting := none }))
      | _, _ => s) s = s := by
      intro l
      induction l with
      | nil => exact fun _ => rfl
      | cons x r ih =>
        intro hl
        simp only [List.foldl_cons, h x (hl x (by simp))]
        exact ih (fun u hu => hl u (by simp [hu]))
    exact key _ (fun u hu => by simpa using hu)

theorem readPast_of_no_access (q h k : Nat) (s : State) (e : s.hst.access = []) : readPast q h k s = s := by
  cases k with
  | zero => rfl
  | succ k => unfold readPast; rw [e]; rfl

/-! ### A good flit -/

@[simp] theorem linkDelay_port (s : State) (p : Pg) (i k : Nat) : (linkDelay s p i k).port = s.port := by
  unfold linkDelay; split <;> rfl
@[simp] theorem fecCount_port (p : Pg) (i o : Nat) (r : FecRx) (s : State) : (fecCount p i o r s).port = s.port := by
  unfold fecCount; dsimp only; split <;> rfl

/-- What a flit carries takes effect on the state in which the link layer has taken it. -/
theorem linkTake_of_good (p k : Nat) (h : FlitHdr) (eff : State → State) (s : State) (g : linkGood s p k h) :
    linkTake p k false h eff s = eff (linkTaken s p k h) := by
  obtain ⟨-, hf, hc, hr, hq⟩ := g
  have hn : (h.seq == (portGet (fecCount .ngl p 0xc20 h.toFecRx (bump (linkDelay (portMod s p (fun r =>
      { r with tst := linkNext s .ngl p r.tst k })) .ngl p k) .ngl p 0xc08 k)) p).rxSeq + 1) = true := by
    have : (portGet (fecCount .ngl p 0xc20 h.toFecRx (bump (linkDelay (portMod s p (fun r =>
      { r with tst := linkNext s .ngl p r.tst k })) .ngl p k) .ngl p 0xc08 k)) p).rxSeq = (portGet s p).rxSeq := by
      simp only [portGet, fecCount_port, bump_port, linkDelay_port, portMod, aget_aset_self]
    rw [this, hq]; simp
  unfold linkTaken linkTake
  simp only [hf, hc, hr, Bool.not_true, Bool.or_self, Bool.false_eq_true, if_false]
  unfold linkOrder
  simp only [hn, Bool.not_true, Bool.false_and, Bool.false_eq_true, if_false, if_true, id_eq]

/-! ### What a record sent again leaves as it was -/

theorem identSync_same {β : Type} (g : State → β) (hp : ∀ s p f, g (portMod s p f) = g s) (hb : ∀ s p i o n, g (bump s p i o n) = g s)
    (hw : ∀ s m, g (send s m) = g s) (hd : ∀ s, g (draw s).2 = g s) (s : State) : g (identSync s) = g s := by
  have slot : ∀ s p, g (flitSlot s p).2 = g s := by
    intro s p
    unfold flitSlot
    dsimp only
    split
    · exact hd s
    · rfl
  have pump : ∀ (p k : Nat) (s : State), g (pumpPort p k s) = g s := by
    intro p k
    induction k with
    | zero => exact fun _ => rfl
    | succ k ih =>
      intro s
      simp only [pumpPort]
      split
      · exact slot ..
      · rw [ih, hw, hb, hb, hp, slot]
  refine foldl_same g _ (fun s x => ?_) _ s
  split
  · unfold portResend portSend
    rw [pump, hp, hp]
  · rfl

@[simp] theorem identSync_fit (s : State) : (identSync s).fit = s.fit :=
  identSync_same State.fit (fun _ _ _ => rfl) (fun _ _ _ _ _ => rfl) (fun _ _ => rfl) (fun _ => rfl) s
@[simp] theorem identSync_regs (s : State) : (identSync s).regs = s.regs :=
  identSync_same State.regs (fun _ _ _ => rfl) (fun _ _ _ _ _ => rfl) (fun _ _ => rfl) (fun _ => rfl) s
@[simp] theorem identSync_arr (s : State) : (identSync s).arr = s.arr :=
  identSync_same State.arr (fun _ _ _ => rfl) (fun _ _ _ _ _ => rfl) (fun _ _ => rfl) (fun _ => rfl) s
@[simp] theorem identSync_dma (s : State) : (identSync s).dma = s.dma :=
  identSync_same State.dma (fun _ _ _ => rfl) (fun _ _ _ _ _ => rfl) (fun _ _ => rfl) (fun _ => rfl) s
@[simp] theorem identSync_mem (s : State) : (identSync s).mem = s.mem :=
  identSync_same State.mem (fun _ _ _ => rfl) (fun _ _ _ _ _ => rfl) (fun _ _ => rfl) (fun _ => rfl) s
@[simp] theorem identSync_seq (s : State) : (identSync s).seq = s.seq :=
  identSync_same State.seq (fun _ _ _ => rfl) (fun _ _ _ _ _ => rfl) (fun _ _ => rfl) (fun _ => rfl) s
@[simp] theorem identSync_upd (s : State) : (identSync s).upd = s.upd :=
  identSync_same State.upd (fun _ _ _ => rfl) (fun _ _ _ _ _ => rfl) (fun _ _ => rfl) (fun _ => rfl) s
@[simp] theorem identSync_cfl (s : State) : (identSync s).cfl = s.cfl :=
  identSync_same State.cfl (fun _ _ _ => rfl) (fun _ _ _ _ _ => rfl) (fun _ _ => rfl) (fun _ => rfl) s
@[simp] theorem identSync_hst (s : State) : (identSync s).hst = s.hst :=
  identSync_same State.hst (fun _ _ _ => rfl) (fun _ _ _ _ _ => rfl) (fun _ _ => rfl) (fun _ => rfl) s
@[simp] theorem identSync_mp (s : State) : (identSync s).mp = s.mp :=
  identSync_same State.mp (fun _ _ _ => rfl) (fun _ _ _ _ _ => rfl) (fun _ _ => rfl) (fun _ => rfl) s
@[simp] theorem identSync_pwr (s : State) : (identSync s).pwr = s.pwr :=
  identSync_same State.pwr (fun _ _ _ => rfl) (fun _ _ _ _ _ => rfl) (fun _ _ => rfl) (fun _ => rfl) s
@[simp] theorem identSync_thm (s : State) : (identSync s).thm = s.thm :=
  identSync_same State.thm (fun _ _ _ => rfl) (fun _ _ _ _ _ => rfl) (fun _ _ => rfl) (fun _ => rfl) s

end Sys2Proof.Machine
end

