-- ==== Sys2Proof/Laws/VaultUnits.lean ====
section
/-! SUPPORT. What the units never touch: one lemma per operation of the units says that it leaves the fitted unit, MIN_VER,
the stored counter, the enrolled key and the queue of commands as they are. -/

namespace Sys2Proof.Machine

@[simp] theorem vault_fold (s : State) : (s.fit, (s.mp.minBad, s.mp.minVer), s.mp.counter, s.mp.opkey, s.pending) = s.vault := rfl

@[simp] theorem vault_mk (a b c d e f g h i j k l m n o p q r t u v w x y z) :
    (State.mk a b c d e f g h i j k l m n o p q r t u v w x y z).vault = (a, (v.minBad, v.minVer), v.counter, v.opkey, z) := rfl

@[simp] theorem foldl_vault {α : Type} (f : State → α → State) (h : ∀ s x, (f s x).vault = s.vault) (l : List α) (s : State) :
    (l.foldl f s).vault = s.vault := by
  induction l generalizing s with
  | nil => rfl
  | cons x r ih => simp [ih, h]

@[simp] theorem foldl_acc_vault {α : Type} (f : DmaAcc → α → DmaAcc) (h : ∀ s x, (f s x).s.vault = s.s.vault) (l : List α) (s : DmaAcc) :
    (l.foldl f s).s.vault = s.s.vault := by
  induction l generalizing s with
  | nil => rfl
  | cons x r ih => simp [ih, h]

@[simp] theorem foldl_fst_vault {α β : Type} (f : State × β → α → State × β) (h : ∀ s x, (f s x).1.vault = s.1.vault)
    (l : List α) (s : State × β) : (l.foldl f s).1.vault = s.1.vault := by
  induction l generalizing s with
  | nil => rfl
  | cons x r ih => simp [ih, h]

@[simp] theorem foldl_snd_vault {α β : Type} (f : β × State → α → β × State) (h : ∀ s x, (f s x).2.vault = s.2.vault)
    (l : List α) (s : β × State) : (l.foldl f s).2.vault = s.2.vault := by
  induction l generalizing s with
  | nil => rfl
  | cons x r ih => simp [ih, h]

/-! ### Ops -/

@[simp] theorem regSet_vault (s : State) (off : Nat) (v : Word) : (regSet s off v).vault = s.vault := by simp [regSet]
@[simp] theorem pgSet_vault (s : State) (p : Pg) (i o : Nat) (v : Word) : (pgSet s p i o v).vault = s.vault := by simp [pgSet]
@[simp] theorem send_vault (s : State) (m : Msg) : (send s m).vault = s.vault := by simp [send]
@[simp] theorem ctrSet_vault (s : State) (p : Pg) (i o : Nat) (v : DWord) : (ctrSet s p i o v).vault = s.vault := by simp [ctrSet]
@[simp] theorem bump_vault (s : State) (p : Pg) (i o n : Nat) : (bump s p i o n).vault = s.vault := by simp [bump]
@[simp] theorem peerSet_vault (s : State) (p : HctPeer) (r : Peer) : (peerSet s p r).vault = s.vault := by unfold peerSet; split <;> simp
@[simp] theorem holdNd_vault (s : State) (m : NdMsg) : (holdNd s m).vault = s.vault := by simp [holdNd]
@[simp] theorem sendSolicit_vault (s : State) (a : BitVec 128) : (sendSolicit s a).vault = s.vault := by unfold sendSolicit; simp [apply_ite State.vault]
@[simp] theorem solicitAddr_vault (s : State) (a : BitVec 128) : (solicitAddr s a).vault = s.vault := by unfold solicitAddr; simp [apply_ite State.vault]
@[simp] theorem sendNd_vault (s : State) (m : NdMsg) : (sendNd s m).vault = s.vault := by unfold sendNd; (repeat' split) <;> simp
@[simp] theorem pumpNd_vault (s : State) : (pumpNd s).vault = s.vault := by simp [pumpNd]
@[simp] theorem solicitPeer_vault (s : State) (p : HctPeer) : (solicitPeer s p).vault = s.vault := by simp [solicitPeer]
@[simp] theorem sendAck_vault (s : State) (p : HctPeer) : (sendAck s p).vault = s.vault := by unfold sendAck; simp [apply_ite State.vault]
@[simp] theorem sendSync_vault (s : State) : (sendSync s).vault = s.vault := by unfold sendSync; simp [apply_ite State.vault]
@[simp] theorem sendDue_vault (p : HctPeer) (s : State) : (sendDue p s).vault = s.vault := by unfold sendDue; simp [apply_ite State.vault]
@[simp] theorem pumpFrames_vault (p : HctPeer) (k : Nat) (s : State) : (pumpFrames p k s).vault = s.vault := by
  induction k generalizing s with
  | zero => rfl
  | succ k ih => simp only [pumpFrames]; (repeat' split) <;> simp [ih]
@[simp] theorem pumpPeer_vault (p : HctPeer) (k : Nat) (s : State) : (pumpPeer p k s).vault = s.vault := by simp [pumpPeer]
@[simp] theorem sendFrame_vault (s : State) (p : HctPeer) (f : Frame) : (sendFrame s p f).vault = s.vault := by unfold sendFrame; simp [apply_ite State.vault]
@[simp] theorem sendIrq_vault (s : State) (es : List (Nat × Word)) : (sendIrq s es).vault = s.vault := by unfold sendIrq; simp [apply_ite State.vault]
@[simp] theorem irqTouch_vault (s : State) (p : Pg) (i : Nat) (before : Word) : (irqTouch s p i before).vault = s.vault := by unfold irqTouch; simp [apply_ite State.vault]
@[simp] theorem setInt_vault (s : State) (p : Pg) (i : Nat) (bits : Word) : (setInt s p i bits).vault = s.vault := by simp [setInt]
@[simp] theorem setIntOnce_vault (s : State) (p : Pg) (i bit : Nat) : (setIntOnce s p i bit).vault = s.vault := by unfold setIntOnce; simp [apply_ite State.vault]
@[simp] theorem bumpCnv_vault (s : State) (p : Pg) (i o : Nat) (c : CnvCnt) : (bumpCnv s p i o c).vault = s.vault := by simp [bumpCnv]
@[simp] theorem arrSet_vault (s : State) (a : Nat) (r : Arr) : (arrSet s a r).vault = s.vault := by simp [arrSet]
@[simp] theorem arrMod_vault (s : State) (a : Nat) (f : Arr → Arr) : (arrMod s a f).vault = s.vault := by simp [arrMod]
@[simp] theorem dmaMod_vault (s : State) (e : Nat) (f : Dma → Dma) : (dmaMod s e f).vault = s.vault := by simp [dmaMod]
@[simp] theorem memWrite_vault (s : State) (h off : Nat) (bs : List Byte) : (memWrite s h off bs).vault = s.vault := by simp [memWrite]
@[simp] theorem workWrite_vault (s : State) (h off : Nat) (bs : List Byte) : (workWrite s h off bs).vault = s.vault := by unfold workWrite; simp [apply_ite State.vault]
@[simp] theorem draw_vault (s : State) : (draw s).2.vault = s.vault := by simp [draw]
@[simp] theorem tstCount_vault (s : State) (p : Pg) (i o n : Nat) : (tstCount s p i o n).vault = s.vault := by simp [tstCount]
@[simp] theorem crossing_vault (p : Pg) (i : Nat) (s : State) : (crossing p i s).vault = s.vault := by unfold crossing; simp [apply_ite State.vault]
@[simp] theorem crossings_vault (p : Pg) (i : Nat) (s : State) : (crossings p i s).vault = s.vault := by unfold crossings; simp [apply_ite State.vault]
@[simp] theorem reguMod_vault (s : State) (a : Nat) (f : Regu → Regu) : (reguMod s a f).vault = s.vault := by simp [reguMod]
@[simp] theorem stageMod_vault (s : State) (t : Nat) (f : Stage → Stage) : (stageMod s t f).vault = s.vault := by simp [stageMod]

/-! ### Cache -/

@[simp] theorem hbmBytes_vault (s : State) (k c n : Nat) : (hbmBytes s k c n).vault = s.vault := by simp [hbmBytes]
@[simp] theorem injectErrs_vault (stack n : Nat) (s : State) : (injectErrs stack n s).vault = s.vault := by unfold injectErrs; simp [apply_ite State.vault]
@[simp] theorem runAccess_vault (prio : Nat) (k : AccKind) (alloc : Bool) (stack phys lo n : Nat) (s : State) : (runAccess prio k alloc stack phys lo n s).vault = s.vault := by unfold runAccess; simp [apply_ite State.vault]
@[simp] theorem memAccess_vault (prio : Nat) (k : AccKind) (bypass work : Bool) (h off n : Nat) (s : State) : (memAccess prio k bypass work h off n s).vault = s.vault := by unfold memAccess; split <;> simp
@[simp] theorem memReads_vault (prio h off n : Nat) (s : State) : (memReads prio h off n s).vault = s.vault := by simp [memReads]
@[simp] theorem memWrites_vault (prio h off n : Nat) (s : State) : (memWrites prio h off n s).vault = s.vault := by simp [memWrites]
@[simp] theorem seqReads_vault (h off n : Nat) (s : State) : (seqReads h off n s).vault = s.vault := by simp [seqReads]
@[simp] theorem seqWrites_vault (h off n : Nat) (s : State) : (seqWrites h off n s).vault = s.vault := by simp [seqWrites]
@[simp] theorem dropPage_vault (prio stack phys : Nat) (wb : Bool) (s : State) : (dropPage prio stack phys wb s).vault = s.vault := by simp [dropPage]
@[simp] theorem takePolicies_vault (s : State) : (takePolicies s).vault = s.vault := by unfold takePolicies; apply foldl_vault; intro s x; (repeat' split) <;> simp

/-! ### Program -/

@[simp] theorem slotWrite_vault (s : State) (p : Prog) (wide : Nat → Bool) (t k a : Nat) : (slotWrite s p wide t k a).vault = s.vault := by simp [slotWrite]
@[simp] theorem setWide_vault (s : State) (p : Prog) : (setWide s p).vault = s.vault := by simp [setWide]
@[simp] theorem clearSlots_vault (s : State) : (clearSlots s).vault = s.vault := by simp [clearSlots]
@[simp] theorem assignSlots_vault (s : State) (p : Prog) (wide : Nat → Bool) : (assignSlots s p wide).vault = s.vault := by simp [assignSlots]
@[simp] theorem reassemble_vault (s : State) (p : Prog) (wide : Nat → Bool) : (reassemble s p wide).vault = s.vault := by unfold reassemble; apply foldl_vault; intro s x; dsimp only; (repeat' split) <;> simp

/-! ### Arrays -/

@[simp] theorem ldpEffect_vault (a : Nat) (i : ArrInst) (f : Fmt) (s : State) : (ldpEffect a i f s).vault = s.vault := by unfold ldpEffect; simp [apply_ite State.vault]
@[simp] theorem mmEffect_vault (fwd : Bool) (a : Nat) (i : ArrInst) (f : Fmt) (s : State) : (mmEffect fwd a i f s).vault = s.vault := by unfold mmEffect; simp [apply_ite State.vault]
@[simp] theorem monFeed_vault (s : State) (id : Nat) (xs : List Num) : (monFeed s id xs).vault = s.vault := by
  unfold monFeed; dsimp only; (repeat' split) <;> rfl
@[simp] theorem lsAtomics_vault (s : State) (a n amb : Nat) : (lsAtomics s a n amb).vault = s.vault := by unfold lsAtomics; simp [apply_ite State.vault]
@[simp] theorem drnEffect_vault (a : Nat) (i : ArrInst) (amb : Nat) (f : Fmt) (s : State) : (drnEffect a i amb f s).vault = s.vault := by unfold drnEffect; simp [apply_ite State.vault]
@[simp] theorem arriveAt_vault (s : State) (w p : Nat) : (arriveAt s w p).vault = s.vault := by simp [arriveAt]
@[simp] theorem arrArrive_vault (a w p : Nat) (s : State) : (arrArrive a w p s).vault = s.vault := by simp only [arrArrive]; (repeat' split) <;> simp
@[simp] theorem loopEffect_vault (a : Nat) (i : ArrInst) (s : State) : (loopEffect a i s).vault = s.vault := by simp [loopEffect]
@[simp] theorem nextEffect_vault (a : Nat) (i : ArrInst) (s : State) : (nextEffect a i s).vault = s.vault := by simp [nextEffect]

/-! ### RowEngine -/

@[simp] theorem rowEffect_vault (op a : Nat) (d : RowDesc) (amb : Nat) (s : State) : (rowEffect op a d amb s).vault = s.vault := by unfold rowEffect; simp [apply_ite State.vault]

/-! ### Dma -/

@[simp] theorem scaleMod_vault (s : State) (n : Nat) (f : ScaleRun → ScaleRun) : (scaleMod s n f).vault = s.vault := by simp [scaleMod]
@[simp] theorem epTouch_vault (k : AccKind) (e : Endpoint) (off n : Nat) (s : State) : (epTouch k e off n s).vault = s.vault := by unfold epTouch; simp [apply_ite State.vault]
@[simp] theorem epWrite_vault (s : State) (t : Nat) (e : Endpoint) (off : Nat) (bs : List Byte) : (epWrite s t e off bs).vault = s.vault := by unfold epWrite; (repeat' split) <;> simp
@[simp] theorem sliceAtomics_vault (s : State) (tile n amb : Nat) : (sliceAtomics s tile n amb).vault = s.vault := by unfold sliceAtomics; simp [apply_ite State.vault]
@[simp] theorem epAtomic_vault (s : State) (t : Nat) (e : Endpoint) (off n amb : Nat) : (epAtomic s t e off n amb).vault = s.vault := by unfold epAtomic; (repeat' split) <;> simp
@[simp] theorem mixRead_vault (e n k : Nat) (bs : List Byte) (s : State) : (mixRead e n k bs s).2.vault = s.vault := by simp only [mixRead]; (repeat' split) <;> simp
@[simp] theorem mixWrite_vault (e n k : Nat) (old new : List Byte) (s : State) : (mixWrite e n k old new s).2.vault = s.vault := by simp only [mixWrite]; (repeat' split) <;> simp
@[simp] theorem readRowOf_vault (e n : Nat) (d : DmaDesc) (s : State) (r : Nat) : (readRowOf e n d s r).2.2.vault = s.vault := by simp [readRowOf]
@[simp] theorem writeRowOf_vault (e n : Nat) (d : DmaDesc) (off : Nat) (bs : List Byte) (acc : DmaAcc) : (writeRowOf e n d off bs acc).s.vault = acc.s.vault := by simp [writeRowOf]
@[simp] theorem copyRows_vault (e n : Nat) (d : DmaDesc) (slot : Nat) (s : State) : (copyRows e n d slot s).s.vault = s.vault := by
  unfold copyRows
  have h : ∀ (l : List Nat) (q : List RowOut × DmaAcc),
      (l.foldl (fun (acc : List RowOut × DmaAcc) r =>
        let x := readRowOf e n d acc.2.s r
        let o := dmaRow d s r x.1
        (acc.1 ++ [o], ({ s := x.2.2, cnv := acc.2.cnv.add o.cnt, amax := maxFinite [acc.2.amax, o.amax], poison := acc.2.poison || x.2.1 } : DmaAcc))) q).2.s.vault
        = q.2.s.vault := by
    intro l
    induction l with
    | nil => intro q; rfl
    | cons x r ih => intro q; simp only [List.foldl_cons]; rw [ih]; simp
  dsimp only
  (repeat' split) <;> simp [h]
@[simp] theorem atomicElem_vault (op t : Nat) (d : DmaDesc) (amb : Bool) (doff soff : Nat) (x : List Byte) (acc : DmaAcc) : (atomicElem op t d amb doff soff x acc).s.vault = acc.s.vault := by unfold atomicElem; simp [apply_ite State.vault]
@[simp] theorem atomicRow_vault (op e n : Nat) (d : DmaDesc) (amb : List Nat) (acc : DmaAcc) (r : Nat) : (atomicRow op e n d amb acc r).s.vault = acc.s.vault := by unfold atomicRow; simp [apply_ite State.vault]
@[simp] theorem busyMod_vault (s : State) (e n : Nat) (f : DmaBusy → DmaBusy) : (busyMod s e n f).vault = s.vault := by simp [busyMod]
@[simp] theorem dmaPoisons_vault (e n idx : Nat) (s : State) : (dmaPoisons e n idx s).vault = s.vault := by unfold dmaPoisons; simp [apply_ite State.vault]
@[simp] theorem dmaCount_vault (op e n idx : Nat) (d : DmaDesc) (acc : DmaAcc) : (dmaCount op e n idx d acc).vault = acc.s.vault := by unfold dmaCount; simp [apply_ite State.vault]
@[simp] theorem foldScale_vault (d : DmaDesc) (amax : Num) (s : State) : (foldScale d amax s).vault = s.vault := by unfold foldScale; simp [apply_ite State.vault]
@[simp] theorem issuePop_vault (s : State) (q idx : Nat) : (issuePop s q idx).vault = s.vault := by unfold issuePop; (repeat' split) <;> simp
@[simp] theorem cidBump_vault (s : State) (t c : Nat) : (cidBump s t c).vault = s.vault := by unfold cidBump; simp [apply_ite State.vault]
@[simp] theorem dmaDone_vault (s : State) (e cid : Nat) : (dmaDone s e cid).vault = s.vault := by simp [dmaDone]
@[simp] theorem fetchDesc_vault (s : State) (st u i : Nat) : (fetchDesc s st u i).vault = s.vault := by unfold fetchDesc; split <;> simp
@[simp] theorem dmaIssue_vault (s : State) (e idx no cid : Nat) (fill : Option (Nat × Nat × Nat)) : (dmaIssue s e idx no cid fill).vault = s.vault := by simp [dmaIssue]
@[simp] theorem dmaMove_vault (op e n idx : Nat) (d : DmaDesc) (slot : Nat) (amb : List Nat) (s : State) :
    (dmaMove op e n idx d slot amb s).vault = s.vault := by
  unfold dmaMove; by_cases h : op = 1 <;> simp [h]
@[simp] theorem dmaProbe_vault (e n idx : Nat) (d : DmaDesc) (s : State) : (dmaProbe e n idx d s).vault = s.vault := by unfold dmaProbe; simp [apply_ite State.vault]
@[simp] theorem ringFull_vault (s : State) (a ring slot : Nat) : (ringFull s a ring slot).vault = s.vault := by simp [ringFull]
@[simp] theorem ringHeld_vault (a ring : Nat) (s : State) : (ringHeld a ring s).vault = s.vault := by simp [ringHeld]
@[simp] theorem dmaEnd_vault (e : Nat) (b : DmaBusy) (s : State) : (dmaEnd e b s).vault = s.vault := by simp only [dmaEnd]; (repeat' split) <;> simp
@[simp] theorem dmaCompleteEffect_vault (e idx : Nat) (s : State) : (dmaCompleteEffect e idx s).vault = s.vault := by unfold dmaCompleteEffect; (repeat' split) <;> simp
@[simp] theorem setK_vault (s : State) (n : Nat) : (setK s n).vault = s.vault := by simp [setK]
@[simp] theorem probeConvert_vault (s : State) (p : DmaRef) : (probeConvert s p).vault = s.vault := by simp [probeConvert]
@[simp] theorem probeCount_vault (s : State) (n : Nat) : (probeCount s n).vault = s.vault := by unfold probeCount; simp [apply_ite State.vault]
@[simp] theorem probeEndEffect_vault (e idx : Nat) (s : State) : (probeEndEffect e idx s).vault = s.vault := by unfold probeEndEffect; (repeat' split) <;> simp
@[simp] theorem noOpEnd_vault (e n : Nat) (d : DmaDesc) (s : State) : (noOpEnd e n d s).vault = s.vault := by simp only [noOpEnd]; (repeat' split) <;> simp
@[simp] theorem dmaWork_vault (op e n idx : Nat) (d : DmaDesc) (slot : Nat) (amb : List Nat) (s : State) : (dmaWork op e n idx d slot amb s).vault = s.vault := by unfold dmaWork; simp [apply_ite State.vault]
@[simp] theorem dmaRun_vault (op e idx : Nat) (d : DmaDesc) (amb : List Nat) (s : State) : (dmaRun op e idx d amb s).vault = s.vault := by simp only [dmaRun]; (repeat' split) <;> simp
@[simp] theorem ringFullDelayEffect_vault (a ring slot : Nat) (s : State) : (ringFullDelayEffect a ring slot s).vault = s.vault := by simp only [ringFullDelayEffect]; (repeat' split) <;> simp
@[simp] theorem ringFillEffect_vault (a ring : Nat) (s : State) : (ringFillEffect a ring s).vault = s.vault := by simp only [ringFillEffect]; (repeat' split) <;> simp

/-! ### Memory -/

@[simp] theorem logEntry_vault (s : State) (kind : Nat) (source : Word) (status : Half) (payload : List Byte) : (logEntry s kind source status payload).2.vault = s.vault := by simp [logEntry]
@[simp] theorem logRecord_vault (e : LogEnt) (s : State) : (logRecord e s).vault = s.vault := by unfold logRecord; simp [apply_ite State.vault]
@[simp] theorem logEvent_vault (e : LogEnt) (s : State) : (logEvent e s).vault = s.vault := by simp [logEvent]
@[simp] theorem logPut_vault (s : State) (kind : Nat) (source : Word) (status : Half) (payload : List Byte) : (logPut s kind source status payload).vault = s.vault := by unfold logPut; simp [apply_ite State.vault]
@[simp] theorem delayedLogEffect_vault (s : State) : (delayedLogEffect s).vault = s.vault := by unfold delayedLogEffect; (repeat' split) <;> simp
@[simp] theorem logTask_vault (s : State) (kind : Nat) (p : Pg) (i : Nat) (status : Half) (payload : List Byte) : (logTask s kind p i status payload).vault = s.vault := by unfold logTask; simp [apply_ite State.vault]
@[simp] theorem compactionEffect_vault (s : State) : (compactionEffect s).vault = s.vault := by unfold compactionEffect; simp [apply_ite State.vault]
@[simp] theorem writeEvent_vault (e : LogEnt) (s : State) : (writeEvent e s).vault = s.vault := by unfold writeEvent; simp [apply_ite State.vault]
@[simp] theorem logWriteEffect_vault (kind : Byte) (page : Word) (status : Half) (payload : List Byte) (s : State) : (logWriteEffect kind page status payload s).vault = s.vault := by unfold logWriteEffect; (repeat' split) <;> simp
@[simp] theorem hbmMod_vault (s : State) (k : Nat) (f : Hbm → Hbm) : (hbmMod s k f).vault = s.vault := by simp [hbmMod]
@[simp] theorem freePhys_vault (s : State) (k : Nat) : (freePhys s k).vault = s.vault := by
  unfold freePhys; dsimp only; rw [vault_mk, vault_fold]; simp
@[simp] theorem joinMigs_vault (s : State) (g : Mig) : (joinMigs s g).vault = s.vault := by unfold joinMigs; dsimp only; rw [vault_mk, vault_fold]; simp
@[simp] theorem startMig_vault (s : State) (g : Mig) : (startMig s g).vault = s.vault := by unfold startMig; (repeat' split) <;> simp
@[simp] theorem retryMigs_vault (s : State) : (retryMigs s).vault = s.vault := by simp [retryMigs]
@[simp] theorem checkPage_vault (s : State) (stack i : Nat) : (checkPage s stack i).vault = s.vault := by unfold checkPage; (repeat' split) <;> simp
@[simp] theorem checkMigs_vault (s : State) : (checkMigs s).vault = s.vault := by simp [checkMigs]
@[simp] theorem retirePage_vault (s : State) (stack i handle page : Nat) (payload : List Byte) : (retirePage s stack i handle page payload).vault = s.vault := by simp [retirePage]
@[simp] theorem allocTensor_vault (s : State) (size cls : Nat) (pages : List Page) (used : AMap Bool) : (allocTensor s size cls pages used).2.vault = s.vault := by simp [allocTensor]
@[simp] theorem freeTensor_vault (s : State) (h : Nat) : (freeTensor s h).vault = s.vault := by unfold freeTensor; split <;> simp
@[simp] theorem retireRow_vault (s : State) (stack pch bank row : Nat) : (retireRow s stack pch bank row).vault = s.vault := by simp only [retireRow]; (repeat' split) <;> simp
@[simp] theorem remapTo_vault (s : State) (stack pch bank row pool count n : Nat) : (remapTo s stack pch bank row pool count n).vault = s.vault := by unfold remapTo; simp [apply_ite State.vault]
@[simp] theorem rowFail_vault (s : State) (stack pch bank row : Nat) : (rowFail s stack pch bank row).vault = s.vault := by simp only [rowFail]; (repeat' split) <;> simp
@[simp] theorem poisonRow_vault (s : State) (stack pch bank row : Nat) : (poisonRow s stack pch bank row).vault = s.vault := by unfold poisonRow; (repeat' split) <;> simp
@[simp] theorem rowErrors_vault (stack pch bank row corrected : Nat) (ue : Bool) (ce : Nat → Nat) (s : State) : (rowErrors stack pch bank row corrected ue ce s).vault = s.vault := by unfold rowErrors; simp [apply_ite State.vault]
@[simp] theorem extraRefreshes_vault (stack : Nat) (s : State) : (extraRefreshes stack s).vault = s.vault := by unfold extraRefreshes; simp [apply_ite State.vault]
@[simp] theorem scrubEffect_vault (stack pch bank row corrected : Nat) (ue : Bool) (s : State) : (scrubEffect stack pch bank row corrected ue s).vault = s.vault := by unfold scrubEffect; simp [apply_ite State.vault]
@[simp] theorem readRow_vault (h : Nat) (s : State) (x : RowErr) : (readRow h s x).vault = s.vault := by unfold readRow; simp [apply_ite State.vault]
@[simp] theorem readErrs_vault (d : DmaDesc) (errs : List RowErr) (s : State) : (readErrs d errs s).vault = s.vault := by unfold readErrs; simp [apply_ite State.vault]
@[simp] theorem leavePage_vault (stack phys dstStack : Nat) (s : State) : (leavePage stack phys dstStack s).vault = s.vault := by simp [leavePage]
@[simp] theorem migrationSwitchEffect_vault (h page : Nat) (ver : Bool) (s : State) : (migrationSwitchEffect h page ver s).vault = s.vault := by unfold migrationSwitchEffect; (repeat' split) <;> simp
@[simp] theorem marginDoneEffect_vault (stack errors : Nat) (s : State) : (marginDoneEffect stack errors s).vault = s.vault := by unfold marginDoneEffect; simp [apply_ite State.vault]

/-! ### Update -/

@[simp] theorem updMod_vault (s : State) (u : Nat) (f : Upd → Upd) : (updMod s u f).vault = s.vault := by simp [updMod]
@[simp] theorem dropCarries_vault (s : State) : (dropCarries s).vault = s.vault := by unfold dropCarries; split <;> simp
@[simp] theorem bumpPages_vault (s : State) (o : Nat) (e : Ext) : (bumpPages s o e).vault = s.vault := by simp [bumpPages]
@[simp] theorem unitPoison_vault (s : State) (es : List Ext) : (unitPoison s es).vault = s.vault := by simp [unitPoison]
@[simp] theorem copyReads_vault (ws : List (Nat × Nat × List Byte)) (s : State) : (copyReads ws s).vault = s.vault := by simp [copyReads]
@[simp] theorem unitReads_vault (s : State) (es : List Ext) : (unitReads s es).vault = s.vault := by simp [unitReads]
@[simp] theorem touchPage_vault (s : State) (h k : Nat) : (touchPage s h k).vault = s.vault := by unfold touchPage; simp [apply_ite State.vault]
@[simp] theorem unbump_vault (s : State) (p : Pg) (i o n : Nat) : (unbump s p i o n).vault = s.vault := by simp [unbump]
@[simp] theorem updWrite_vault (s : State) (w : Nat × Nat × List Byte) : (updWrite s w).vault = s.vault := by simp [updWrite]
@[simp] theorem stateWrite_vault (s : State) (w : Nat × Nat × List Byte) : (stateWrite s w).vault = s.vault := by simp [stateWrite]
@[simp] theorem clipFactor_vault (u : Nat) (d : UpdDesc) (r : Rule) (s : State) : (clipFactor u d r s).2.2.vault = s.vault := by simp only [clipFactor]; (repeat' split) <;> simp
@[simp] theorem noteLayer_vault (s : State) (l : Nat) (ef : Bool) (ps : List Proj) : (noteLayer s l ef ps).vault = s.vault := by unfold noteLayer; simp [apply_ite State.vault]
@[simp] theorem updApply_vault (u : Nat) (v : UpdEnv) (acc : UpdAcc) (s : State) : (updApply u v acc s).vault = s.vault := by unfold updApply; simp [apply_ite State.vault]
@[simp] theorem touchFault_vault (u idx : Nat) (range : Bool) (s : State) : (touchFault u idx range s).vault = s.vault := by simp [touchFault]
@[simp] theorem updSweep_vault (op u idx : Nat) (d : UpdDesc) (p : Prog) (s : State) : (updSweep op u idx d p s).vault = s.vault := by unfold updSweep; simp [apply_ite State.vault]
@[simp] theorem updRun_vault (op u idx : Nat) (d : UpdDesc) (s : State) : (updRun op u idx d s).vault = s.vault := by
  unfold updRun
  split
  · rfl
  · split
    · rfl
    · generalize hx : fetchDesc (issuePop s (updQueue u) idx) (u / 3 + 1) (32 + u % 3) idx = x
      have h : x.vault = s.vault := by rw [← hx]; simp
      dsimp only
      split <;> simp [h]
@[simp] theorem updateCompleteEffect_vault (u idx : Nat) (s : State) : (updateCompleteEffect u idx s).vault = s.vault := by unfold updateCompleteEffect; (repeat' split) <;> simp
@[simp] theorem runWaiting_vault (s : State) : (runWaiting s).vault = s.vault := by
  unfold runWaiting
  cases s.seq.prog with
  | none => rfl
  | some p =>
    dsimp only
    split
    · rfl
    · apply foldl_vault; intro s x
      cases (updGet s x).waiting with
      | none => rfl
      | some w => cases (updGet s x).active with
        | none => rfl
        | some v => dsimp only; by_cases h : updFenced w.1 w.2 p s = true <;> simp [h]

/-! ### Links -/

@[simp] theorem linkDelay_vault (s : State) (p : Pg) (i k : Nat) : (linkDelay s p i k).vault = s.vault := by unfold linkDelay; simp [apply_ite State.vault]
@[simp] theorem fecCount_vault (p : Pg) (i o : Nat) (r : FecRx) (s : State) : (fecCount p i o r s).vault = s.vault := by unfold fecCount; simp [apply_ite State.vault]
@[simp] theorem portMod_vault (s : State) (p : Nat) (f : Port → Port) : (portMod s p f).vault = s.vault := by simp [portMod]
@[simp] theorem flitSlot_vault (s : State) (p : Nat) : (flitSlot s p).2.vault = s.vault := by simp only [flitSlot]; (repeat' split) <;> simp
@[simp] theorem pumpPort_vault (p : Nat) (k : Nat) (s : State) : (pumpPort p k s).vault = s.vault := by
  induction k generalizing s with
  | zero => rfl
  | succ k ih => simp only [pumpPort]; (repeat' split) <;> simp [ih]
@[simp] theorem portSend_vault (s : State) (p : Nat) (f : OutFlit) : (portSend s p f).vault = s.vault := by simp [portSend]
@[simp] theorem flitTo_vault (s : State) (dest tc off : Nat) (b : FlitBody) : (flitTo s dest tc off b).vault = s.vault := by unfold flitTo; split <;> simp
@[simp] theorem itemAt_vault (s : State) (dest tc idx at' : Nat) (sh w : Bool) (bs : List Byte) : (itemAt s dest tc idx at' sh w bs).vault = s.vault := by simp [itemAt]
@[simp] theorem itemTo_vault (s : State) (dest tc idx : Nat) (sh : Bool) (bs : List Byte) : (itemTo s dest tc idx sh bs).vault = s.vault := by simp [itemTo]
@[simp] theorem recordAll_vault (s : State) (b : FlitBody) : (recordAll s b).vault = s.vault := by unfold recordAll; split <;> simp
@[simp] theorem portReplay_vault (s : State) (p : Nat) : (portReplay s p).vault = s.vault := by simp [portReplay]
@[simp] theorem portIdent_vault (s : State) (p : Nat) (r : IdentRec) : (portIdent s p r).vault = s.vault := by simp [portIdent]
@[simp] theorem portUp_vault (s : State) (p : Nat) : (portUp s p).vault = s.vault := by simp [portUp]
@[simp] theorem noticeAll_vault (s : State) (origin : Nat) (status : Half) (hold : Bool) (except : Option Nat) : (noticeAll s origin status hold except).vault = s.vault := by unfold noticeAll; simp [apply_ite State.vault]

/-! ### Confluence -/

@[simp] theorem lcuLossy_vault (s : State) (p : Nat) (outs : List BlkOut) (flush inBytes outBytes : Nat) : (lcuLossy s p outs flush inBytes outBytes).vault = s.vault := by unfold lcuLossy; simp [apply_ite State.vault]
@[simp] theorem lcuCode_vault (s : State) (p : Nat) (bs : List Byte) : (lcuCode s p bs).2.vault = s.vault := by simp [lcuCode]
@[simp] theorem opPut_vault (s : State) (o : CflOp) : (opPut s o).vault = s.vault := by simp [opPut]
@[simp] theorem cflReads_vault (s : State) (es : List Ext) : (cflReads s es).vault = s.vault := by simp [cflReads]
@[simp] theorem cflWrite_vault (s : State) (h off : Nat) (bs : List Byte) : (cflWrite s h off bs).vault = s.vault := by simp [cflWrite]
@[simp] theorem evRaise_vault (s : State) (e n : Nat) : (evRaise s e n).vault = s.vault := by unfold evRaise; simp [apply_ite State.vault]
@[simp] theorem rootDone_vault (s : State) : (rootDone s).vault = s.vault := by simp [rootDone]
@[simp] theorem ledgerFull_vault (s : State) : (ledgerFull s).vault = s.vault := by simp [ledgerFull]
@[simp] theorem drainDone_vault (s : State) (p : Nat) (gone : List OutFlit) : (drainDone s p gone).vault = s.vault := by simp [drainDone]
@[simp] theorem drainRun_vault (p idx ev : Nat) (s : State) : (drainRun p idx ev s).vault = s.vault := by unfold drainRun; simp [apply_ite State.vault]
@[simp] theorem dropParts_vault (s : State) (idx : Nat) : (dropParts s idx).vault = s.vault := by simp [dropParts]
@[simp] theorem decide'_vault (s : State) (o : CflOp) (map : DWord) (policy : Nat) : (decide' s o map policy).vault = s.vault := by simp only [decide']; (repeat' split) <;> simp
@[simp] theorem leaderDecide_vault (s : State) (o : CflOp) (map : DWord) (policy : Nat) : (leaderDecide s o map policy).vault = s.vault := by simp [leaderDecide]
@[simp] theorem opBuffers_vault (s : State) (o : CflOp) : (opBuffers s o).vault = s.vault := by simp only [opBuffers]; (repeat' split) <;> simp
@[simp] theorem spillOut_vault (s : State) (o : CflOp) (bs : List Byte) : (spillOut s o bs).vault = s.vault := by simp [spillOut]
@[simp] theorem spillAdd_vault (s : State) (o : CflOp) (sum : List Byte) : (spillAdd s o sum).vault = s.vault := by simp [spillAdd]
@[simp] theorem stagePart_vault (s : State) (o : CflOp) (j : Nat) : (stagePart s o j).vault = s.vault := by simp only [stagePart]; (repeat' split) <;> simp
@[simp] theorem opStageOnce_vault (s : State) (idx : Nat) : (opStageOnce s idx).vault = s.vault := by unfold opStageOnce; apply foldl_vault; intro s x; (repeat' split) <;> simp
@[simp] theorem opStage_vault (s : State) (idx : Nat) : (opStage s idx).vault = s.vault := by simp [opStage]
@[simp] theorem basinJoin_vault (s : State) (o : CflOp) (r : Option Nat) : (basinJoin s o r).vault = s.vault := by simp only [basinJoin]; (repeat' split) <;> simp
@[simp] theorem basinSpill_vault (s : State) (o : CflOp) (p : BasinPart) : (basinSpill s o p).vault = s.vault := by simp only [basinSpill]; (repeat' split) <;> simp
@[simp] theorem opFinish_vault (s : State) (o : CflOp) (sum : List F32) : (opFinish s o sum).vault = s.vault := by unfold opFinish; simp [apply_ite State.vault]
@[simp] theorem basinSend_vault (s : State) (o : CflOp) (sum : List F32) : (basinSend s o sum).vault = s.vault := by unfold basinSend; dsimp only; (repeat' split) <;> (try simp) <;> (rw [foldl_vault]; (try simp); intro s x; (repeat' split) <;> simp)
@[simp] theorem opCombine_vault (s : State) (o : CflOp) : (opCombine s o).vault = s.vault := by simp only [opCombine]; (repeat' split) <;> simp
@[simp] theorem opResults_vault (s : State) (o : CflOp) : (opResults s o).vault = s.vault := by unfold opResults; dsimp only; (repeat' split) <;> (try simp) <;> (rw [foldl_vault]; (try simp); intro s x; (repeat' split) <;> simp)
@[simp] theorem opNorm_vault (s : State) (o : CflOp) : (opNorm s o).vault = s.vault := by simp only [opNorm]; (repeat' split) <;> simp
@[simp] theorem opGather_vault (s : State) (o : CflOp) : (opGather s o).vault = s.vault := by unfold opGather; apply foldl_vault; intro s x; dsimp only; (repeat' split) <;> simp
@[simp] theorem xchgWrite_vault (s : State) (o : CflOp) (j : Nat) (cs : List Nat) (rows : List Byte) : (xchgWrite s o j cs rows).vault = s.vault := by unfold xchgWrite; simp [apply_ite State.vault]
@[simp] theorem opXchg_vault (s : State) (o : CflOp) : (opXchg s o).vault = s.vault := by unfold opXchg; apply foldl_vault; intro s x; (repeat' split) <;> simp
@[simp] theorem opStep_vault (s : State) (idx : Nat) : (opStep s idx).vault = s.vault := by simp only [opStep]; (repeat' split) <;> simp
@[simp] theorem cflAdvance_vault (s : State) : (cflAdvance s).vault = s.vault := by unfold cflAdvance; simp [apply_ite State.vault]
@[simp] theorem markerNote_vault (dev : Nat) (o : CflOp) (s : State) : (markerNote dev o s).vault = s.vault := by unfold markerNote; simp [apply_ite State.vault]
@[simp] theorem markerDue_vault (s : State) (idx : Nat) : (markerDue s idx).vault = s.vault := by simp only [markerDue]; (repeat' split) <;> simp
@[simp] theorem markersDue_vault (s : State) : (markersDue s).vault = s.vault := by simp [markersDue]
@[simp] theorem startReduce_vault (s : State) (o : CflOp) : (startReduce s o).vault = s.vault := by
  unfold startReduce; dsimp only; (repeat' split) <;> simp [apply_ite State.vault]
@[simp] theorem startGather_vault (s : State) (o : CflOp) : (startGather s o).vault = s.vault := by unfold startGather; simp [apply_ite State.vault]
@[simp] theorem sendRow_vault (o : CflOp) (j : Nat) (s : State) (r : Nat × List Byte) : (sendRow o j s r).vault = s.vault := by unfold sendRow; simp [apply_ite State.vault]
@[simp] theorem startXchg_vault (s : State) (o : CflOp) : (startXchg s o).vault = s.vault := by unfold startXchg; simp [apply_ite State.vault]
@[simp] theorem cflRun_vault (op idx : Nat) (d : CflDesc) (s : State) : (cflRun op idx d s).vault = s.vault := by simp only [cflRun]; (repeat' split) <;> simp
@[simp] theorem liftAdvance_vault (s : State) : (liftAdvance s).vault = s.vault := by simp [liftAdvance]
@[simp] theorem cflCompleteEffect_vault (idx : Nat) (s : State) : (cflCompleteEffect idx s).vault = s.vault := by unfold cflCompleteEffect; (repeat' split) <;> simp
@[simp] theorem markerEffect_vault (dev idx : Nat) (s : State) : (markerEffect dev idx s).vault = s.vault := by unfold markerEffect; (repeat' split) <;> simp
@[simp] theorem windowCloseEffect_vault (idx : Nat) (s : State) : (windowCloseEffect idx s).vault = s.vault := by simp only [windowCloseEffect]; (repeat' split) <;> simp
@[simp] theorem decisionEffect_vault (idx : Nat) (map : DWord) (policy : Nat) (s : State) : (decisionEffect idx map policy s).vault = s.vault := by unfold decisionEffect; (repeat' split) <;> simp
@[simp] theorem basinStage_vault (o : CflOp) (p : BasinPart) (s : State) : (basinStage o p s).vault = s.vault := by unfold basinStage; dsimp only; (repeat' split) <;> simp
@[simp] theorem deliver_vault (s : State) (f : Flit) : (deliver s f).vault = s.vault := by simp [deliver]
@[simp] theorem flitAcked_vault (p : Nat) (q : Half) (neg : Bool) (s : State) : (flitAcked p q neg s).vault = s.vault := by unfold flitAcked; simp [apply_ite State.vault]
@[simp] theorem linkFields_vault (p : Nat) (h : FlitHdr) (s : State) : (linkFields p h s).vault = s.vault := by simp [linkFields]
@[simp] theorem sendFlitAck_vault (p : Nat) (q : Half) (neg : Bool) (tc credit : Nat) (s : State) : (sendFlitAck p q neg tc credit s).vault = s.vault := by simp [sendFlitAck]
@[simp] theorem refuseFlit_vault (p : Nat) (s : State) : (refuseFlit p s).vault = s.vault := by simp [refuseFlit]
@[simp] theorem damagedFlit_vault (p : Nat) (h : FlitHdr) (s : State) : (damagedFlit p h s).vault = s.vault := by unfold damagedFlit; simp [apply_ite State.vault]
@[simp] theorem linkOrder_vault (p k : Nat) (free : Bool) (h : FlitHdr) (eff : State → State) (he : ∀ s, (eff s).vault = s.vault)
    (s : State) : (linkOrder p k free h eff s).vault = s.vault := by
  unfold linkOrder
  dsimp only
  (repeat' split) <;> simp [he]
@[simp] theorem linkTake_vault (p k : Nat) (free : Bool) (h : FlitHdr) (eff : State → State) (he : ∀ s, (eff s).vault = s.vault)
    (s : State) : (linkTake p k free h eff s).vault = s.vault := by
  unfold linkTake
  dsimp only
  (repeat' split) <;> simp [he]
@[simp] theorem forward_vault (h : FlitHdr) (off k : Nat) (b : FlitBody) (s : State) : (forward h off k b s).vault = s.vault := by unfold forward; split <;> simp
@[simp] theorem reachFlit_vault (p k : Nat) (h : FlitHdr) (off : Nat) (b : FlitBody) (eff : State → State)
    (he : ∀ s, (eff s).vault = s.vault) (s : State) : (reachFlit p k h off b eff s).vault = s.vault := by
  unfold reachFlit
  split
  · rfl
  · rw [linkTake_vault]
    intro s
    split <;> simp [he]
@[simp] theorem dataFlitEffect_vault (p : Nat) (f : Flit) (s : State) : (dataFlitEffect p f s).vault = s.vault := by simp [dataFlitEffect]
@[simp] theorem flitAckEffect_vault (p : Nat) (h : FlitHdr) (s : State) : (flitAckEffect p h s).vault = s.vault := by unfold flitAckEffect; simp [apply_ite State.vault]

/-! ### Control -/

@[simp] theorem moduleLatch_vault (s : State) (nonstep : Bool) (stp : DWord) : (moduleLatch s nonstep stp).vault = s.vault := by simp [moduleLatch]
@[simp] theorem latchNow_vault (s : State) : (latchNow s).vault = s.vault := by simp [latchNow]
@[simp] theorem pageLatch_vault (s : State) (p : Pg) (i : Nat) : (pageLatch s p i).vault = s.vault := by simp [pageLatch]
@[simp] theorem queueMod_vault (s : State) (q : Nat) (f : Queue → Queue) : (queueMod s q f).vault = s.vault := by simp [queueMod]
@[simp] theorem sendCpls_vault (s : State) (es : List Cpl) : (sendCpls s es).vault = s.vault := by simp [sendCpls]
@[simp] theorem flushCpls_vault (s : State) : (flushCpls s).vault = s.vault := by simp [flushCpls]
@[simp] theorem cplPut_vault (s : State) (e : Cpl) : (cplPut s e).vault = s.vault := by unfold cplPut; simp [apply_ite State.vault]
@[simp] theorem complete_vault (s : State) (c : CmdRef) (st : Half) (result : Nat) : (complete s c st result).vault = s.vault := by unfold complete; simp [apply_ite State.vault]
@[simp] theorem noteReject_vault (s : State) (op q : Nat) (reg : Bool) : (noteReject s op q reg).vault = s.vault := by unfold noteReject; simp [apply_ite State.vault]
@[simp] theorem reject_vault (s : State) (c : CmdRef) (st : Half) : (reject s c st).vault = s.vault := by unfold reject; simp [apply_ite State.vault]
@[simp] theorem finish_vault (s : State) (c : CmdRef) (st : Half) (result : Nat) : (finish s c st result).vault = s.vault := by unfold finish; simp [apply_ite State.vault]
@[simp] theorem setDev_vault (s : State) (d : DevSt) : (setDev s d).vault = s.vault := by unfold setDev; simp [apply_ite State.vault]
@[simp] theorem failPause_vault (s : State) : (failPause s).vault = s.vault := by simp [failPause]
@[simp] theorem finishStarted_vault (s : State) : (finishStarted s).vault = s.vault := by unfold finishStarted; dsimp only; (repeat' split) <;> (try simp) <;> (rw [foldl_vault]; (try simp); intro s x; (repeat' split) <;> simp)
@[simp] theorem discardWork_vault (s : State) : (discardWork s).vault = s.vault := by simp [discardWork]
@[simp] theorem abandonStep_vault (s : State) : (abandonStep s).vault = s.vault := by simp [abandonStep]
@[simp] theorem coldNote_vault (s : State) : (coldNote s).vault = s.vault := by unfold coldNote; simp [apply_ite State.vault]
@[simp] theorem discardStep_vault (s : State) : (discardStep s).vault = s.vault := by simp [discardStep]
@[simp] theorem haltDev_vault (s : State) (kind : HaltKind) (st : Half) (action : Nat) : (haltDev s kind st action).vault = s.vault := by simp [haltDev]
@[simp] theorem logFaults_vault (sts : List Half) (action : Nat) (s : State) : (logFaults sts action s).vault = s.vault := by simp [logFaults]
@[simp] theorem discardHalt_vault (s : State) (kind : HaltKind) (st : Half) (notice : Bool) : (discardHalt s kind st notice).vault = s.vault := by unfold discardHalt; simp [apply_ite State.vault]
@[simp] theorem stepTimeoutEffect_vault (s : State) : (stepTimeoutEffect s).vault = s.vault := by unfold stepTimeoutEffect; simp [apply_ite State.vault]

/-! ### Power -/

@[simp] theorem freeCeil_vault (s : State) (lo hi : Nat) : (freeCeil s lo hi).2.vault = s.vault := by simp [freeCeil]
@[simp] theorem setCeil_vault (s : State) (a : Nat) : (setCeil s a).vault = s.vault := by simp only [setCeil]; (repeat' split) <;> simp
@[simp] theorem logLend_vault (s : State) (b l phase lent : Nat) : (logLend s b l phase lent).vault = s.vault := by simp [logLend]
@[simp] theorem lend_vault (s : State) (b l : Nat) (fromLeft : Bool) : (lend s b l fromLeft).vault = s.vault := by simp [lend]
@[simp] theorem seekPhases_vault (s : State) (b : Nat) : (seekPhases s b).vault = s.vault := by simp only [seekPhases]; (repeat' split) <;> simp
@[simp] theorem requestExcl_vault (s : State) (a : Nat) : (requestExcl s a).vault = s.vault := by unfold requestExcl; simp [apply_ite State.vault]
@[simp] theorem afterLoss_vault (s : State) (a : Nat) : (afterLoss s a).vault = s.vault := by unfold afterLoss; simp [apply_ite State.vault]
@[simp] theorem takeBack_vault (s : State) (l : Nat) : (takeBack s l).vault = s.vault := by simp only [takeBack]; (repeat' split) <;> simp
@[simp] theorem giveBack_vault (s : State) (b : Nat) : (giveBack s b).vault = s.vault := by simp only [giveBack]; (repeat' split) <;> simp
@[simp] theorem goDark_vault (s : State) (a : Nat) (dark : Word) : (goDark s a dark).vault = s.vault := by simp [goDark]
@[simp] theorem dropHeld_vault (s : State) : (dropHeld s).vault = s.vault := by unfold dropHeld; simp [apply_ite State.vault]
@[simp] theorem darkNow_vault (s : State) (as : List Nat) : (darkNow s as).vault = s.vault := by simp only [darkNow]; (repeat' split) <;> simp
@[simp] theorem ctrlFailEffect_vault (a : Nat) (s : State) : (ctrlFailEffect a s).vault = s.vault := by simp only [ctrlFailEffect]; (repeat' split) <;> simp
@[simp] theorem phaseFailEffect_vault (a ph : Nat) (s : State) : (phaseFailEffect a ph s).vault = s.vault := by unfold phaseFailEffect; simp [apply_ite State.vault]
@[simp] theorem openTies_vault (s : State) : (openTies s).vault = s.vault := by unfold openTies; apply foldl_vault; intro s x; (repeat' split) <;> simp
@[simp] theorem requestCredit_vault (s : State) (a : Nat) : (requestCredit s a).vault = s.vault := by simp [requestCredit]
@[simp] theorem moveSlot_vault (s : State) (a b k : Nat) : (moveSlot s a b k).vault = s.vault := by simp only [moveSlot]; (repeat' split) <;> simp
@[simp] theorem exclude_vault (s : State) (a : Nat) : (exclude s a).vault = s.vault := by simp [exclude]
@[simp] theorem readmit_vault (s : State) (a : Nat) : (readmit s a).vault = s.vault := by unfold readmit; simp [apply_ite State.vault]
@[simp] theorem mapDarkFrom_vault (s : State) (ok : Bool) (l : List Nat) : (mapDarkFrom s ok l).1.vault = s.vault := by
  induction l generalizing s ok with
  | nil => rfl
  | cons a r ih => simp only [mapDarkFrom]; (repeat' split) <;> simp [ih]
@[simp] theorem mapDark_vault (s : State) : (mapDark s).1.vault = s.vault := by simp [mapDark]
@[simp] theorem mapExcl_vault (s : State) : (mapExcl s).vault = s.vault := by
  unfold mapExcl
  rw [foldl_vault]
  · apply foldl_vault; intro s x; simp
  · intro s x; (repeat' split) <;> simp
@[simp] theorem powerSlots_vault (s : State) : (powerSlots s).vault = s.vault := by unfold powerSlots; simp [apply_ite State.vault]
@[simp] theorem action7_vault (s : State) : (action7 s).1.vault = s.vault := by simp only [action7]; (repeat' split) <;> simp
@[simp] theorem creditGrantEffect_vault (a waitNs : Nat) (s : State) : (creditGrantEffect a waitNs s).vault = s.vault := by unfold creditGrantEffect; simp [apply_ite State.vault]
@[simp] theorem nbrCapEffect_vault (a : Nat) (s : State) : (nbrCapEffect a s).vault = s.vault := by unfold nbrCapEffect; simp [apply_ite State.vault]
@[simp] theorem rampDone_vault (s : State) (a : Nat) : (rampDone s a).vault = s.vault := by simp [rampDone]
@[simp] theorem lehrStageEffect_vault (a : Nat) (s : State) : (lehrStageEffect a s).vault = s.vault := by simp only [lehrStageEffect]; (repeat' split) <;> simp
@[simp] theorem failRamp_vault (s : State) (st : Half) : (failRamp s st).vault = s.vault := by unfold failRamp; split <;> simp
@[simp] theorem loseTile_vault (s : State) (t : Nat) : (loseTile s t).vault = s.vault := by
  unfold loseTile
  dsimp only
  generalize hx : List.foldl _ s (List.range 192) = x
  have h : x.vault = s.vault := by
    rw [← hx]; apply foldl_vault; intro s k; split <;> simp
  generalize hy : List.foldl _ x (List.range 3) = y
  have h2 : y.vault = s.vault := by rw [← hy]; rw [foldl_vault]; exact h; intro s k; simp
  rw [foldl_vault]
  · rw [vault_mk, vault_fold]; exact h2
  · intro s e
    split
    · rfl
    · apply foldl_vault; intro s y; split <;> simp
@[simp] theorem stageFaultEffect_vault (t : Nat) (s : State) : (stageFaultEffect t s).vault = s.vault := by unfold stageFaultEffect; simp [apply_ite State.vault]
@[simp] theorem vsPhaseFailEffect_vault (t ph : Nat) (s : State) : (vsPhaseFailEffect t ph s).vault = s.vault := by unfold vsPhaseFailEffect; simp [apply_ite State.vault]
@[simp] theorem inputHighEffect_vault (dv us : Nat) (s : State) : (inputHighEffect dv us s).vault = s.vault := by simp only [inputHighEffect]; (repeat' split) <;> simp
@[simp] theorem inputLowEffect_vault (dv us : Nat) (s : State) : (inputLowEffect dv us s).vault = s.vault := by simp only [inputLowEffect]; (repeat' split) <;> simp
@[simp] theorem rideEffect_vault (s : State) : (rideEffect s).vault = s.vault := by unfold rideEffect; simp [apply_ite State.vault]
@[simp] theorem powerDownRecord_vault (s : State) (cause : Nat) : (powerDownRecord s cause).vault = s.vault := by simp [powerDownRecord]
@[simp] theorem powerOff_vault (s : State) (cause : Nat) (pwr : Pwr) : (powerOff s cause pwr).vault = s.vault := rfl
@[simp] theorem powerLoss_vault (s : State) (cause : Nat) (pwr : Pwr) : (powerLoss s cause pwr).vault = s.vault := by unfold powerLoss; simp [apply_ite State.vault]
@[simp] theorem orderlyEffect_vault (s : State) : (orderlyEffect s).vault = s.vault := by unfold orderlyEffect; simp [apply_ite State.vault]

/-! ### Thermal -/

@[simp] theorem thmSet_vault (s : State) (o v : Nat) : (thmSet s o v).vault = s.vault := by simp [thmSet]
@[simp] theorem capUpdate_vault (s : State) : (capUpdate s).vault = s.vault := by simp [capUpdate]
@[simp] theorem setFCap_vault (s : State) (v : Nat) : (setFCap s v).vault = s.vault := by simp [setFCap]
@[simp] theorem action6_vault (s : State) : (action6 s).vault = s.vault := by simp [action6]
@[simp] theorem countReasons_vault (s : State) : (countReasons s).vault = s.vault := by unfold countReasons; simp [apply_ite State.vault]
@[simp] theorem freeUpTo_vault (s : State) (hi : Nat) : (freeUpTo s hi).2.vault = s.vault := by simp [freeUpTo]
@[simp] theorem groupPower_vault (s : State) (pin : Nat) : (groupPower s pin).vault = s.vault := by simp [groupPower]
@[simp] theorem notePin_vault (s : State) (pin : Nat) : (notePin s pin).vault = s.vault := by simp [notePin]
@[simp] theorem inputFlags_vault (s : State) (vin : Nat) : (inputFlags s vin).vault = s.vault := by unfold inputFlags; simp [apply_ite State.vault]
@[simp] theorem eddyTick_vault (s : State) : (eddyTick s).vault = s.vault := by unfold eddyTick; simp [apply_ite State.vault]
@[simp] theorem energyTick_vault (s : State) (pin : Nat) : (energyTick s pin).vault = s.vault := by simp [energyTick]
@[simp] theorem inputMeter_vault (s : State) (vin : Nat) : (inputMeter s vin).vault = s.vault := by unfold inputMeter; simp [apply_ite State.vault]
@[simp] theorem railTick_vault (s : State) (t : Nat) : (railTick s t).vault = s.vault := by simp [railTick]
@[simp] theorem capCompare_vault (s : State) (pin10 : Nat) : (capCompare s pin10).vault = s.vault := by unfold capCompare; simp [apply_ite State.vault]
@[simp] theorem capLoopEffect_vault (pin10 vin : Nat) (s : State) : (capLoopEffect pin10 vin s).vault = s.vault := by unfold capLoopEffect; simp [apply_ite State.vault]
@[simp] theorem fCapRaiseEffect_vault (pin100 : Nat) (s : State) : (fCapRaiseEffect pin100 s).vault = s.vault := by unfold fCapRaiseEffect; simp [apply_ite State.vault]
@[simp] theorem memLimitEffect_vault (pin100 : Nat) (s : State) : (memLimitEffect pin100 s).vault = s.vault := by unfold memLimitEffect; simp [apply_ite State.vault]
@[simp] theorem noteTj_vault (s : State) (tj : Nat) : (noteTj s tj).vault = s.vault := by simp [noteTj]
@[simp] theorem junctionEffect_vault (t tj : Nat) (s : State) : (junctionEffect t tj s).vault = s.vault := by unfold junctionEffect; simp [apply_ite State.vault]
@[simp] theorem boostEffect_vault (a pin100 tj : Nat) (s : State) : (boostEffect a pin100 tj s).vault = s.vault := by unfold boostEffect; simp [apply_ite State.vault]
@[simp] theorem setFault_vault (s : State) (k : Sensor) (bad : Bool) : (setFault s k bad).vault = s.vault := by simp only [setFault]; (repeat' split) <;> simp
@[simp] theorem thermalUpdate_vault (s : State) : (thermalUpdate s).vault = s.vault := by simp [thermalUpdate]
@[simp] theorem sidebandEffect_vault (r : Sideband) (s : State) : (sidebandEffect r s).vault = s.vault := by unfold sidebandEffect; simp [apply_ite State.vault]
@[simp] theorem sensorFaultEffect_vault (k : Sensor) (s : State) : (sensorFaultEffect k s).vault = s.vault := by unfold sensorFaultEffect; simp [apply_ite State.vault]
@[simp] theorem logSafe_vault (s : State) (entry : Bool) (cause : Nat) : (logSafe s entry cause).vault = s.vault := by simp [logSafe]
@[simp] theorem safeEnter_vault (cause : Nat) (s : State) : (safeEnter cause s).vault = s.vault := by unfold safeEnter; (repeat' split) <;> simp
@[simp] theorem thawArrs_vault (s : State) : (thawArrs s).vault = s.vault := by simp [thawArrs]
@[simp] theorem safeExitEffect_vault (s : State) : (safeExitEffect s).vault = s.vault := by unfold safeExitEffect; simp [apply_ite State.vault]

/-! ### Sequencer -/

@[simp] theorem streamMod_vault (s : State) (st : Nat) (f : Stream → Stream) : (streamMod s st f).vault = s.vault := by simp [streamMod]
@[simp] theorem streamNext_vault (s : State) (st : Nat) : (streamNext s st).vault = s.vault := by simp [streamNext]
@[simp] theorem queuePush_vault (s : State) (q : Nat) (r : Range) : (queuePush s q r).vault = s.vault := by simp [queuePush]
@[simp] theorem issueFill_vault (p : Prog) (st u : Nat) (wide : Option Nat) (s : State) (i : Nat) : (issueFill p st u wide s i).vault = s.vault := by simp only [issueFill]; (repeat' split) <;> simp
@[simp] theorem issueDma_vault (p : Prog) (st u : Nat) (wide : Option Nat) (is : List Nat) (s : State) : (issueDma p st u wide is s).vault = s.vault := by simp only [issueDma]; (repeat' split) <;> simp
@[simp] theorem waitEffect_vault (op st : Nat) (i : StreamInst) (s : State) : (waitEffect op st i s).vault = s.vault := by unfold waitEffect; simp [apply_ite State.vault]
@[simp] theorem issueEffect_vault (st : Nat) (i : StreamInst) (s : State) : (issueEffect st i s).vault = s.vault := by simp only [issueEffect]; (repeat' split) <;> simp
@[simp] theorem streamFetch_vault (s : State) (st : Nat) : (streamFetch s st).vault = s.vault := by unfold streamFetch; split <;> simp
@[simp] theorem waitMetEffect_vault (st ns : Nat) (s : State) : (waitMetEffect st ns s).vault = s.vault := by unfold waitMetEffect; (repeat' split) <;> simp
@[simp] theorem arriveEffect_vault (st : Nat) (i : StreamInst) (s : State) : (arriveEffect st i s).vault = s.vault := by simp [arriveEffect]
@[simp] theorem postEffect_vault (st : Nat) (i : StreamInst) (s : State) : (postEffect st i s).vault = s.vault := by simp [postEffect]
@[simp] theorem streamEndEffect_vault (st : Nat) (s : State) : (streamEndEffect st s).vault = s.vault := by simp [streamEndEffect]
@[simp] theorem closeWeir_vault (s : State) (w : Nat) : (closeWeir s w).vault = s.vault := by simp [closeWeir]
@[simp] theorem closePart_vault (s : State) (w : Nat) (reach : Bool) (trig : List (BitVec 3)) (noCommit : Bool) : (closePart s w reach trig noCommit).vault = s.vault := by unfold closePart; simp [apply_ite State.vault]
@[simp] theorem tryClose_vault (s : State) (w slackNs : Nat) : (tryClose s w slackNs).vault = s.vault := by unfold tryClose; simp [apply_ite State.vault]
@[simp] theorem weirEffect_vault (w slackNs : Nat) (s : State) : (weirEffect w slackNs s).vault = s.vault := by simp only [weirEffect]; (repeat' split) <;> simp
@[simp] theorem takeRecord_vault (s : State) (r : PeerRec) : (takeRecord s r).vault = s.vault := by unfold takeRecord; simp [apply_ite State.vault]
@[simp] theorem nextRecords_vault (s : State) : (nextRecords s).vault = s.vault := by simp [nextRecords]
@[simp] theorem swapPage_vault (s : State) (h k : Nat) : (swapPage s h k).vault = s.vault := by simp [swapPage]
@[simp] theorem freshPage_vault (s : State) (h k : Nat) : (freshPage s h k).vault = s.vault := by simp [freshPage]
@[simp] theorem takeScaleWrites_vault (s : State) : (takeScaleWrites s).vault = s.vault := by simp [takeScaleWrites]
@[simp] theorem unitsHome_vault (s : State) : (unitsHome s).vault = s.vault := by simp [unitsHome]
@[simp] theorem releaseStep_vault (s : State) : (releaseStep s).vault = s.vault := by unfold releaseStep; split <;> simp
@[simp] theorem releaseGroupEffect_vault (g : Nat) (s : State) : (releaseGroupEffect g s).vault = s.vault := by unfold releaseGroupEffect; simp [apply_ite State.vault]
@[simp] theorem slopeFall_vault (t : Nat) (s : State) : (slopeFall t s).vault = s.vault := by simp [slopeFall]
@[simp] theorem eddyDecrementEffect_vault (a holdUs : Nat) (s : State) : (eddyDecrementEffect a holdUs s).vault = s.vault := by unfold eddyDecrementEffect; simp [apply_ite State.vault]
@[simp] theorem enterPaused_vault (s : State) : (enterPaused s).vault = s.vault := by simp [enterPaused]
@[simp] theorem finishBoundary_vault (s : State) : (finishBoundary s).vault = s.vault := by unfold finishBoundary; simp [apply_ite State.vault]
@[simp] theorem stepsDoneEffect_vault (s : State) : (stepsDoneEffect s).vault = s.vault := by unfold stepsDoneEffect; simp [apply_ite State.vault]
@[simp] theorem afterRamps_vault (s : State) : (afterRamps s).vault = s.vault := by unfold afterRamps; (repeat' split) <;> simp

end Sys2Proof.Machine
end

