-- ==== Sys2Proof/Laws/VaultHost.lean ====
section
/-! SUPPORT. What start-up, registers, the host side and the boundaries never touch (the vault, as in VaultUnits). -/

namespace Sys2Proof.Machine

/-! ### Identity -/

@[simp] theorem measExtend_vault (s : State) (m : Nat) (bs : List Byte) : (measExtend s m bs).vault = s.vault := by simp [measExtend]
@[simp] theorem measZero_vault (s : State) (m : Nat) : (measZero s m).vault = s.vault := by simp [measZero]
@[simp] theorem portResend_vault (s : State) (p : Nat) : (portResend s p).vault = s.vault := by simp [portResend]
@[simp] theorem resendIdent_vault (s : State) : (resendIdent s).vault = s.vault := by unfold resendIdent; simp [apply_ite State.vault]
@[simp] theorem identSync_vault (s : State) : (identSync s).vault = s.vault := by unfold identSync; simp [apply_ite State.vault]

/-! ### Registers -/

@[simp] theorem freeField_vault (s : State) (off : Nat) : (freeField s off).2.vault = s.vault := by simp only [freeField]; (repeat' split) <;> simp
@[simp] theorem setHold_vault (s : State) (r : Requester) (h : Hold) : (setHold s r h).vault = s.vault := by unfold setHold; split <;> simp
@[simp] theorem readPlain_vault (s : State) (off : Nat) : (readPlain s off).2.vault = s.vault := by simp [readPlain]
@[simp] theorem readReg_vault (s : State) (r : Requester) (off : Nat) : (readReg s r off).2.vault = s.vault := by simp only [readReg]; (repeat' split) <;> simp
@[simp] theorem portTrain_vault (s : State) (i : Nat) : (portTrain s i).vault = s.vault := by simp [portTrain]
@[simp] theorem ctrlAction_vault (s : State) (p : Pg) (i : Nat) : (ctrlAction s p i).vault = s.vault := by simp only [ctrlAction]; (repeat' split) <;> simp
@[simp] theorem expAction_vault (s : State) (i : Nat) : (expAction s i).vault = s.vault := by unfold expAction; simp [apply_ite State.vault]
@[simp] theorem afterWrite_vault (s : State) (p : Pg) (i o : Nat) : (afterWrite s p i o).vault = s.vault := by unfold afterWrite; (repeat' split) <;> simp
@[simp] theorem rwWrite_vault (s : State) (off : Nat) (v : Word) : (rwWrite s off v).1.vault = s.vault := by simp only [rwWrite]; (repeat' split) <;> simp

/-! ### Images -/

@[simp] theorem writeEntries_vault (s : State) (es : List (Nat × Word)) : (writeEntries s es).vault = s.vault := by simp [writeEntries]
@[simp] theorem configEffect_vault (c : CmdRef) (s : State) : (configEffect c s).vault = s.vault := by unfold configEffect; simp [apply_ite State.vault]
@[simp] theorem ovSet_vault (s : State) (k : Nat) (v : Option Overlay) : (ovSet s k v).vault = s.vault := by simp [ovSet]
@[simp] theorem overlayLoadEffect_vault (c : CmdRef) (s : State) : (overlayLoadEffect c s).vault = s.vault := by unfold overlayLoadEffect; simp [apply_ite State.vault]
@[simp] theorem overlayApplyEffect_vault (c : CmdRef) (s : State) : (overlayApplyEffect c s).vault = s.vault := by simp [overlayApplyEffect]
@[simp] theorem overlayClearEffect_vault (c : CmdRef) (s : State) : (overlayClearEffect c s).vault = s.vault := by simp [overlayClearEffect]
@[simp] theorem applyOne_vault (s : State) (a : Apply) : (applyOne s a).vault = s.vault := by simp only [applyOne]; (repeat' split) <;> simp
@[simp] theorem action5_vault (s : State) : (action5 s).vault = s.vault := by simp [action5]

/-! ### Startup -/

@[simp] theorem replayPower_vault (s : State) (e : LogEnt) : (replayPower s e).vault = s.vault := by simp only [replayPower]; (repeat' split) <;> simp
@[simp] theorem replayMemory_vault (s : State) (e : LogEnt) : (replayMemory s e).vault = s.vault := by unfold replayMemory; split <;> simp
@[simp] theorem reapplyRegu_vault (s : State) : (reapplyRegu s).vault = s.vault := by unfold reapplyRegu; simp [apply_ite State.vault]
theorem mpStart_vault (m : Mgmt) : (mpStart m).minBad = m.minBad ∧ (mpStart m).minVer = m.minVer ∧ (mpStart m).counter = m.counter ∧ (mpStart m).opkey = m.opkey := by
  unfold mpStart
  cases fwSelect m <;> exact ⟨rfl, rfl, rfl, rfl⟩
@[simp] theorem bootMgmt_vault (s : State) : (bootMgmt s).vault = s.vault := by
  obtain ⟨h0, h1, h2, h3⟩ := mpStart_vault s.mp
  unfold bootMgmt
  dsimp only
  split <;> simp [h0, h1, h2, h3]
@[simp] theorem bootImage_vault (s : State) : (bootImage s).vault = s.vault := by unfold bootImage; (repeat' split) <;> simp
@[simp] theorem blank_vault (s : State) : (blank s).vault = s.vault := rfl
@[simp] theorem lostEntry_vault (s : State) (n why : Nat) : (lostEntry s n why).vault = s.vault := by unfold lostEntry; simp [apply_ite State.vault]
@[simp] theorem logSkipped_vault (s : State) : (logSkipped s).vault = s.vault := by simp [logSkipped]
@[simp] theorem logLost_vault (s : State) : (logLost s).vault = s.vault := by unfold logLost; split <;> simp
@[simp] theorem logFirmware_vault (s : State) (what version : Nat) : (logFirmware s what version).vault = s.vault := by simp [logFirmware]
@[simp] theorem logReset_vault (s : State) (cause : Nat) : (logReset s cause).vault = s.vault := by simp [logReset]
@[simp] theorem logFallback_vault (s : State) : (logFallback s).vault = s.vault := by unfold logFallback; simp [apply_ite State.vault]
@[simp] theorem logBoot_vault (cause : Nat) (s : State) : (logBoot cause s).vault = s.vault := by unfold logBoot; simp [apply_ite State.vault]
@[simp] theorem logMissed_vault (s : State) : (logMissed s).vault = s.vault := by unfold logMissed; simp [apply_ite State.vault]
@[simp] theorem stageReport_vault (s : State) : (stageReport s).vault = s.vault := by unfold stageReport; simp [apply_ite State.vault]
@[simp] theorem bootUp_vault (cause : Nat) (s : State) : (bootUp cause s).vault = s.vault := by simp [bootUp]
@[simp] theorem scopeWrite_vault (s : State) (v : Word) (counter : DWord) : (scopeWrite s v counter).vault = s.vault := by simp [scopeWrite]
@[simp] theorem setScope_vault (s : State) (v : Word) (counter : DWord) : (setScope s v counter).vault = s.vault := by simp [setScope]
@[simp] theorem closeScope_vault (s : State) : (closeScope s).vault = s.vault := by unfold closeScope; simp [apply_ite State.vault]
@[simp] theorem endScope_vault (s : State) : (endScope s).vault = s.vault := by simp [endScope]
@[simp] theorem refusedAgain_vault (s : State) : (refusedAgain s).vault = s.vault := by unfold refusedAgain; apply foldl_vault; intro s x; (repeat' split) <;> simp [apply_ite State.vault]
@[simp] theorem mpResetEffect_vault (cause : Nat) (s : State) : (mpResetEffect cause s).vault = s.vault := by
  obtain ⟨h0, h1, h2, h3⟩ := mpStart_vault s.mp
  unfold mpResetEffect
  split
  · rfl
  · dsimp only; (repeat' split) <;> simp [h0, h1, h2, h3]
@[simp] theorem dropProgram_vault (s : State) : (dropProgram s).vault = s.vault := by simp [dropProgram]
@[simp] theorem rampAll_vault (s : State) : (rampAll s).vault = s.vault := by unfold rampAll; simp [apply_ite State.vault]
@[simp] theorem keepRegs_vault (f : Nat → Bool) (s : State) : (keepRegs f s).vault = s.vault := by simp [keepRegs]
@[simp] theorem clearRun_vault (s : State) : (clearRun s).vault = s.vault := by simp [clearRun]
@[simp] theorem awaitRamps_vault (s : State) : (awaitRamps s).vault = s.vault := by simp [awaitRamps]
@[simp] theorem loseArrays_vault (s : State) : (loseArrays s).vault = s.vault := by simp [loseArrays]
@[simp] theorem runResetEffect_vault (s : State) : (runResetEffect s).vault = s.vault := by
  unfold runResetEffect
  dsimp only
  simp
@[simp] theorem hubResetEffect_vault (s : State) : (hubResetEffect s).vault = s.vault := by simp [hubResetEffect]
@[simp] theorem coldStartEffect_vault (s : State) : (coldStartEffect s).vault = s.vault := by unfold coldStartEffect; simp [apply_ite State.vault]
@[simp] theorem peuRestartEffect_vault (s : State) : (peuRestartEffect s).vault = s.vault := by unfold peuRestartEffect; simp [apply_ite State.vault]

/-! ### RegOps -/

@[simp] theorem resetStart_vault (kind : Nat) (s : State) : (resetStart kind s).vault = s.vault := by unfold resetStart; (repeat' split) <;> simp
@[simp] theorem seqResetWrite_vault (s : State) (v : Word) : (seqResetWrite s v).1.vault = s.vault := by simp only [seqResetWrite]; (repeat' split) <;> simp
@[simp] theorem marginGoWrite_vault (s : State) (k : Nat) (v : Word) : (marginGoWrite s k v).1.vault = s.vault := by simp only [marginGoWrite]; (repeat' split) <;> simp
@[simp] theorem retrainWrite_vault (s : State) (p : Nat) (v : Word) : (retrainWrite s p v).1.vault = s.vault := by unfold retrainWrite; simp [apply_ite State.vault]
@[simp] theorem markPages_vault (s : State) : (markPages s).vault = s.vault := by unfold markPages; simp [apply_ite State.vault]
@[simp] theorem irqResendWrite_vault (s : State) (v : Word) : (irqResendWrite s v).1.vault = s.vault := by unfold irqResendWrite; simp [apply_ite State.vault]
@[simp] theorem regWrite_vault (s : State) (off : Nat) (v : Word) : (regWrite s off v).1.vault = s.vault := by unfold regWrite; (repeat' split) <;> simp
@[simp] theorem regWriteEffect_vault (off : Nat) (v : Word) (s : State) : (regWriteEffect off v s).vault = s.vault := by unfold regWriteEffect; simp [apply_ite State.vault]
@[simp] theorem regOp_vault (s : State) (r : Requester) (op : Word × Word) : (regOp s r op).2.vault = s.vault := by simp only [regOp]; (repeat' split) <;> simp
@[simp] theorem regOps_vault (s : State) (r : Requester) (o : List (Word × Word)) : (regOps s r o).2.vault = s.vault := by
  induction o generalizing s with
  | nil => rfl
  | cons x t ih => simp [regOps, ih]

/-! ### Transport -/

@[simp] theorem doLateFrees_vault (s : State) : (doLateFrees s).vault = s.vault := by unfold doLateFrees; simp [apply_ite State.vault]
@[simp] theorem endAccess_vault (s : State) (a : Access) (st : Half) : (endAccess s a st).vault = s.vault := by unfold endAccess; simp [apply_ite State.vault]
@[simp] theorem hostReads_vault (q h off n : Nat) (s : State) : (hostReads q h off n s).vault = s.vault := by simp [hostReads]
@[simp] theorem accessPut_vault (s : State) (a : Access) : (accessPut s a).vault = s.vault := by simp [accessPut]
@[simp] theorem putData_vault (s : State) (x : Access × Frame × Extent) : (putData s x).vault = s.vault := by simp [putData]
@[simp] theorem feedReads_vault (k : Nat) (s : State) : (feedReads k s).vault = s.vault := by
  induction k generalizing s with
  | zero => rfl
  | succ k ih => simp only [feedReads]; (repeat' split) <;> simp [ih]
@[simp] theorem finishReads_vault (s : State) : (finishReads s).vault = s.vault := by simp [finishReads]
@[simp] theorem runReads_vault (s : State) : (runReads s).vault = s.vault := by simp [runReads]
@[simp] theorem writeRecords_vault (s : State) (a : Access) (e : Extent) : (writeRecords s a e).vault = s.vault := by unfold writeRecords; simp [apply_ite State.vault]
@[simp] theorem noteRestore_vault (s : State) (h : Nat) : (noteRestore s h).vault = s.vault := by unfold noteRestore; simp [apply_ite State.vault]
theorem writeChunk_vault (s : State) (q : Nat) (tag : Half) (entry off : Nat) (bs : List Byte) (t : State)
    (h : writeChunk s q tag entry off bs = some t) : t.vault = s.vault := by
  unfold writeChunk at h
  dsimp only at h
  split at h
  · cases h
  · split at h
    · cases h
    · split at h
      · cases h
      · split at h <;> simp only [Option.some.injEq] at h <;> subst h <;> (repeat' split) <;> simp
@[simp] theorem chanMod_vault (s : State) (c : Nat) (f : Chan → Chan) : (chanMod s c f).vault = s.vault := by simp [chanMod]
@[simp] theorem chanPump_vault (s : State) (c : Nat) : (chanPump s c).vault = s.vault := by simp only [chanPump]; (repeat' split) <;> simp
@[simp] theorem chansAcked_vault (s : State) : (chansAcked s).vault = s.vault := by unfold chansAcked; simp [apply_ite State.vault]
@[simp] theorem respond_vault (s : State) (c op : Nat) (tag st : Half) (bs : List Byte) : (respond s c op tag st bs).vault = s.vault := by simp [respond]

/-! ### Mgmt -/

@[simp] theorem answer_vault (s : State) (c op : Nat) (tag st : Half) (bs : List Byte) : (answer s c op tag st bs).vault = s.vault := by unfold answer; simp [apply_ite State.vault]
@[simp] theorem takeRequest_vault (c op : Nat) (tag : Half) (req : List Byte) (s : State) : (takeRequest c op tag req s).vault = s.vault := by unfold takeRequest; dsimp only; split <;> simp
@[simp] theorem authFail_vault (s : State) : (authFail s).vault = s.vault := by simp [authFail]
@[simp] theorem serve_vault (c op : Nat) (tag : Half) (req : List Byte) (eff : State → State) (h : ∀ s, (eff s).vault = s.vault)
    (s : State) : (serve c op tag req eff s).vault = s.vault := by
  unfold serve
  dsimp only
  (repeat' split) <;> simp [h]
@[simp] theorem envCheck_vault (s : State) (cmd : Nat) (e : Envelope) (more : List Half) : (envCheck s cmd e more).2.vault = s.vault := by simp only [envCheck]; (repeat' split) <;> simp
@[simp] theorem refuseRequest_vault (c op : Nat) (tag : Half) (bs : List Byte) (s : State) : (refuseRequest c op tag bs s).vault = s.vault := by simp only [refuseRequest]; (repeat' split) <;> simp
@[simp] theorem infoEffect_vault (tag : Half) (s : State) : (infoEffect tag s).vault = s.vault := by simp [infoEffect]
@[simp] theorem mpStatusEffect_vault (c : Nat) (tag : Half) (s : State) : (mpStatusEffect c tag s).vault = s.vault := by
  unfold mpStatusEffect; apply serve_vault; intro s; split <;> simp
@[simp] theorem logReadEffect_vault (tag : Half) (first count : Nat) (s : State) : (logReadEffect tag first count s).vault = s.vault := by unfold logReadEffect; simp [apply_ite State.vault]
@[simp] theorem telReadEffect_vault (tag : Half) (first count : Nat) (s : State) : (telReadEffect tag first count s).vault = s.vault := by unfold telReadEffect; simp [apply_ite State.vault]
@[simp] theorem testDisableEffect_vault (tag : Half) (s : State) : (testDisableEffect tag s).vault = s.vault := by simp [testDisableEffect]
@[simp] theorem fwUpdateAct_vault (e : Envelope) (s : State) : (fwUpdateAct e s).2.2.vault = s.vault := by simp only [fwUpdateAct]; (repeat' split) <;> simp
@[simp] theorem attestAct_vault (e : Envelope) (s : State) : (attestAct e s).2.2.vault = s.vault := by unfold attestAct; split <;> simp
@[simp] theorem refuseChunk_vault (s : State) (c op : Nat) (tag st : Half) : (refuseChunk s c op tag st).vault = s.vault := by unfold refuseChunk; simp [apply_ite State.vault]
@[simp] theorem takeChunk_vault (s : State) (c : Nat) (m : List Byte) : (takeChunk s c m).1.vault = s.vault := by simp only [takeChunk]; (repeat' split) <;> simp
@[simp] theorem utilWindowEffect_vault (u : Nat) (s : State) : (utilWindowEffect u s).vault = s.vault := by unfold utilWindowEffect; simp [apply_ite State.vault]
@[simp] theorem telemetryEffect_vault (s : State) : (telemetryEffect s).vault = s.vault := by unfold telemetryEffect; simp [apply_ite State.vault]
@[simp] theorem watchdogEffect_vault (s : State) : (watchdogEffect s).vault = s.vault := by unfold watchdogEffect; simp [apply_ite State.vault]

/-! ### LoadCheck -/

@[simp] theorem withProg_vault (s : State) (p : Prog) : (withProg s p).vault = s.vault := by simp [withProg]
@[simp] theorem loadExcl_vault (s : State) : (loadExcl s).vault = s.vault := by unfold loadExcl; simp [apply_ite State.vault]
@[simp] theorem loadPower_vault (s : State) : (loadPower s).vault = s.vault := by unfold loadPower; simp [apply_ite State.vault]
@[simp] theorem armProbes_vault (s : State) (tallies : List (Nat × Nat)) : (armProbes s tallies).vault = s.vault := by simp [armProbes]
@[simp] theorem clearRecs_vault (s : State) : (clearRecs s).vault = s.vault := by unfold clearRecs; simp [apply_ite State.vault]
@[simp] theorem loadEffect_vault (c : CmdRef) (s : State) : (loadEffect c s).vault = s.vault := by
  unfold loadEffect
  split
  · simp
  · dsimp only
    simp only [complete_vault, resendIdent_vault, setDev_vault, setWide_vault, seqReads_vault, measExtend_vault, loadPower_vault, assignSlots_vault,
      armProbes_vault, clearRecs_vault, withProg_vault, loadExcl_vault]

/-! ### Commit -/

@[simp] theorem boundaryWrite_vault (s : State) (h off : Nat) (bs : List Byte) : (boundaryWrite s h off bs).vault = s.vault := by unfold boundaryWrite; simp [apply_ite State.vault]
@[simp] theorem boundaryPut_vault (s : State) (h off : Nat) (bs : List Byte) : (boundaryPut s h off bs).vault = s.vault := by unfold boundaryPut; simp [apply_ite State.vault]
@[simp] theorem pushScale_vault (s : State) (e : Nat × ScaleRun) : (pushScale s e).vault = s.vault := by unfold pushScale; simp [apply_ite State.vault]
@[simp] theorem setNextK_vault (s : State) (n : Nat) : (setNextK s n).vault = s.vault := by unfold setNextK; simp [apply_ite State.vault]
@[simp] theorem ledgerCommit_vault (s : State) : (ledgerCommit s).vault = s.vault := by unfold ledgerCommit; simp [apply_ite State.vault]
@[simp] theorem layerAct_vault (s : State) (p : Prog) (l : Nat) (t : BitVec 3) : (layerAct s p l t).vault = s.vault := by simp [layerAct]
@[simp] theorem markShort_vault (s : State) (p : Prog) (ls : List Nat) : (markShort s p ls).vault = s.vault := by simp [markShort]
@[simp] theorem action4Halt_vault (s : State) (p : Prog) : (action4Halt s p).2.vault = s.vault := by unfold action4Halt; simp [apply_ite State.vault]
@[simp] theorem action4_vault (s : State) (p : Prog) (trig : List (BitVec 3)) : (action4 s p trig).2.vault = s.vault := by simp [action4]
@[simp] theorem noteProjections_vault (s : State) (p : Prog) : (noteProjections s p).vault = s.vault := by simp [noteProjections]
@[simp] theorem commitStep_vault (s : State) (p : Prog) : (commitStep s p).vault = s.vault := by simp [commitStep]

/-! ### HostCommands -/

@[simp] theorem wakeEffect_vault (c : CmdRef) (s : State) : (wakeEffect c s).vault = s.vault := by simp [wakeEffect]
@[simp] theorem trainingDoneHbm_vault (failed : List Nat) (s : State) : (trainingDoneHbm failed s).vault = s.vault := by simp only [trainingDoneHbm]; (repeat' split) <;> simp
@[simp] theorem arraysOff_vault (s : State) : (arraysOff s).vault = s.vault := by simp [arraysOff]
@[simp] theorem sleepEffect_vault (c : CmdRef) (s : State) : (sleepEffect c s).vault = s.vault := by simp [sleepEffect]
@[simp] theorem basinTake_vault (s : State) : (basinTake s).vault = s.vault := by simp [basinTake]
@[simp] theorem markPorts_vault (s : State) : (markPorts s).vault = s.vault := by simp [markPorts]
@[simp] theorem actions57_vault (s : State) : (actions57 s).1.vault = s.vault := by simp [actions57]
@[simp] theorem openStep_vault (c : CmdRef) (s : State) : (openStep c s).vault = s.vault := by unfold openStep; simp [apply_ite State.vault]
@[simp] theorem rehalt_vault (c : CmdRef) (kind : HaltKind) (st : Half) (action : Nat) (notice : Bool) (s : State) : (rehalt c kind st action notice s).vault = s.vault := by unfold rehalt; simp [apply_ite State.vault]
@[simp] theorem openFrom5_vault (c : CmdRef) (s : State) : (openFrom5 c s).vault = s.vault := by unfold openFrom5; simp [apply_ite State.vault]
@[simp] theorem openFrom7_vault (c : CmdRef) (kind : HaltKind) (s : State) : (openFrom7 c kind s).vault = s.vault := by unfold openFrom7; simp [apply_ite State.vault]
@[simp] theorem openTake_vault (c : CmdRef) (s : State) : (openTake c s).vault = s.vault := by simp [openTake]
@[simp] theorem openAgain_vault (c : CmdRef) (s : State) : (openAgain c s).vault = s.vault := by unfold openAgain; split <;> simp
@[simp] theorem startEffect_vault (c : CmdRef) (s : State) : (startEffect c s).vault = s.vault := by simp only [startEffect]; (repeat' split) <;> simp
@[simp] theorem continueStep_vault (c : CmdRef) (s : State) : (continueStep c s).vault = s.vault := by simp [continueStep]
@[simp] theorem pauseEffect_vault (c : CmdRef) (s : State) : (pauseEffect c s).vault = s.vault := by simp [pauseEffect]
@[simp] theorem resumeEffect_vault (c : CmdRef) (s : State) : (resumeEffect c s).vault = s.vault := by simp only [resumeEffect]; (repeat' split) <;> simp
@[simp] theorem idleArrs_vault (s : State) : (idleArrs s).vault = s.vault := by simp [idleArrs]
@[simp] theorem abortEffect_vault (c : CmdRef) (s : State) : (abortEffect c s).vault = s.vault := by unfold abortEffect; simp [apply_ite State.vault]
@[simp] theorem unloadEffect_vault (c : CmdRef) (s : State) : (unloadEffect c s).vault = s.vault := by unfold unloadEffect; simp [apply_ite State.vault]
@[simp] theorem allocEffect_vault (c : CmdRef) (s : State) : (allocEffect c s).vault = s.vault := by unfold allocEffect; split <;> simp
@[simp] theorem freeEffect_vault (c : CmdRef) (s : State) : (freeEffect c s).vault = s.vault := by unfold freeEffect; simp [apply_ite State.vault]
@[simp] theorem readEffect_vault (c : CmdRef) (s : State) : (readEffect c s).vault = s.vault := by unfold readEffect; simp [apply_ite State.vault]
@[simp] theorem writeEffect_vault (c : CmdRef) (s : State) : (writeEffect c s).vault = s.vault := by unfold writeEffect; simp [apply_ite State.vault]
@[simp] theorem eventEffect_vault (c : CmdRef) (s : State) : (eventEffect c s).vault = s.vault := by unfold eventEffect; simp [apply_ite State.vault]
@[simp] theorem ledgerEffect_vault (c : CmdRef) (s : State) : (ledgerEffect c s).vault = s.vault := by simp [ledgerEffect]
@[simp] theorem cmdEffect_vault (c : CmdRef) (s : State) : (cmdEffect c s).vault = s.vault := by unfold cmdEffect; (repeat' split) <;> simp
@[simp] theorem runCmd_vault (c : CmdRef) (s : State) : (runCmd c s).vault = s.vault := by unfold runCmd; simp [apply_ite State.vault]
@[simp] theorem startFront_vault (s : State) (q : Nat) : (startFront s q).vault = s.vault := by simp [startFront]
@[simp] theorem settleGo_vault (k : Nat) (s : State) : (settleGo k s).vault = s.vault := by
  induction k generalizing s with
  | zero => rfl
  | succ k ih => simp only [settleGo]; (repeat' split) <;> simp [ih]
@[simp] theorem settle_vault (s : State) : (settle s).vault = s.vault := by simp [settle]
@[simp] theorem runResume_vault (s : State) : (runResume s).vault = s.vault := by unfold runResume; split <;> simp
@[simp] theorem tidy_vault (s : State) : (tidy s).vault = s.vault := by simp [tidy]
@[simp] theorem queueReject_vault (s : State) (q : Nat) : (queueReject s q).vault = s.vault := by simp [queueReject]
@[simp] theorem queueRing_vault (s : State) (q d : Nat) : (queueRing s q d).vault = s.vault := by unfold queueRing; simp [apply_ite State.vault]
@[simp] theorem doorbellEffect_vault (q tail : Nat) (s : State) : (doorbellEffect q tail s).vault = s.vault := by unfold doorbellEffect; split <;> simp
@[simp] theorem sqWriteEffect_vault (q : Nat) (ring : Bool) (first : Nat) (cmds : List Cmd) (s : State) : (sqWriteEffect q ring first cmds s).vault = s.vault := by simp only [sqWriteEffect]; (repeat' split) <;> simp
@[simp] theorem hostCmd_vault (q : Nat) (w : Cmd) (s : State) : (hostCmd q w s).vault = s.vault := by unfold hostCmd; simp [apply_ite State.vault]

/-! ### Delivery -/

@[simp] theorem dropFrame_vault (s : State) : (dropFrame s).vault = s.vault := by simp [dropFrame]
@[simp] theorem ethTake_vault (e : EthHdr) (eff : State → State) (he : ∀ s, (eff s).vault = s.vault) (s : State) :
    (ethTake e eff s).vault = s.vault := by
  unfold ethTake
  dsimp only
  (repeat' split) <;> simp [he]
@[simp] theorem pfcFill_vault (bulk : Bool) (s : State) : (pfcFill bulk s).vault = s.vault := by unfold pfcFill; simp [apply_ite State.vault]
@[simp] theorem pfcCheck_vault (s : State) : (pfcCheck s).vault = s.vault := by unfold pfcCheck; simp [apply_ite State.vault]
@[simp] theorem noteAck_vault (s : State) (p : HctPeer) : (noteAck s p).vault = s.vault := by unfold noteAck; simp [apply_ite State.vault]
@[simp] theorem ackTake_vault (s : State) (p : HctPeer) (a : Word) (map : BitVec 64) : (ackTake s p a map).vault = s.vault := by unfold ackTake; split <;> simp
@[simp] theorem answerReset_vault (id : Half) (d : List (Word × Half)) (ks : List Nat) (s : State) :
    (answerReset id d ks s).vault = s.vault := by simp [answerReset]
@[simp] theorem regReqGo_vault (id : Half) (o : List (Word × Word)) (d : List (Word × Half)) (ks : List Nat) (s : State) :
    (regReqGo id o d ks s).vault = s.vault := by
  induction o generalizing d ks s with
  | nil => simp [regReqGo]
  | cons x t ih => simp only [regReqGo]; split <;> simp [ih]
@[simp] theorem basinTake'_vault (r : Nat) (ts : BasinTs) (bs : List Byte) (s : State) : (basinTake' r ts bs s).1.vault = s.vault := by simp only [basinTake']; (repeat' split) <;> simp
@[simp] theorem passFrame_vault (p : HctPeer) (f : HctFrame) (s : State) : (passFrame p f s).1.vault = s.vault := by
  unfold passFrame
  cases f with
  | data q tag entry off bs =>
    dsimp only
    cases h : writeChunk s q tag entry.toNat off.toNat bs with
    | none => simp
    | some t => simp [writeChunk_vault _ _ _ _ _ _ _ h]
  | basin ts bs => cases p <;> simp
  | _ => simp
@[simp] theorem passFrames_vault (p : HctPeer) (k : Nat) (q : Word) (s : State) : (passFrames p k q s).vault = s.vault := by
  induction k generalizing q s with
  | zero => rfl
  | succ k ih => simp only [passFrames]; (repeat' split) <;> simp [ih]
@[simp] theorem recvFrame_vault (p : HctPeer) (h : HctHdr) (f : HctFrame) (s : State) : (recvFrame p h f s).vault = s.vault := by unfold recvFrame; simp [apply_ite State.vault]
@[simp] theorem datagram_vault (h : HctHdr) (f : HctFrame) (s : State) : (datagram h f s).vault = s.vault := by
  unfold datagram
  apply ethTake_vault
  intro s
  (repeat' split) <;> simp
@[simp] theorem ackEffect_vault (h : HctHdr) (map : BitVec 64) (s : State) : (ackEffect h map s).vault = s.vault := by
  unfold ackEffect
  apply ethTake_vault
  intro s
  (repeat' split) <;> simp
@[simp] theorem ackDelayEffect_vault (p : HctPeer) (s : State) : (ackDelayEffect p s).vault = s.vault := by unfold ackDelayEffect; simp [apply_ite State.vault]
@[simp] theorem endAccesses_vault (s : State) : (endAccesses s).vault = s.vault := by simp [endAccesses]
@[simp] theorem keepCpls_vault (s : State) : (keepCpls s).vault = s.vault := by simp [keepCpls]
@[simp] theorem loseHost_vault (s : State) : (loseHost s).vault = s.vault := by simp [loseHost]
@[simp] theorem resendEffect_vault (p : HctPeer) (seq : Word) (s : State) : (resendEffect p seq s).vault = s.vault := by simp only [resendEffect]; (repeat' split) <;> simp
@[simp] theorem setHostIp_vault (src : BitVec 128) (s : State) : (setHostIp src s).vault = s.vault := by simp [setHostIp]
@[simp] theorem hostGone_vault (s : State) : (hostGone s).vault = s.vault := by simp [hostGone]
@[simp] theorem freshHost_vault (port : Half) (s : State) : (freshHost port s).vault = s.vault := by simp [freshHost]
@[simp] theorem adoptHost_vault (src dst : BitVec 128) (s : State) : (adoptHost src dst s).vault = s.vault := by unfold adoptHost; simp [apply_ite State.vault]
@[simp] theorem resendChunks_vault (s : State) : (resendChunks s).vault = s.vault := by simp [resendChunks]
@[simp] theorem syncEffect_vault (h : HctHdr) (s : State) : (syncEffect h s).vault = s.vault := by
  unfold syncEffect
  apply ethTake_vault
  intro s
  dsimp only
  (repeat' split) <;> simp
@[simp] theorem pumpAll_vault (s : State) : (pumpAll s).vault = s.vault := by unfold pumpAll; simp [apply_ite State.vault]
@[simp] theorem solicitationEffect_vault (e : EthHdr) (target : BitVec 128) (s : State) : (solicitationEffect e target s).vault = s.vault := by unfold solicitationEffect; simp [apply_ite State.vault]
@[simp] theorem advertisementEffect_vault (e : EthHdr) (src : BitVec 128) (mac : BitVec 48) (s : State) : (advertisementEffect e src mac s).vault = s.vault := by
  unfold advertisementEffect
  apply ethTake_vault
  intro s
  (repeat' split) <;> simp [cachePut, cacheDrop]
@[simp] theorem resolicitEffect_vault (a : BitVec 128) (s : State) : (resolicitEffect a s).vault = s.vault := by unfold resolicitEffect; simp [apply_ite State.vault]
@[simp] theorem echoEffect_vault (e : EthHdr) (src dst : BitVec 128) (payload : List Byte) (s : State) : (echoEffect e src dst payload s).vault = s.vault := by unfold echoEffect; simp [apply_ite State.vault]
@[simp] theorem pfcEffect_vault (prio : Nat) (xoff : Bool) (ns : Nat) (s : State) : (pfcEffect prio xoff ns s).vault = s.vault := by unfold pfcEffect; simp [apply_ite State.vault]
@[simp] theorem hostUp_vault (s : State) : (hostUp s).vault = s.vault := by simp [hostUp]
@[simp] theorem hostLinkEffect_vault (ok : Bool) (s : State) : (hostLinkEffect ok s).vault = s.vault := by unfold hostLinkEffect; simp [apply_ite State.vault]
@[simp] theorem hostLossEffect_vault (s : State) : (hostLossEffect s).vault = s.vault := by unfold hostLossEffect; simp [apply_ite State.vault]
@[simp] theorem completionEffect_vault (s : State) : (completionEffect s).vault = s.vault := by unfold completionEffect; simp [apply_ite State.vault]
@[simp] theorem interruptEffect_vault (s : State) : (interruptEffect s).vault = s.vault := by unfold interruptEffect; simp [apply_ite State.vault]
@[simp] theorem exchangeSlotEffect_vault (slot : Nat) (s : State) : (exchangeSlotEffect slot s).vault = s.vault := by unfold exchangeSlotEffect; simp [apply_ite State.vault]
@[simp] theorem readPast_vault (q h : Nat) (k : Nat) (s : State) : (readPast q h k s).vault = s.vault := by
  induction k generalizing s with
  | zero => rfl
  | succ k ih => simp only [readPast]; (repeat' split) <;> simp [ih]
@[simp] theorem dropFence_vault (q h : Nat) (s : State) : (dropFence q h s).vault = s.vault := by simp [dropFence]
@[simp] theorem fenceLiftEffect_vault (q h : Nat) (s : State) : (fenceLiftEffect q h s).vault = s.vault := by unfold fenceLiftEffect; simp [apply_ite State.vault]
@[simp] theorem mpNext_vault (f : State → State) (h : ∀ s, (f s).vault = s.vault) (s : State) : (mpNext f s).vault = s.vault := by
  simp [mpNext, h]

/-! ### Boundary -/

@[simp] theorem closeOwn_vault (p : Prog) (s : State) : (closeOwn p s).vault = s.vault := by simp [closeOwn]
@[simp] theorem setAct_vault (n : Nat) (s : State) : (setAct n s).vault = s.vault := by simp [setAct]
@[simp] theorem boundaryRamp_vault (s : State) : (boundaryRamp s).vault = s.vault := by simp [boundaryRamp]
@[simp] theorem boundaryEnd_vault (s : State) : (boundaryEnd s).vault = s.vault := by
  unfold boundaryEnd
  split
  · rfl
  · dsimp only
    (repeat' split) <;> simp
@[simp] theorem boundaryAct4_vault (p : Prog) (trig : List (BitVec 3)) (s : State) : (boundaryAct4 p trig s).vault = s.vault := by unfold boundaryAct4; simp [apply_ite State.vault]
@[simp] theorem boundaryCommit_vault (p : Prog) (s : State) : (boundaryCommit p s).vault = s.vault := by simp [boundaryCommit]
@[simp] theorem boundaryClose_vault (p : Prog) (slackNs : Nat) (s : State) : (boundaryClose p slackNs s).vault = s.vault := by simp only [boundaryClose]; (repeat' split) <;> simp
@[simp] theorem stepBoundaryEffect_vault (slackNs : Nat) (s : State) : (stepBoundaryEffect slackNs s).vault = s.vault := by unfold stepBoundaryEffect; (repeat' split) <;> simp
@[simp] theorem weirCloseEffect_vault (w slackNs : Nat) (s : State) : (weirCloseEffect w slackNs s).vault = s.vault := by unfold weirCloseEffect; simp [apply_ite State.vault]
@[simp] theorem closingEffect_vault (r : PeerRec) (slackNs : Nat) (s : State) : (closingEffect r slackNs s).vault = s.vault := by simp only [closingEffect]; (repeat' split) <;> simp
@[simp] theorem holdStep_vault (s : State) : (holdStep s).vault = s.vault := by simp [holdStep]
@[simp] theorem peerNoticeEffect_vault (origin : Nat) (status : Half) (hold : Bool) (s : State) : (peerNoticeEffect origin status hold s).vault = s.vault := by unfold peerNoticeEffect; simp [apply_ite State.vault]
@[simp] theorem portFailed_vault (p : Nat) (s : State) : (portFailed p s).vault = s.vault := by unfold portFailed; simp [apply_ite State.vault]
@[simp] theorem portRetrain_vault (p : Nat) (s : State) : (portRetrain p s).vault = s.vault := by simp [portRetrain]
@[simp] theorem trainingDoneEffect_vault (p : Nat) (s : State) : (trainingDoneEffect p s).vault = s.vault := by unfold trainingDoneEffect; simp [apply_ite State.vault]
@[simp] theorem trainingTimeoutEffect_vault (p : Nat) (s : State) : (trainingTimeoutEffect p s).vault = s.vault := by unfold trainingTimeoutEffect; simp [apply_ite State.vault]
@[simp] theorem identityEffect_vault (p : Nat) (r : IdentRec) (s : State) : (identityEffect p r s).vault = s.vault := by simp only [identityEffect]; (repeat' split) <;> simp
@[simp] theorem identityTake_vault (p : Nat) (h : FlitHdr) (r : IdentRec) (s : State) : (identityTake p h r s).vault = s.vault := by unfold identityTake; simp [apply_ite State.vault]
@[simp] theorem safeCause_vault (cause : Nat) (holds : State → Bool) (s : State) : (safeCause cause holds s).vault = s.vault := by unfold safeCause; simp [apply_ite State.vault]
@[simp] theorem regRow_vault (off : Nat) (v : Word) (s : State) : (regRow off v s).vault = s.vault := by simp [regRow]
@[simp] theorem seqResetRow_vault (kind : Nat) (v : Word) (s : State) : (seqResetRow kind v s).vault = s.vault := by simp [seqResetRow]
@[simp] theorem portEnableEffect_vault (page : Nat) (v : Word) (s : State) : (portEnableEffect page v s).vault = s.vault := by unfold portEnableEffect; split <;> simp

end Sys2Proof.Machine
end

