-- ==== Sys2Proof/Laws/VaultExec.lean ====
section
/-! SUPPORT. Every command but six leaves the vault as it is; the six let MIN_VER and the counter grow only. -/

namespace Sys2Proof.Machine

theorem next_vault {x t s : State} (hx : x.vault = s.vault) (h : (.next x : Host.Outcome State Fault Refusal) = .next t) : t.vault = s.vault := by
  cases h; exact hx

theorem refused_vault {r : Refusal} {t s : State} (h : (.refused r : Host.Outcome State Fault Refusal) = .next t) : t.vault = s.vault := by
  cases h

theorem arrExec_vault (op a : Nat) (i : ArrInst) (eff : Fmt → State → State) (he : ∀ f s, (eff f s).vault = s.vault) (s t : State)
    (h : arrExec op a i eff s = .next t) : t.vault = s.vault := by
  unfold arrExec at h
  split at h
  · split at h <;> cases h <;> simp [he]
  · cases h

theorem mmExec_vault (op : Nat) (fwd : Bool) (a : Nat) (i : ArrInst) (s t : State)
    (h : mmExec op fwd a i s = .next t) : t.vault = s.vault := by
  unfold mmExec at h
  split at h
  · split at h <;> cases h
    · exact mmEffect_vault ..
    · rfl
  · cases h

theorem rowExec_vault (op a : Nat) (d : RowDesc) (amb : Nat) (s t : State) (h : rowExec op a d amb s = .next t) : t.vault = s.vault := by
  unfold rowExec at h
  split at h
  · split at h <;> cases h <;> simp
  · cases h

theorem dmaExec_vault (op e : Nat) (idx : BitVec 24) (d : DmaDesc) (amb : List Nat) (s t : State) (h : dmaExec op e idx d amb s = .next t) :
    t.vault = s.vault := by
  unfold dmaExec at h
  split at h
  · cases h; simp
  · cases h

theorem updExec_vault (op u : Nat) (idx : BitVec 24) (d : UpdDesc) (s t : State) (h : updExec op u idx d s = .next t) :
    t.vault = s.vault := by
  unfold updExec at h
  split at h
  · cases h; simp
  · cases h

theorem cflExec_vault (op : Nat) (idx : BitVec 24) (d : CflDesc) (s t : State) (h : cflExec op idx d s = .next t) :
    t.vault = s.vault := by
  unfold cflExec at h
  split at h
  · cases h; simp
  · cases h

theorem streamExec_vault (op st : Nat) (i : StreamInst) (more : List Half) (eff : State → State) (he : ∀ s, (eff s).vault = s.vault)
    (s t : State) (h : streamExec op st i more eff s = .next t) : t.vault = s.vault := by
  unfold streamExec at h
  split at h
  · cases h; (repeat' split) <;> simp [he]
  · cases h

theorem execWake_vault (q : Fin 16) (w : Cmd) (s z : State) (h : execWake q w s = .next z) : z.vault = s.vault :=
  next_vault (by simp) h
theorem execSleep_vault (q : Fin 16) (w : Cmd) (s z : State) (h : execSleep q w s = .next z) : z.vault = s.vault :=
  next_vault (by simp) h
theorem execLoad_vault (q : Fin 16) (w : Cmd) (s z : State) (h : execLoad q w s = .next z) : z.vault = s.vault :=
  next_vault (by simp) h
theorem execUnload_vault (q : Fin 16) (w : Cmd) (s z : State) (h : execUnload q w s = .next z) : z.vault = s.vault :=
  next_vault (by simp) h
theorem execStart_vault (q : Fin 16) (w : Cmd) (s z : State) (h : execStart q w s = .next z) : z.vault = s.vault :=
  next_vault (by simp) h
theorem execPause_vault (q : Fin 16) (w : Cmd) (s z : State) (h : execPause q w s = .next z) : z.vault = s.vault :=
  next_vault (by simp) h
theorem execResume_vault (q : Fin 16) (w : Cmd) (s z : State) (h : execResume q w s = .next z) : z.vault = s.vault :=
  next_vault (by simp) h
theorem execAbort_vault (q : Fin 16) (w : Cmd) (s z : State) (h : execAbort q w s = .next z) : z.vault = s.vault :=
  next_vault (by simp) h
theorem execAlloc_vault (q : Fin 16) (w : Cmd) (s z : State) (h : execAlloc q w s = .next z) : z.vault = s.vault :=
  next_vault (by simp) h
theorem execFree_vault (q : Fin 16) (w : Cmd) (s z : State) (h : execFree q w s = .next z) : z.vault = s.vault :=
  next_vault (by simp) h
theorem execRead_vault (q : Fin 16) (w : Cmd) (s z : State) (h : execRead q w s = .next z) : z.vault = s.vault :=
  next_vault (by simp) h
theorem execWrite_vault (q : Fin 16) (w : Cmd) (s z : State) (h : execWrite q w s = .next z) : z.vault = s.vault :=
  next_vault (by simp) h
theorem execEvent_vault (q : Fin 16) (w : Cmd) (s z : State) (h : execEvent q w s = .next z) : z.vault = s.vault :=
  next_vault (by simp) h
theorem execLedger_vault (q : Fin 16) (w : Cmd) (s z : State) (h : execLedger q w s = .next z) : z.vault = s.vault :=
  next_vault (by simp) h
theorem execConfig_vault (q : Fin 16) (w : Cmd) (s z : State) (h : execConfig q w s = .next z) : z.vault = s.vault :=
  next_vault (by simp) h
theorem execOverlayLoad_vault (q : Fin 16) (w : Cmd) (s z : State) (h : execOverlayLoad q w s = .next z) : z.vault = s.vault :=
  next_vault (by simp) h
theorem execOverlayApply_vault (q : Fin 16) (w : Cmd) (s z : State) (h : execOverlayApply q w s = .next z) : z.vault = s.vault :=
  next_vault (by simp) h
theorem execOverlayClear_vault (q : Fin 16) (w : Cmd) (s z : State) (h : execOverlayClear q w s = .next z) : z.vault = s.vault :=
  next_vault (by simp) h
theorem execSync_vault (p : PktHdr) (d : DgramHdr) (s z : State) (h : execSync p d s = .next z) : z.vault = s.vault :=
  next_vault (by simp) h
theorem execAck_vault (p : PktHdr) (d : DgramHdr) (map : BitVec 64) (s z : State) (h : execAck p d map s = .next z) : z.vault = s.vault :=
  next_vault (by simp) h
theorem execSqWrite_vault (h : HctHdr) (q : Fin 16) (ring : Bool) (first : Half) (cmds : List Cmd) (s z : State) (h : execSqWrite h q ring first cmds s = .next z) : z.vault = s.vault :=
  next_vault (by simp) h
theorem execDoorbell_vault (h : HctHdr) (q : Fin 16) (tail : Half) (s z : State) (h : execDoorbell h q tail s = .next z) : z.vault = s.vault :=
  next_vault (by simp) h
theorem execData_vault (h : HctHdr) (q : Fin 16) (tag : Half) (entry : Word) (off : BitVec 64) (bytes : List Byte) (s z : State) (h : execData h q tag entry off bytes s = .next z) : z.vault = s.vault :=
  next_vault (by simp) h
theorem execRegReq_vault (h : HctHdr) (id : Half) (ops : List (Word × Word)) (s z : State) (h : execRegReq h id ops s = .next z) : z.vault = s.vault :=
  next_vault (by simp) h
theorem execMailbox_vault (h : HctHdr) (ch : Fin 8) (msg : List Byte) (s z : State) (h : execMailbox h ch msg s = .next z) : z.vault = s.vault :=
  next_vault (by simp) h
theorem execBasin_vault (h : HctHdr) (ts : BasinTs) (bytes : List Byte) (s z : State) (h : execBasin h ts bytes s = .next z) : z.vault = s.vault :=
  next_vault (by simp) h
theorem execNeighbourSolicitation_vault (p : PktHdr) (target : BitVec 128) (s z : State) (h : execNeighbourSolicitation p target s = .next z) : z.vault = s.vault :=
  next_vault (by simp) h
theorem execNeighbourAdvertisement_vault (p : PktHdr) (mac : BitVec 48) (s z : State) (h : execNeighbourAdvertisement p mac s = .next z) : z.vault = s.vault :=
  next_vault (by simp) h
theorem execEchoRequest_vault (p : PktHdr) (dst : BitVec 128) (payload : List Byte) (s z : State) (h : execEchoRequest p dst payload s = .next z) : z.vault = s.vault :=
  next_vault (by simp) h
theorem execPfcReceived_vault (prio : BitVec 3) (xoff : Bool) (ns : Nat) (s z : State) (h : execPfcReceived prio xoff ns s = .next z) : z.vault = s.vault :=
  next_vault (by simp) h
theorem execResendTimeout_vault (p : HctPeer) (seq : Word) (s z : State) (h : execResendTimeout p seq s = .next z) : z.vault = s.vault :=
  next_vault (by simp) h
theorem execAckDelay_vault (p : HctPeer) (s z : State) (h : execAckDelay p s = .next z) : z.vault = s.vault :=
  next_vault (by simp) h
theorem execNeighbourResolicit_vault (a : BitVec 128) (s z : State) (h : execNeighbourResolicit a s = .next z) : z.vault = s.vault :=
  next_vault (by simp) h
theorem execCompletion_vault  (s z : State) (h : execCompletion s = .next z) : z.vault = s.vault :=
  next_vault (by simp) h
theorem execInterrupt_vault  (s z : State) (h : execInterrupt s = .next z) : z.vault = s.vault :=
  next_vault (by simp) h
theorem execHostLinkTraining_vault (ok : Bool) (s z : State) (h : execHostLinkTraining ok s = .next z) : z.vault = s.vault :=
  next_vault (by simp) h
theorem execHostLossOfLock_vault  (s z : State) (h : execHostLossOfLock s = .next z) : z.vault = s.vault :=
  next_vault (by simp) h
theorem execRegisterWrite_vault (x0 : Requester) (off val : Word) (s z : State) (h : execRegisterWrite x0 off val s = .next z) : z.vault = s.vault :=
  next_vault (by simp) h
theorem execMpReset_vault (x0 : Requester) (val : Word) (s z : State) (h : execMpReset x0 val s = .next z) : z.vault = s.vault :=
  next_vault (by simp) h
theorem execRunReset_vault (x0 : Requester) (val : Word) (s z : State) (h : execRunReset x0 val s = .next z) : z.vault = s.vault :=
  next_vault (by simp) h
theorem execHubReset_vault (x0 : Requester) (val : Word) (s z : State) (h : execHubReset x0 val s = .next z) : z.vault = s.vault :=
  next_vault (by simp) h
theorem execHbmMarginGo_vault (x0 : Requester) (stack : Fin 12) (val : Word) (s z : State) (h : execHbmMarginGo x0 stack val s = .next z) : z.vault = s.vault :=
  next_vault (by simp) h
theorem execMarginDone_vault (stack : Fin 12) (errors : Nat) (s z : State) (h : execMarginDone stack errors s = .next z) : z.vault = s.vault :=
  next_vault (by simp) h
theorem execNglRetrain_vault (x0 : Requester) (port : Fin 6) (val : Word) (s z : State) (h : execNglRetrain x0 port val s = .next z) : z.vault = s.vault :=
  next_vault (by simp) h
theorem execNglExpWrite_vault (x0 : Requester) (port : Fin 6) (which : Fin 3) (val : Word) (s z : State) (h : execNglExpWrite x0 port which val s = .next z) : z.vault = s.vault :=
  next_vault (by simp) h
theorem execHstIrqResend_vault (x0 : Requester) (val : Word) (s z : State) (h : execHstIrqResend x0 val s = .next z) : z.vault = s.vault :=
  next_vault (by simp) h
theorem execSnap_vault (x0 : Requester) (page val : Word) (s z : State) (h : execSnap x0 page val s = .next z) : z.vault = s.vault :=
  next_vault (by simp) h
theorem execIntClr_vault (x0 : Requester) (page val : Word) (s z : State) (h : execIntClr x0 page val s = .next z) : z.vault = s.vault :=
  next_vault (by simp) h
theorem execLdp_vault (a : Fin 768) (i : ArrInst) (s z : State) (h : execLdp a i s = .next z) : z.vault = s.vault :=
  arrExec_vault _ _ _ _ (fun _ _ => by simp) _ _ h
theorem execMmf_vault (a : Fin 768) (i : ArrInst) (s z : State) (h : execMmf a i s = .next z) : z.vault = s.vault :=
  mmExec_vault _ _ _ _ _ _ h
theorem execMmt_vault (a : Fin 768) (i : ArrInst) (s z : State) (h : execMmt a i s = .next z) : z.vault = s.vault :=
  mmExec_vault _ _ _ _ _ _ h
theorem execDrn_vault (a : Fin 768) (i : DrnInst) (s z : State) (h : execDrn a i s = .next z) : z.vault = s.vault :=
  arrExec_vault _ _ _ _ (fun _ _ => by simp) _ _ h
theorem execSyn_vault (a : Fin 768) (i : WeirInst) (s z : State) (h : execSyn a i s = .next z) : z.vault = s.vault :=
  arrExec_vault _ _ _ _ (fun _ _ => by simp) _ _ h
theorem execEndA_vault (a : Fin 768) (i : WeirInst) (s z : State) (h : execEndA a i s = .next z) : z.vault = s.vault :=
  arrExec_vault _ _ _ _ (fun _ _ => by simp) _ _ h
theorem execLoop_vault (a : Fin 768) (i : ArrInst) (s z : State) (h : execLoop a i s = .next z) : z.vault = s.vault :=
  arrExec_vault _ _ _ _ (fun _ _ => by simp) _ _ h
theorem execNext_vault (a : Fin 768) (i : ArrInst) (s z : State) (h : execNext a i s = .next z) : z.vault = s.vault :=
  arrExec_vault _ _ _ _ (fun _ _ => by simp) _ _ h
theorem execNormF_vault (a : Fin 768) (d : RowDesc) (s z : State) (h : execNormF a d s = .next z) : z.vault = s.vault :=
  rowExec_vault _ _ _ _ _ _ h
theorem execRmsF_vault (a : Fin 768) (d : RowDesc) (s z : State) (h : execRmsF a d s = .next z) : z.vault = s.vault :=
  rowExec_vault _ _ _ _ _ _ h
theorem execSmaxF_vault (a : Fin 768) (d : RowDesc) (s z : State) (h : execSmaxF a d s = .next z) : z.vault = s.vault :=
  rowExec_vault _ _ _ _ _ _ h
theorem execNormB_vault (a : Fin 768) (d : RowSum) (s z : State) (h : execNormB a d s = .next z) : z.vault = s.vault :=
  rowExec_vault _ _ _ _ _ _ h
theorem execRmsB_vault (a : Fin 768) (d : RowSum) (s z : State) (h : execRmsB a d s = .next z) : z.vault = s.vault :=
  rowExec_vault _ _ _ _ _ _ h
theorem execSmaxB_vault (a : Fin 768) (d : RowDesc) (s z : State) (h : execSmaxB a d s = .next z) : z.vault = s.vault :=
  rowExec_vault _ _ _ _ _ _ h
theorem execIssue_vault (st : Fin 5) (i : StreamInst) (s z : State) (h : execIssue st i s = .next z) : z.vault = s.vault :=
  streamExec_vault _ _ _ _ _ (fun _ => by simp) _ _ h
theorem execWaitc_vault (st : Fin 5) (i : StreamInst) (s z : State) (h : execWaitc st i s = .next z) : z.vault = s.vault :=
  streamExec_vault _ _ _ _ _ (fun _ => by simp) _ _ h
theorem execWaite_vault (st : Fin 5) (i : StreamInst) (s z : State) (h : execWaite st i s = .next z) : z.vault = s.vault :=
  streamExec_vault _ _ _ _ _ (fun _ => by simp) _ _ h
theorem execWaitw_vault (st : Fin 5) (i : StreamInst) (s z : State) (h : execWaitw st i s = .next z) : z.vault = s.vault :=
  streamExec_vault _ _ _ _ _ (fun _ => by simp) _ _ h
theorem execWaitMet_vault (st : Fin 5) (ns : Nat) (s z : State) (h : execWaitMet st ns s = .next z) : z.vault = s.vault :=
  next_vault (by simp) h
theorem execArrive_vault (st : Fin 5) (i : StreamInst) (s z : State) (h : execArrive st i s = .next z) : z.vault = s.vault :=
  streamExec_vault _ _ _ _ _ (fun _ => by simp) _ _ h
theorem execPost_vault (st : Fin 5) (i : StreamInst) (s z : State) (h : execPost st i s = .next z) : z.vault = s.vault :=
  streamExec_vault _ _ _ _ _ (fun _ => by simp) _ _ h
theorem execStreamEnd_vault (st : Fin 5) (i : StreamInst) (s z : State) (h : execStreamEnd st i s = .next z) : z.vault = s.vault :=
  streamExec_vault _ _ _ _ _ (fun _ => by simp) _ _ h
theorem execDmaCopy_vault (e : Fin 96) (idx : BitVec 24) (d : DmaDesc) (errs : List RowErr) (s z : State) (h : execDmaCopy e idx d errs s = .next z) : z.vault = s.vault := by
  unfold execDmaCopy at h
  (repeat' split at h) <;> cases h <;> simp
theorem execDmaAddF32_vault (e : Fin 96) (idx : BitVec 24) (d : DmaAdd) (s z : State) (h : execDmaAddF32 e idx d s = .next z) : z.vault = s.vault :=
  dmaExec_vault _ _ _ _ _ _ _ h
theorem execDmaAddS32_vault (e : Fin 96) (idx : BitVec 24) (d : DmaDesc) (s z : State) (h : execDmaAddS32 e idx d s = .next z) : z.vault = s.vault :=
  dmaExec_vault _ _ _ _ _ _ _ h
theorem execDmaSwap32_vault (e : Fin 96) (idx : BitVec 24) (d : DmaDesc) (s z : State) (h : execDmaSwap32 e idx d s = .next z) : z.vault = s.vault :=
  dmaExec_vault _ _ _ _ _ _ _ h
theorem execDmaSwap64_vault (e : Fin 96) (idx : BitVec 24) (d : DmaDesc) (s z : State) (h : execDmaSwap64 e idx d s = .next z) : z.vault = s.vault :=
  dmaExec_vault _ _ _ _ _ _ _ h
theorem execDmaComplete_vault (e : Fin 96) (idx : BitVec 24) (s z : State) (h : execDmaComplete e idx s = .next z) : z.vault = s.vault :=
  next_vault (by simp) h
theorem execRingFillIssue_vault (a : Fin 768) (ring : Fin 4) (s z : State) (h : execRingFillIssue a ring s = .next z) : z.vault = s.vault :=
  next_vault (by simp) h
theorem execProbeEnd_vault (e : Fin 96) (idx : BitVec 24) (s z : State) (h : execProbeEnd e idx s = .next z) : z.vault = s.vault :=
  next_vault (by simp) h
theorem execDense_vault (u : Fin 12) (idx : BitVec 24) (d : UpdDesc) (s z : State) (h : execDense u idx d s = .next z) : z.vault = s.vault :=
  updExec_vault _ _ _ _ _ _ h
theorem execLazyUpd_vault (u : Fin 12) (idx : BitVec 24) (d : UpdDesc) (s z : State) (h : execLazyUpd u idx d s = .next z) : z.vault = s.vault :=
  updExec_vault _ _ _ _ _ _ h
theorem execUpdateComplete_vault (u : Fin 12) (idx : BitVec 24) (s z : State) (h : execUpdateComplete u idx s = .next z) : z.vault = s.vault :=
  next_vault (by simp) h
theorem execFenceLift_vault (q : Fin 16) (h : BitVec 24) (s z : State) (h : execFenceLift q h s = .next z) : z.vault = s.vault :=
  next_vault (by simp) h
theorem execReduce_vault (idx : BitVec 24) (d : CflDesc) (s z : State) (h : execReduce idx d s = .next z) : z.vault = s.vault :=
  cflExec_vault _ _ _ _ _ h
theorem execGather_vault (idx : BitVec 24) (d : CflDesc) (s z : State) (h : execGather idx d s = .next z) : z.vault = s.vault :=
  cflExec_vault _ _ _ _ _ h
theorem execNorm_vault (idx : BitVec 24) (d : CflDesc) (s z : State) (h : execNorm idx d s = .next z) : z.vault = s.vault :=
  cflExec_vault _ _ _ _ _ h
theorem execXchg_vault (idx : BitVec 24) (d : CflDesc) (s z : State) (h : execXchg idx d s = .next z) : z.vault = s.vault :=
  cflExec_vault _ _ _ _ _ h
theorem execDrain_vault (p : Fin 6) (idx : BitVec 24) (ev : Byte) (s z : State) (h : execDrain p idx ev s = .next z) : z.vault = s.vault := by
  unfold execDrain at h
  (repeat' split at h) <;> cases h <;> simp
theorem execCflComplete_vault (idx : BitVec 24) (s z : State) (h : execCflComplete idx s = .next z) : z.vault = s.vault :=
  next_vault (by simp) h
theorem execMarker_vault (r : RecHdr) (idx : BitVec 24) (s z : State) (h : execMarker r idx s = .next z) : z.vault = s.vault :=
  next_vault (by simp) h
theorem execWindowClose_vault (idx : BitVec 24) (s z : State) (h : execWindowClose idx s = .next z) : z.vault = s.vault :=
  next_vault (by simp) h
theorem execDecisionRecord_vault (r : RecHdr) (idx : BitVec 24) (d : Decision) (s z : State) (h : execDecisionRecord r idx d s = .next z) : z.vault = s.vault :=
  next_vault (by simp) h
theorem execDataFlit_vault (p : Fin 6) (f : Flit) (s z : State) (h : execDataFlit p f s = .next z) : z.vault = s.vault :=
  next_vault (by simp) h
theorem execFlitAck_vault (p : Fin 6) (f : FlitTop) (x : FlitRx) (s z : State) (h : execFlitAck p f x s = .next z) : z.vault = s.vault :=
  next_vault (by simp) h
theorem execIdentityRecord_vault (h : RecHdr) (r : IdentRec) (s z : State) (h : execIdentityRecord h r s = .next z) : z.vault = s.vault :=
  next_vault (by simp) h
theorem execClosingRecord_vault (r : RecHdr) (weir : BitVec 12) (k : Nat) (triggers : List (BitVec 3)) (noCommit : Bool) (slackNs : Nat) (s z : State) (h : execClosingRecord r weir k triggers noCommit slackNs s = .next z) : z.vault = s.vault :=
  next_vault (by simp) h
theorem execPeerNotice_vault (r : RecHdr) (origin : BitVec 6) (status : Half) (hold : Bool) (s z : State) (h : execPeerNotice r origin status hold s = .next z) : z.vault = s.vault := by
  unfold execPeerNotice at h
  refine next_vault ?_ h
  (repeat' split) <;> simp
theorem execTrainingDone_vault (p : Fin 6) (s z : State) (h : execTrainingDone p s = .next z) : z.vault = s.vault :=
  next_vault (by simp) h
theorem execTrainingTimeout_vault (p : Fin 6) (s z : State) (h : execTrainingTimeout p s = .next z) : z.vault = s.vault :=
  next_vault (by simp) h
theorem execLossOfLock_vault (p : Fin 6) (s z : State) (h : execLossOfLock p s = .next z) : z.vault = s.vault := by
  unfold execLossOfLock at h
  refine next_vault ?_ h
  (repeat' split) <;> simp
theorem execReplayThreshold_vault (p : Fin 6) (s z : State) (h : execReplayThreshold p s = .next z) : z.vault = s.vault := by
  unfold execReplayThreshold at h
  refine next_vault ?_ h
  (repeat' split) <;> simp
theorem execWeirClose_vault (w : BitVec 12) (slackNs : Nat) (s z : State) (h : execWeirClose w slackNs s = .next z) : z.vault = s.vault :=
  next_vault (by simp) h
theorem execStepBoundary_vault (slackNs : Nat) (s z : State) (h : execStepBoundary slackNs s = .next z) : z.vault = s.vault :=
  next_vault (by simp) h
theorem execReleaseGroup_vault (g : Fin 64) (s z : State) (h : execReleaseGroup g s = .next z) : z.vault = s.vault :=
  next_vault (by simp) h
theorem execEddyDecrement_vault (a : Fin 768) (holdUs : Nat) (s z : State) (h : execEddyDecrement a holdUs s = .next z) : z.vault = s.vault :=
  next_vault (by simp) h
theorem execStepTimeout_vault  (s z : State) (h : execStepTimeout s = .next z) : z.vault = s.vault :=
  next_vault (by simp) h
theorem execStepsDone_vault  (s z : State) (h : execStepsDone s = .next z) : z.vault = s.vault :=
  next_vault (by simp) h
theorem execColdStart_vault  (s z : State) (h : execColdStart s = .next z) : z.vault = s.vault :=
  next_vault (by simp) h
theorem execOrderlyPowerDown_vault  (s z : State) (h : execOrderlyPowerDown s = .next z) : z.vault = s.vault :=
  next_vault (by simp) h
theorem execOvervoltageTrip_vault  (s z : State) (h : execOvervoltageTrip s = .next z) : z.vault = s.vault :=
  next_vault (by simp) h
theorem execUndervoltage_vault  (s z : State) (h : execUndervoltage s = .next z) : z.vault = s.vault :=
  next_vault (by simp) h
theorem execRideThrough_vault  (s z : State) (h : execRideThrough s = .next z) : z.vault = s.vault :=
  next_vault (by simp) h
theorem execInputHigh_vault (dv us : Nat) (s z : State) (h : execInputHigh dv us s = .next z) : z.vault = s.vault :=
  next_vault (by simp) h
theorem execInputLow_vault (dv us : Nat) (s z : State) (h : execInputLow dv us s = .next z) : z.vault = s.vault :=
  next_vault (by simp) h
theorem execPeuRestart_vault  (s z : State) (h : execPeuRestart s = .next z) : z.vault = s.vault :=
  next_vault (by simp) h
theorem execHubStageFault_vault  (s z : State) (h : execHubStageFault s = .next z) : z.vault = s.vault :=
  next_vault (by simp) h
theorem execVsPhaseFail_vault (t : Fin 4) (phase : Fin 16) (s z : State) (h : execVsPhaseFail t phase s = .next z) : z.vault = s.vault :=
  next_vault (by simp) h
theorem execStageFault_vault (t : Fin 4) (s z : State) (h : execStageFault t s = .next z) : z.vault = s.vault :=
  next_vault (by simp) h
theorem execPhaseFail_vault (a : Fin 768) (phase : Fin 6) (s z : State) (h : execPhaseFail a phase s = .next z) : z.vault = s.vault :=
  next_vault (by simp) h
theorem execControllerFail_vault (a : Fin 768) (s z : State) (h : execControllerFail a s = .next z) : z.vault = s.vault :=
  next_vault (by simp) h
theorem execCreditGrant_vault (a : Fin 768) (waitNs : Nat) (s z : State) (h : execCreditGrant a waitNs s = .next z) : z.vault = s.vault :=
  next_vault (by simp) h
theorem execLehrStageDone_vault (a : Fin 768) (s z : State) (h : execLehrStageDone a s = .next z) : z.vault = s.vault :=
  next_vault (by simp) h
theorem execNbrCap_vault (a : Fin 768) (s z : State) (h : execNbrCap a s = .next z) : z.vault = s.vault :=
  next_vault (by simp) h
theorem execCapLoopTick_vault (pin10 vin : Nat) (s z : State) (h : execCapLoopTick pin10 vin s = .next z) : z.vault = s.vault :=
  next_vault (by simp) h
theorem execFCapRaise_vault (pin100 : Nat) (s z : State) (h : execFCapRaise pin100 s = .next z) : z.vault = s.vault :=
  next_vault (by simp) h
theorem execMemoryLimitTick_vault (pin100 : Nat) (s z : State) (h : execMemoryLimitTick pin100 s = .next z) : z.vault = s.vault :=
  next_vault (by simp) h
theorem execJunctionCeiling_vault (t : Fin 5) (tj : Nat) (s z : State) (h : execJunctionCeiling t tj s = .next z) : z.vault = s.vault :=
  next_vault (by simp) h
theorem execBoostTick_vault (a : Fin 768) (pin100 tj : Nat) (s z : State) (h : execBoostTick a pin100 tj s = .next z) : z.vault = s.vault :=
  next_vault (by simp) h
theorem execSidebandRead_vault (r : Sideband) (s z : State) (h : execSidebandRead r s = .next z) : z.vault = s.vault :=
  next_vault (by simp) h
theorem execSensorFault_vault (k : Sensor) (s z : State) (h : execSensorFault k s = .next z) : z.vault = s.vault :=
  next_vault (by simp) h
theorem execFlow_vault  (s z : State) (h : execFlow s = .next z) : z.vault = s.vault :=
  next_vault (by simp) h
theorem execOutlet_vault  (s z : State) (h : execOutlet s = .next z) : z.vault = s.vault :=
  next_vault (by simp) h
theorem execJunction_vault  (s z : State) (h : execJunction s = .next z) : z.vault = s.vault :=
  next_vault (by simp) h
theorem execCapFloor_vault  (s z : State) (h : execCapFloor s = .next z) : z.vault = s.vault :=
  next_vault (by simp) h
theorem execSafeExit_vault  (s z : State) (h : execSafeExit s = .next z) : z.vault = s.vault :=
  next_vault (by simp) h
theorem execThermalTrip_vault  (s z : State) (h : execThermalTrip s = .next z) : z.vault = s.vault :=
  next_vault (by simp) h
theorem execScrub_vault (stack : Fin 12) (pch : Fin 32) (bank : Byte) (row : Word) (corrected : Nat) (ue : Bool) (s z : State) (h : execScrub stack pch bank row corrected ue s = .next z) : z.vault = s.vault :=
  next_vault (by simp) h
theorem execMigrationSwitch_vault (h : BitVec 24) (page : Nat) (ver : Bool) (s z : State) (h : execMigrationSwitch h page ver s = .next z) : z.vault = s.vault :=
  next_vault (by simp) h
theorem execDelayedLogWrite_vault  (s z : State) (h : execDelayedLogWrite s = .next z) : z.vault = s.vault :=
  next_vault (by simp) h
theorem execCompaction_vault  (s z : State) (h : execCompaction s = .next z) : z.vault = s.vault :=
  next_vault (by simp) h
theorem execLogWrite_vault (kind : Byte) (page : Word) (status : Half) (payload : List Byte) (s z : State) (h : execLogWrite kind page status payload s = .next z) : z.vault = s.vault :=
  next_vault (by simp) h
theorem execUtilWindow_vault (u : BitVec 7) (s z : State) (h : execUtilWindow u s = .next z) : z.vault = s.vault :=
  next_vault (by simp) h
theorem execTelemetrySample_vault  (s z : State) (h : execTelemetrySample s = .next z) : z.vault = s.vault :=
  next_vault (by simp) h
theorem execInfo_vault (tag : Half) (s z : State) (h : execInfo tag s = .next z) : z.vault = s.vault :=
  next_vault (by simp) h
theorem execLogRead_vault (tag : Half) (first : Word) (count : Half) (s z : State) (h : execLogRead tag first count s = .next z) : z.vault = s.vault :=
  next_vault (by simp) h
theorem execTelRead_vault (tag : Half) (first : Word) (count : Half) (s z : State) (h : execTelRead tag first count s = .next z) : z.vault = s.vault :=
  next_vault (by simp) h
theorem execMpStatus_vault (ch : Fin 8) (tag : Half) (s z : State) (h : execMpStatus ch tag s = .next z) : z.vault = s.vault :=
  next_vault (by simp) h
theorem execTestDisable_vault (tag : Half) (s z : State) (h : execTestDisable tag s = .next z) : z.vault = s.vault :=
  next_vault (by simp) h
theorem execPortEnable_vault (x0 : Requester) (page val : Word) (s z : State) (h : execPortEnable x0 page val s = .next z) : z.vault = s.vault :=
  next_vault (by simp) h
theorem execHbmTrainingDone_vault (failed : List (Fin 12)) (s z : State) (h : execHbmTrainingDone failed s = .next z) : z.vault = s.vault :=
  next_vault (by simp) h
theorem execExchangeSlot_vault (slot : Fin 16) (s z : State) (h : execExchangeSlot slot s = .next z) : z.vault = s.vault :=
  next_vault (by simp) h
theorem execRingFullDelay_vault (a : Fin 768) (ring : Fin 4) (slot : Fin 16) (s z : State) (h : execRingFullDelay a ring slot s = .next z) : z.vault = s.vault :=
  next_vault (by simp) h

theorem grows_of_vault {s t : State} (h : t.vault = s.vault) : Grows s t := by
  simp only [State.vault, Prod.mk.injEq] at h
  obtain ⟨h1, ⟨hb, h2⟩, h3, h4, h5⟩ := h
  exact ⟨h1, Nat.le_of_eq (by rw [minVerNow, minVerNow, hb, h2]), h3.symm ▸ BitVec.le_refl _, h5⟩

theorem Grows.trans {s t u : State} (h : Grows s t) (k : Grows t u) : Grows s u := by
  obtain ⟨h1, h2, h3, h4⟩ := h
  obtain ⟨k1, k2, k3, k4⟩ := k
  exact ⟨k1.trans h1, Nat.le_trans h2 k2, BitVec.le_trans h3 k3, k4.trans h4⟩

theorem minVer_of_vault {s t : State} (h : t.vault = s.vault) : minVerNow t.mp = minVerNow s.mp := by
  simp only [State.vault, Prod.mk.injEq] at h
  rw [minVerNow, minVerNow, h.2.1.1, h.2.1.2]

theorem envCheck_counter (s : State) (cmd : Nat) (e : Envelope) (more : List Half) (h : (envCheck s cmd e more).1 = stOK) :
    s.mp.counter < e.counter := by
  unfold envCheck at h
  dsimp only at h
  split at h
  · exact absurd h (show ¬stKeyAbsent = stOK by decide)
  · split at h
    · exact absurd h (show ¬stAuth = stOK by decide)
    · split at h
      · rename_i hm; exact absurd h hm
      · split at h
        · exact absurd h (show ¬stCounterStale = stOK by decide)
        · rename_i h3
          have hv : (bump s .sec 0 0xc00 1).vault = s.vault := by simp
          simp only [State.vault, Prod.mk.injEq] at hv
          rw [hv.2.2.1] at h3
          exact BitVec.not_le.mp h3

/-- A command that `serve` hands to `eff` leaves what `eff` leaves. -/
theorem serve_rel (P : State → State → Prop) (hr : ∀ s, P s s) (c op : Nat) (tag : Half) (req : List Byte)
    (hb : ∀ s t, P (takeRequest c op tag req s) t → P s t) (eff : State → State) (h : ∀ s, P s (eff s)) (s : State) :
    P s (serve c op tag req eff s) := by
  unfold serve
  dsimp only
  split
  · exact hr s
  · split
    · exact hb _ _ (h _)
    · split
      · exact h _
      · exact hr s

theorem signed_grows (c cmd : Nat) (tag : Half) (e : Envelope) (more : State → List Half) (act : State → Half × List Byte × State)
    (ha : ∀ s, (act s).2.2.fit = s.fit ∧ minVerNow (act s).2.2.mp = minVerNow s.mp ∧ (act s).2.2.mp.counter = s.mp.counter ∧ (act s).2.2.pending = s.pending)
    (s : State) : Grows s (signed c cmd tag e more act s) := by
  unfold signed
  apply serve_rel Grows (fun _ => grows_of_vault rfl) _ _ _ _ (fun s _ h => Grows.trans (grows_of_vault (takeRequest_vault ..)) h)
  intro s
  have hv := envCheck_vault s cmd { e with sig := e.sig.take 4627 } (chk (e.sig.length != 4627) stLen ++ more s)
  dsimp only
  split
  · exact grows_of_vault (by rw [answer_vault]; exact hv)
  · rename_i h
    have hc := envCheck_counter s cmd { e with sig := e.sig.take 4627 } _ (Classical.not_not.mp h)
    have hm := minVer_of_vault hv
    simp only [State.vault, Prod.mk.injEq] at hv
    obtain ⟨a1, a2, a3, a4⟩ := ha (envCheck s cmd { e with sig := e.sig.take 4627 } (chk (e.sig.length != 4627) stLen ++ more s)).2
    refine Grows.trans ?_ (grows_of_vault (answer_vault ..))
    split
    · exact ⟨a1.trans hv.1, Nat.le_of_eq (a2.trans hm).symm, BitVec.le_of_lt hc, a4.trans hv.2.2.2.2⟩
    · exact ⟨a1.trans hv.1, Nat.le_of_eq (a2.trans hm).symm, (a3.trans hv.2.2.1).symm ▸ BitVec.le_refl _, a4.trans hv.2.2.2.2⟩

theorem opkey_of_vault {s t : State} (h : t.vault = s.vault) : t.mp.opkey = s.mp.opkey := by
  simp only [State.vault, Prod.mk.injEq] at h
  exact h.2.2.2.1

theorem signed_opkey (c cmd : Nat) (tag : Half) (e : Envelope) (more : State → List Half) (act : State → Half × List Byte × State)
    (ha : ∀ s, (act s).2.2.mp.opkey = s.mp.opkey) (s : State) : (signed c cmd tag e more act s).mp.opkey = s.mp.opkey := by
  unfold signed
  apply serve_rel (fun s t => t.mp.opkey = s.mp.opkey) (fun _ => rfl) _ _ _ _ (fun s t h => h.trans (opkey_of_vault (takeRequest_vault ..)))
  intro s
  have hv := opkey_of_vault (envCheck_vault s cmd { e with sig := e.sig.take 4627 } (chk (e.sig.length != 4627) stLen ++ more s))
  dsimp only
  split
  · rw [opkey_of_vault (answer_vault ..)]; exact hv
  · rw [opkey_of_vault (answer_vault ..)]
    split
    · exact (ha _).trans hv
    · exact (ha _).trans hv

theorem parts_of_vault {s t : State} (h : t.vault = s.vault) :
    t.fit = s.fit ∧ minVerNow t.mp = minVerNow s.mp ∧ t.mp.counter = s.mp.counter ∧ t.pending = s.pending := by
  have hm := minVer_of_vault h
  simp only [State.vault, Prod.mk.injEq] at h
  exact ⟨h.1, hm, h.2.2.1, h.2.2.2.2⟩

theorem measExtend_parts (s : State) (k : Option (List Byte)) (n : Nat) (b : List Byte) :
    (measExtend { s with mp := { s.mp with opkey := k } } n b).fit = s.fit ∧
    minVerNow (measExtend { s with mp := { s.mp with opkey := k } } n b).mp = minVerNow s.mp ∧
    (measExtend { s with mp := { s.mp with opkey := k } } n b).mp.counter = s.mp.counter ∧
    (measExtend { s with mp := { s.mp with opkey := k } } n b).pending = s.pending :=
  parts_of_vault (s := { s with mp := { s.mp with opkey := k } }) (measExtend_vault ..)

theorem enrollEffect_grows (tag : Half) (e : Envelope) (s : State) : Grows s (enrollEffect tag e s) :=
  signed_grows _ _ _ _ _ _ (fun s => measExtend_parts s (some e.payload) _ _) s

theorem releaseEffect_grows (tag : Half) (e : Envelope) (s : State) : Grows s (releaseEffect tag e s) :=
  signed_grows _ _ _ _ _ _ (fun s => measExtend_parts s none _ _) s

theorem fwUpdateEffect_grows (tag : Half) (e : Envelope) (s : State) : Grows s (fwUpdateEffect tag e s) := by
  unfold fwUpdateEffect
  split
  · exact grows_of_vault (serve_vault _ _ _ _ _ (fun _ => chanMod_vault ..) s)
  · exact signed_grows _ _ _ _ _ _ (fun s => parts_of_vault (fwUpdateAct_vault e s)) s

theorem attestEffect_grows (tag : Half) (e : Envelope) (s : State) : Grows s (attestEffect tag e s) :=
  signed_grows _ _ _ _ _ _ (fun s => parts_of_vault (attestAct_vault e s)) s

theorem testEnableEffect_grows (tag : Half) (e : Envelope) (s : State) : Grows s (testEnableEffect tag e s) :=
  signed_grows _ _ _ _ _ _ (fun _ => parts_of_vault (setScope_vault ..)) s

theorem minVerEffect_grows (s : State) : Grows s (minVerEffect s) := by
  unfold minVerEffect
  dsimp only
  split
  · rename_i h
    exact Grows.trans (t := { s with mp := { s.mp with minVer := (fwSlot s s.mp.slot).minAfter, minBad := false } })
      ⟨rfl, Nat.le_of_lt h.2, BitVec.le_refl _, rfl⟩ (grows_of_vault (logFirmware_vault ..))
  · exact grows_of_vault rfl

theorem fwUpdateEffect_opkey (tag : Half) (e : Envelope) (s : State) : (fwUpdateEffect tag e s).mp.opkey = s.mp.opkey := by
  unfold fwUpdateEffect
  split
  · exact opkey_of_vault (serve_vault _ _ _ _ _ (fun _ => chanMod_vault ..) s)
  · exact signed_opkey _ _ _ _ _ _ (fun s => opkey_of_vault (fwUpdateAct_vault e s)) s

theorem attestEffect_opkey (tag : Half) (e : Envelope) (s : State) : (attestEffect tag e s).mp.opkey = s.mp.opkey :=
  signed_opkey _ _ _ _ _ _ (fun s => opkey_of_vault (attestAct_vault e s)) s

theorem testEnableEffect_opkey (tag : Half) (e : Envelope) (s : State) : (testEnableEffect tag e s).mp.opkey = s.mp.opkey :=
  signed_opkey _ _ _ _ _ _ (fun _ => opkey_of_vault (setScope_vault ..)) s

theorem minVerEffect_opkey (s : State) : (minVerEffect s).mp.opkey = s.mp.opkey := by
  unfold minVerEffect
  dsimp only
  split
  · rw [opkey_of_vault (logFirmware_vault ..)]
  · rfl

end Sys2Proof.Machine
end

