-- ==== Sys2Proof/WellFormed.lean ====
section
/-! DEFINITION. Which commands are well formed: the operands lie in the ranges that the manual gives their
forms. The meanings do not rest on it; it says what a sender may send. -/

namespace Sys2Proof

/-- Opcode byte of a 64-byte command (R253). -/
def cmdOpcode (w : Cmd) : Nat := (w &&& 0xff).toNat

/-- Commands of one SQ_WRITE frame: 1 to 128 (Table 12.4). -/
def wfCmds (cs : List Cmd) : Bool := 1 ≤ cs.length && cs.length ≤ 128

/-- Operand ranges of each command. -/
def Instr.wf : Instr → Bool
  -- the opcode byte is the row's (Table 9.13)
  | .wake _ w => cmdOpcode w == 0x01
  | .sleep _ w => cmdOpcode w == 0x02
  | .load _ w => cmdOpcode w == 0x03
  | .unload _ w => cmdOpcode w == 0x04
  | .start _ w => cmdOpcode w == 0x05
  | .pause _ w => cmdOpcode w == 0x06
  | .resume _ w => cmdOpcode w == 0x07
  | .abort _ w => cmdOpcode w == 0x08
  | .alloc _ w => cmdOpcode w == 0x10
  | .free _ w => cmdOpcode w == 0x11
  | .read _ w => cmdOpcode w == 0x12
  | .write _ w => cmdOpcode w == 0x13
  | .event _ w => cmdOpcode w == 0x14
  | .ledger _ w => cmdOpcode w == 0x15
  | .config _ w => cmdOpcode w == 0x18
  | .overlayLoad _ w => cmdOpcode w == 0x19
  | .overlayApply _ w => cmdOpcode w == 0x19
  | .overlayClear _ w => cmdOpcode w == 0x19
  -- frame sizes (Table 12.4)
  | .sqWrite _ _ _ _ cs => wfCmds cs
  | .data _ _ _ _ _ bs => 1 ≤ bs.length && bs.length ≤ 8192
  | .regReq _ _ ops => 1 ≤ ops.length && ops.length ≤ 64
  | .mailbox _ _ m => m.length == 256
  | .basin _ _ bs => bs.length % 128 == 0 && 128 ≤ bs.length && bs.length ≤ 8192
  -- a frame has at most 9022 bytes: a 9000-byte IPv6 packet (Table 12.1)
  | .echoRequest _ _ p => p.length ≤ 8952
  -- the payload of a flit is at most 240 bytes with its item header (R291)
  | .dataFlit _ f => f.payload.length ≤ 224
  -- a utilization is a percentage (R402)
  | .utilWindow u => u.toNat ≤ 100
  | _ => true

end Sys2Proof
end

