-- ==== Sys2Proof/Tests/Slice0.lean ====
section
/-! SUPPORT. Tests: what WellFormed refuses, one concrete state for every hypothesis of the statements, and small
steps whose results were worked out from the manual. -/

namespace Sys2Proof.Tests

set_option Elab.async false

open Sys2Proof.Machine

/-! ### What WellFormed refuses: one ill-formed term for each check -/

/-- Each host command with another opcode byte (R253). -/
theorem test_wf_opcode : ∀ (q : Fin 16),
    (Instr.wake q 0).wf = false ∧ (Instr.sleep q 1).wf = false ∧ (Instr.load q 1).wf = false ∧ (Instr.unload q 1).wf = false
    ∧ (Instr.start q 1).wf = false ∧ (Instr.pause q 1).wf = false ∧ (Instr.resume q 1).wf = false ∧ (Instr.abort q 1).wf = false
    ∧ (Instr.alloc q 1).wf = false ∧ (Instr.free q 1).wf = false ∧ (Instr.read q 1).wf = false ∧ (Instr.write q 1).wf = false
    ∧ (Instr.event q 1).wf = false ∧ (Instr.ledger q 1).wf = false ∧ (Instr.config q 1).wf = false
    ∧ (Instr.overlayLoad q 1).wf = false ∧ (Instr.overlayApply q 1).wf = false ∧ (Instr.overlayClear q 1).wf = false := by decide +kernel

/-- SQ_WRITE of no command (Table 12.4). -/
theorem test_wf_sqWrite : (Instr.sqWrite {} 0 false 0 []).wf = false := by decide
/-- SQ_WRITE of 129 commands (Table 12.4). -/
theorem test_wf_sqWrite_long : (Instr.sqWrite {} 0 false 0 (List.replicate 129 0)).wf = false := by decide +kernel
/-- DATA of no byte (Table 12.4). -/
theorem test_wf_data : (Instr.data {} 0 0 0 0 []).wf = false := by decide
/-- DATA of 8193 bytes (Table 12.4). -/
theorem test_wf_data_long : (Instr.data {} 0 0 0 0 (List.replicate 8193 0)).wf = false := by decide +kernel
/-- REG_REQ of no operation, and of 65 (Table 12.4). -/
theorem test_wf_regReq : (Instr.regReq {} 0 []).wf = false ∧ (Instr.regReq {} 0 (List.replicate 65 (0, 0))).wf = false := by decide
/-- MAILBOX of 255 bytes (Table 12.4). -/
theorem test_wf_mailbox : (Instr.mailbox {} 0 (List.replicate 255 0)).wf = false := by decide +kernel
/-- BASIN of no block, of half a block and of 65 blocks (Table 12.4). -/
theorem test_wf_basin : (Instr.basin {} {} []).wf = false ∧ (Instr.basin {} {} (List.replicate 192 0)).wf = false
    ∧ (Instr.basin {} {} (List.replicate 8320 0)).wf = false := by decide +kernel
/-- A data flit with 225 bytes of payload (R291). -/
theorem test_wf_dataFlit : (Instr.dataFlit 0 { payload := List.replicate 225 0 }).wf = false := by decide +kernel
/-- A utilization of 101 % (R402). -/
theorem test_wf_utilWindow : (Instr.utilWindow 101).wf = false := by decide
/-- Commands at the edges of their forms. -/
theorem test_wf_accepts : (Instr.wake 0 0x01).wf = true ∧ (Instr.utilWindow 100).wf = true ∧ (Instr.sqWrite {} 0 true 0 [0]).wf = true
    ∧ (Instr.coldStart).wf = true := by decide +kernel

/-! ### States -/

/-- The device in a state of Table 9.12, without a program. -/
def inDev (d : DevSt) : State := { State.reset with seq := { State.reset.seq with dev := d } }
/-- The device in a state of Table 9.12 with a program of two layers and three weirs, its records in tensors 1 to 3. -/
def withProgIn (d : DevSt) : State :=
  { State.reset with seq := { State.reset.seq with dev := d, prog := some { layers := 2, weirs := 3, runRec := 1, layerRec := 2, scaleRec := 3 } } }
/-- A running step. -/
def running : State := withProgIn .running
/-- A running step in which array 0, with a B16 plane 0 and slot 0, runs; array 1 of the tile holds slot 1. -/
def arr01 : State := { running with arr := [(0, { st := .running, slot := some 0, planes := [(0, { fmt := 8 })] }), (1, { st := .running, slot := some 1 })] }
/-- The same where the instruction is the next one of array 0. -/
def arrWith (op : Nat) (i : ArrInst) : State := arrMod arr01 0 (fun r => { r with prog := [{ op := op, i := i }] })
/-- The same where the row descriptor is due on array 0. -/
def rowWith (op : Nat) (d : RowDesc) : State := arrMod arr01 0 (fun r => { r with rprog := [{ op := op, d := d }] })

/-! ### Witnesses: states that meet the hypotheses of the statements -/

theorem wit_ExecKeepsTheQueue : exec .coldStart State.reset = .next State.reset := by rfl
theorem wit_GuardsGrowOnEveryStep :
    step { State.reset with pending := [.coldStart] } = .next State.reset
    ∧ ({ State.reset with pending := [.coldStart] } : State).pending ≠ [] := ⟨rfl, by decide⟩
theorem wit_OnlyEnrollAndReleaseChangeTheKey :
    (∀ tag e, Instr.coldStart ≠ .enroll tag e) ∧ (∀ tag e, Instr.coldStart ≠ .release tag e)
    ∧ exec .coldStart State.reset = .next State.reset :=
  ⟨fun _ _ h => (nomatch h), fun _ _ h => (nomatch h), rfl⟩
theorem wit_MemoryWritesKeepTheForm : Memory.wf State.reset.mem ∧ Memory.wf (memWrite State.reset 1 5 [7, 0, 9]).mem
    ∧ pagesIn State.reset.mem ∧ Memory.wf { State.reset.mem with written := [(2 ^ 20 + 3, true)] }
    ∧ pagesIn { State.reset.mem with written := [(2 ^ 20 + 3, true)] } := by decide
theorem wit_LoopAndNext :
    arrMayRun (arrWith 6 { count := 3, target := 5 }) 0 6 { count := 3, target := 5 }
    ∧ arrMayRun (arrWith 7 { target := 5 }) 0 7 { target := 5 } := by decide
theorem wit_ArraysArriveAtWeirs :
    arrMayRun (arrWith 5 { count := 3 }) 0 5 { count := 3 } ∧ (arrGet (arrWith 5 { count := 3 }) 0).slot = some 0
    ∧ arrMayRun (arrWith 8 {}) 0 8 {} ∧ (arrGet (arrWith 8 {}) 0).slot = some 0 := by decide
theorem wit_LdpLoadsThePlane : arrMayRun (arrWith 1 { fmt := 8 }) 0 1 { fmt := 8 } := by decide
theorem wit_PassesFillTheAccumulator :
    (arrMayRun (arrWith 2 { fmt := 8, rows := 2 }) 0 2 { fmt := 8, rows := 2 }
      ∧ arrMayRun (arrWith 3 { fmt := 8, rows := 2 }) 0 3 { fmt := 8, rows := 2 })
    ∧ (∀ op, (aget (fun _ => ({} : PlaneInfo)) (arrGet (arrWith op { fmt := 8, rows := 2 }) 0).planes 0).fmt = 8
        ∧ (arrGet (arrWith op { fmt := 8, rows := 2 }) 0).mrow = 0)
    ∧ fmtOfCode 8 = some .b16 ∧ pairOk .b16 .b16 = true ∧ 0 ≤ planeMax .b16 :=
  ⟨by decide, fun _ => ⟨rfl, rfl⟩, by decide⟩
theorem wit_PassesFillTheAccumulator_ring :
    ∀ s, s = arrWith 2 { fmt := 8, rows := 2, src := 1 } → arrMayRun s 0 2 { fmt := 8, rows := 2, src := 1 } ∧ (arrGet s 0).mrow < 2
      ∧ ((arrGet s 0).rings.getD 0 {}).st.getD ((arrGet s 0).rings.getD 0 {}).head .free ≠ .full := by
  rintro _ rfl; decide
theorem wit_DrainWritesTheLocalStore :
    arrMayRun (arrWith 4 { fmt := 9, rows := 1, count := 0xffff }) 0 4 { fmt := 9, rows := 1, count := 0xffff }
    ∧ arrMayRun (arrWith 4 { fmt := 9, rows := 1, add := true, count := 0xffff }) 0 4 { fmt := 9, rows := 1, add := true, count := 0xffff } := by
  decide
theorem wit_RowDescriptorsRun :
    ∀ op ∈ [0x01, 0x02, 0x03, 0x11, 0x12, 0x13], rowMayRun (rowWith op { xf := 9, yf := 9 }) 0 op { xf := 9, yf := 9 } := by decide
theorem wit_RejectedFormsNeverRun_array :
    pickStatus (arrCheck 1 { fmt := 15 } 2 3) = stFmt ∧ pickStatus (arrCheck 4 { fmt := 15 } 2 3) = stFmt
    ∧ pickStatus (arrCheck 5 {} 2 3) = stField ∧ pickStatus (arrCheck 6 { acc := 1 } 2 3) = stField
    ∧ pickStatus (arrCheck 7 { acc := 1 } 2 3) = stField ∧ pickStatus (arrCheck 8 { acc := 1 } 2 3) = stField ∧ stFmt ≠ 0 ∧ stField ≠ 0 := by decide
theorem wit_RejectedFormsNeverRun_pass :
    pickStatus (arrCheck 2 { fmt := 9 } 2 3) ≠ 0 ∧ pickStatus (arrCheck 3 { fmt := 9 } 2 3) ≠ 0
    ∧ arrRuns arr01 0 = true ∧ fmtOfCode (aget (fun _ => ({} : PlaneInfo)) (arrGet arr01 0).planes 0).fmt = some .b16
    ∧ fmtOfCode 4 = some .f8a ∧ pairOk .b16 .f8a = false := by decide
theorem wit_RejectedFormsNeverRun_row : ∀ op ∈ [0x01, 0x02, 0x03, 0x11, 0x12, 0x13], pickStatus (rowCheck op {}) = stFmt := by decide
theorem wit_RejectedFormsNeverRun_stream : ∀ op ∈ [1, 2, 3, 4, 5, 6, 7], pickStatus (streamCheck 0 op { variant := true } 2 3 ++ []) = stField := by
  decide
theorem wit_RejectedFormsNeverRun_dma : ∀ op ∈ [1, 2, 3, 4, 5],
    pickStatus (dmaCheck op { ebase := 1, raw := true } ++ dmaCheckMem op { ebase := 1, raw := true } running) = stField := by decide
theorem wit_RejectedFormsNeverRun_update : ∀ op ∈ [1, 2],
    pickStatus (updCheck op { gf := 15 } 2 ++ updCheckMem running op { gf := 15 } (updRule running { gf := 15 }) (updWideNum running { gf := 15 })) ≠ 0 := by
  decide
theorem wit_RejectedFormsNeverRun_confluence : ∀ op ∈ [1, 2, 3, 4],
    pickStatus (cflCheck op { ev := 1 } true ++ cflCheckMem running op { ev := 1 } 1 0) = stField := by decide
theorem wit_RejectedFormsNeverRun_drain : ¬ ((31 : Byte) = 0xff ∨ (32 ≤ (31 : Byte).toNat ∧ (31 : Byte).toNat < 64))
    ∧ ¬ ((64 : Byte) = 0xff ∨ (32 ≤ (64 : Byte).toNat ∧ (64 : Byte).toNat < 64)) := by decide

/-! #### Streams -/

/-- `n` bytes of the image, as a number, from an offset on: those that are not zero. -/
def put (off n v : Nat) : List (Nat × Byte) :=
  ((List.range n).map (fun j => (tkey 9 (off + j), BitVec.ofNat 8 (v / 256 ^ j)))).filter (·.2 != 0)
/-- The program's image is in tensor 9: every stream is the one instruction `w`, and the list of unit `u` is `ds` (R234). -/
def imaged (s : State) (w u : Nat) (ds : List Nat) : State :=
  let tab (b k : Nat) := if u / 48 = k then put (b + 8 * (u % 48)) 4 0x2000 ++ put (b + 8 * (u % 48) + 4) 4 ds.length else []
  let bytes := put 0x100 4 0x1000 ++ put 0x104 4 1 ++ put 0x108 4 0x300 ++ put 0x200 4 0x1000 ++ put 0x204 4 1 ++ put 0x20c 4 0x400
    ++ tab 0x300 1 ++ tab 0x400 0 ++ put 0x1000 16 w ++ (ds.mapIdx (fun k d => put (0x2000 + 64 * k) 64 d)).flatten
  { s with
    seq := { s.seq with prog := s.seq.prog.map (fun p => { p with handle := 9, rootOff := 0x100, tileOff := [0x200, 0x200, 0x200, 0x200] }) }
    mem := { s.mem with bytes := bytes } }
/-- The word of a stream instruction without flags (Table 9.7). -/
def streamW (op a b : Nat) : Nat := op + a * 2 ^ 64 + b * 2 ^ 96
/-- A running step in which every stream's next instruction is one without flags. -/
def streamS (op a b : Nat) : State := imaged running (streamW op a b) 0 []

theorem wit_StreamsGoOn : 0 < running.seq.streams.length ∧ 4 < running.seq.streams.length
    ∧ streamExecutes (streamS 5 3 0) 5 0 { a := 3 } [] ∧ streamExecutes (streamS 6 32 5) 6 0 { a := 32, b := 5 } []
    ∧ streamExecutes (streamS 6 63 0) 6 4 { a := 63 } [] ∧ 32 ≤ fld (32 : Word) 0 6 ∧ streamExecutes (streamS 7 0 0) 7 4 {} [] := by
  decide +kernel
theorem wit_WaitsAreMetOrStand : 1 < running.seq.streams.length
    ∧ streamExecutes (streamS 2 254 0) 2 1 { a := 254 } [] ∧ (0 : Word).toNat ≤ cidGet (streamS 2 254 0) 0 254
    ∧ streamExecutes (streamS 2 254 1) 2 1 { a := 254, b := 1 } [] ∧ ¬ (1 : Word).toNat ≤ cidGet (streamS 2 254 1) 0 254
    ∧ streamExecutes (streamS 3 63 1) 3 1 { a := 63, b := 1 } [] ∧ ¬ (1 : Word).toNat ≤ eventGet (streamS 3 63 1) 63
    ∧ streamExecutes (streamS 4 3 1) 4 1 { a := 3, b := 1 } [] ∧ ¬ (1 : Word).toNat ≤ closedGet (streamS 4 3 1) 3 := by decide +kernel
/-- Stream 1 stands in a WAITE of event counter 40 for 2, which is reached, and stream 2 in an ISSUE for room. -/
def waiting : State :=
  { running with seq := { running.seq with
    ev := [(40, 2)], streams := [{}, { wait := some { op := 3, a := 40, b := 2 } }, { wait := some { op := 1, a := 5, b := 9 } }, {}, {}] } }
theorem wit_WaitsAreMetOrStand_met : waiting.seq.dev = .running ∧ 2 < waiting.seq.streams.length
    ∧ (streamGet waiting 1).wait = some { op := 3, a := 40, b := 2 } ∧ waitMet waiting 1 3 40 2 = true
    ∧ (streamGet waiting 2).wait = some { op := 1, a := 5, b := 9 } ∧ waitMet waiting 2 1 5 9 = true := by decide
/-- Every stream's next instruction is ISSUE, and the list of the unit that it names has nine descriptors. -/
def issueS (u b : Nat) : State := imaged running (streamW 1 u b) u (List.replicate 9 0)
/-- The issue queue of the confluence engine is full. -/
def fullQueue : State := { issueS 48 9 with seq := { (issueS 48 9).seq with issueQ := [(256 + 48, List.replicate 256 {})] } }
theorem wit_IssueQueuesARange :
    streamExecutes (issueS 48 0) 1 0 { a := 48 } (issueCheck (issueS 48 0) 0 { a := 48 })
    ∧ streamExecutes (issueS 48 9) 1 0 { a := 48, b := 9 } (issueCheck (issueS 48 9) 0 { a := 48, b := 9 }) ∧ (9 : Word) ≠ 0
    ∧ (aget (fun _ => []) (issueS 48 9).seq.issueQ (queueKey 0 (fld (48 : Word) 0 8))).length < 256
    ∧ streamExecutes (issueS 33 9) 1 4 { a := 33, b := 9 } (issueCheck (issueS 33 9) 4 { a := 33, b := 9 }) ∧ 24 ≤ fld (33 : Word) 0 8
    ∧ streamExecutes (issueS 5 9) 1 1 { a := 5, b := 9 } (issueCheck (issueS 5 9) 1 { a := 5, b := 9 }) ∧ fld (5 : Word) 0 8 < 24 := by
  decide +kernel
theorem wit_IssueQueuesARange_full :
    streamExecutes fullQueue 1 0 { a := 48, b := 9 } (issueCheck fullQueue 0 { a := 48, b := 9 })
    ∧ 256 ≤ (aget (fun _ => []) fullQueue.seq.issueQ (queueKey 0 (fld (48 : Word) 0 8))).length := by decide +kernel
/-- The same with the guard of the wide variant of layer 0. -/
def guarded : State := imaged running (0x301 + 48 * 2 ^ 64) 48 []
theorem wit_IssueQueuesARange_guard : streamMayRun 1 0 { a := 48, vguard := true, variant := true } guarded = true
    ∧ pickStatus (streamCheck 0 1 { a := 48, vguard := true, variant := true } (progLayers guarded) (progWeirs guarded)
        ++ issueCheck guarded 0 { a := 48, vguard := true, variant := true }) = 0
    ∧ guardSkips guarded { a := 48, vguard := true, variant := true } = true := by decide +kernel

/-! #### DMA -/

/-- The word of a DMA descriptor (Tables 7.2, 7.3). -/
def dmaW (op : Nat) (d : DmaDesc) : Nat :=
  op + d.order.toNat * 2 ^ 8 + d.raw.toNat * 2 ^ 9 + d.probe.toNat * 2 ^ 10 + d.cid.toNat * 2 ^ 16 + d.length.toNat * 2 ^ 32
  + d.rows.toNat * 2 ^ 64 + d.fmtw.toNat * 2 ^ 96 + d.src.space.toNat * 2 ^ 128 + d.src.offset.toNat * 2 ^ 160
  + d.src.pitch.toNat * 2 ^ 224 + d.dst.space.toNat * 2 ^ 256 + d.dst.offset.toNat * 2 ^ 288 + d.dst.pitch.toNat * 2 ^ 352
  + d.ebase.toNat * 2 ^ 384
/-- Arrays 0 and 1 hold slots, handle 4 names a CACHE tensor of 4096 bytes, and the descriptor is the one of engine 0, which
stands at the front of the engine's queue. -/
def dmaS (op : Nat) (d : DmaDesc) : State :=
  let s := imaged { arr01 with mem := { arr01.mem with tensors := [(4, some { size := 4096, cls := 1 })] } } 0 0 [dmaW op d]
  { s with seq := { s.seq with issueQ := [(0, [{ first := 0, count := 1 }])] } }
/-- One row of 16 bytes from slot 0 to slot 1 of the engine's tile. -/
def copyLocal : DmaDesc := { raw := true, length := 16, rows := 1, src := { space := 1 }, dst := { space := 0x101, offset := 32 } }
/-- One row of 16 bytes from slot 0 to the tensor. -/
def copyOut : DmaDesc := { raw := true, length := 16, rows := 1, src := { space := 1 }, dst := { space := 0x400, offset := 32 } }
/-- A row of no bytes. -/
def copyNone : DmaDesc := { raw := true, rows := 1, src := { space := 1 }, dst := { space := 0x101 } }
/-- One element from slot 0 to slot 1. -/
def atom (n : Nat) : DmaDesc := { raw := true, length := BitVec.ofNat 32 n, rows := 1, src := { space := 1 }, dst := { space := 0x101 } }
/-- One F32 from slot 0 to slot 1, to be added. -/
def addF : DmaDesc := { fmtw := 0x99, length := 4, rows := 1, src := { space := 1 }, dst := { space := 0x101 } }
theorem wit_DmaDescriptorsStart :
    (∀ x ∈ [(1, copyLocal), (1, copyNone), (2, addF), (3, atom 4), (4, atom 4), (5, atom 8)],
      dmaMayStart (dmaS x.1 x.2) x.1 0 0 x.2 ∧ (∀ b ∈ (dmaGet (dmaS x.1 x.2) 0).busy, b.n ≠ (dmaGet (dmaS x.1 x.2) 0).issued)
      ∧ epKind x.2.dst ≠ 2) ∧ copyNone.length = 0 ∧ probesFirst copyNone (dmaS 1 copyNone) = false := by decide +kernel
/-- A fill of ring 2 of slot 0. -/
def fillDesc : DmaDesc := { raw := true, length := 16, rows := 1, src := { space := 0x101 }, dst := { space := 0x20002 } }
/-- Ring 2 of array 0 has three slots; a fill of slot 0 was issued to engine 0, and waits for its start if `waits` holds. -/
def filling (waits : Bool) : State :=
  let ring : Ring := { en := true, slots := 3, uses := 1, slotRows := 1, rowWords := 1, tail := 1, st := [.filling, .free, .free],
                       fills := [(0, { eng := 0, idx := 0, d := fillDesc })] }
  { imaged running 0 0 [dmaW 1 fillDesc] with
    arr := [(0, { st := .running, slot := some 0, rings := [{}, {}, ring, {}] }), (1, { st := .running, slot := some 1 })]
    dma := [(0, { issued := 1, busy := if waits then [{ idx := 0, fill := some (0, 2, 0), waits := true }] else [] })] }
theorem wit_DmaDescriptorsStart_fill : dmaMayStart (filling true) 1 0 0 fillDesc
    ∧ epKind fillDesc.dst = 2 ∧ (∀ b ∈ (dmaGet (filling true) 0).busy, b.n ≠ (dmaGet (filling true) 0).issued) := by decide +kernel
/-- A row of 32 F32 from slot 0 to the tensor, written as B16. -/
def copyConv : DmaDesc := { copyOut with raw := false, length := 128, fmtw := 0x89 }
/-- What the row of a COPY becomes. -/
def rowBytes (d : DmaDesc) : List Byte :=
  (dmaRow d (dmaS 1 d) 0 (epRead (dmaS 1 d) (0 / 24) d.src (epOff d.src) d.length.toNat)).bytes
theorem wit_CopiesAndAtomicsMoveTheirElements_copy :
    (∀ d ∈ [copyLocal, copyOut, copyConv], dmaMayStart (dmaS 1 d) 1 0 0 d ∧ probesFirst d (dmaS 1 d) = false ∧ d.rows = 1 ∧ d.length ≠ 0 ∧ epKind d.src ≠ 2
      ∧ epKind d.dst ≠ 2 ∧ issueWide (dmaS 1 d) (0 / 24 * 64 + 0 % 24) 0 = none
      ∧ (epKind d.dst ≠ 0 → (epArr (dmaS 1 d) (0 / 24) d.dst).isSome = true)
      ∧ placeOrdered (dmaS 1 d) 0 d.src (epOff d.src) d.length.toNat ∧ placeOrdered (dmaS 1 d) 0 d.dst (epOff d.dst) (rowBytes d).length)
    ∧ copyOut.raw = true ∧ (rowBytes copyConv).length = 64 ∧ epKind copyLocal.dst ≠ 0 ∧ epKind copyOut.dst = 0 := by decide +kernel
theorem wit_CopiesAndAtomicsMoveTheirElements_atomic :
    ∀ x ∈ [(3, 4), (4, 4), (5, 8)], (atom x.2).rows = 1 ∧ epKind (atom x.2).src = 1 ∧ epKind (atom x.2).dst = 1
      ∧ epArr (dmaS x.1 (atom x.2)) (0 / 24) (atom x.2).src = some 0 ∧ epArr (dmaS x.1 (atom x.2)) (0 / 24) (atom x.2).dst = some 1
      ∧ placeOrdered (dmaS x.1 (atom x.2)) 0 (atom x.2).src (epOff (atom x.2).src) (atom x.2).length.toNat
      ∧ dmaMayStart (dmaS x.1 (atom x.2)) x.1 0 0 (atom x.2) ∧ (atom x.2).length = BitVec.ofNat 32 x.2 := by decide +kernel
theorem wit_CopiesAndAtomicsMoveTheirElements_add : addF.rows = 1 ∧ epKind addF.src = 1 ∧ epKind addF.dst = 1
    ∧ epArr (dmaS 2 addF) (0 / 24) addF.src = some 0 ∧ epArr (dmaS 2 addF) (0 / 24) addF.dst = some 1
    ∧ placeOrdered (dmaS 2 addF) 0 addF.src (epOff addF.src) addF.length.toNat ∧ dmaMayStart (dmaS 2 addF) 2 0 0 addF ∧ addF.length ≠ 0
    ∧ probesFirst addF (dmaS 2 addF) = false := by decide +kernel
/-- Engines 0 and 1 have descriptors in progress; descriptor 9 of engine 2 waits for its probe's end. -/
def dmaBusy : State := { dmaS 1 copyLocal with
  dma := [(0, { busy := [{ idx := 7, cid := 5 }] }), (1, { busy := [{ idx := 8 }] })]
  seq := { running.seq with probeCnt := [(1, 2)], probes := [({ eng := 2, idx := 9, d := { fmtw := 0x10000 } }, false)] } }
theorem wit_DmaAndProbeEndsCount : unitsStopped dmaBusy = false
    ∧ (dmaGet dmaBusy 0).busy.find? (fun x => x.idx == 7 && mayEnd dmaBusy 0 x) = some { idx := 7, cid := 5 } ∧ (5 : Nat) ≠ 255
    ∧ (dmaGet dmaBusy 1).busy.find? (fun x => x.idx == 8 && mayEnd dmaBusy 1 x) = some { idx := 8, cid := 255 }
    ∧ (withProgIn .safe).seq.dev = .safe := by decide +kernel
theorem wit_DmaAndProbeEndsCount_probe : (fwSid (0x10000 : Word)).toNat = 1 ∧ unitsStopped dmaBusy = false
    ∧ dmaBusy.seq.probes.find? (fun p => p.1.eng == 2 && p.1.idx == 9 && !p.2) = some ({ eng := 2, idx := 9, d := { fmtw := 0x10000 } }, false)
    ∧ (scaleGet dmaBusy 1).ends + 1 < aget (fun _ => 0) dmaBusy.seq.probeCnt 1 := by decide +kernel
/-- The same with one end left. -/
def lastProbe : State := { dmaBusy with seq := { dmaBusy.seq with scales := [(1, { ends := 1 })] } }
theorem wit_DmaAndProbeEndsCount_last : unitsStopped lastProbe = false
    ∧ lastProbe.seq.probes.find? (fun p => p.1.eng == 2 && p.1.idx == 9 && !p.2) = some ({ eng := 2, idx := 9, d := { fmtw := 0x10000 } }, false)
    ∧ aget (fun _ => 0) lastProbe.seq.probeCnt 1 ≤ (scaleGet lastProbe 1).ends + 1 := by decide +kernel
/-- Ring 2 of array 0 holds a fill in its queue, and slot 0 is free. -/
def fillQueued : State := { running with arr :=
  [(0, { st := .running, slot := some 0,
         rings := [{}, {}, { en := true, slots := 3, uses := 1, slotRows := 1, rowWords := 1, st := [.free, .free, .free],
                             queue := [{ eng := 0, idx := 7, d := fillDesc }] }, {}] })] }
theorem wit_RingFillsTakeAndFillSlots : (arrGet fillQueued 0).rings.length = 4
    ∧ ((arrGet fillQueued 0).rings.getD 2 {}).queue = [{ eng := 0, idx := 7, d := fillDesc }] ∧ fillQueued.seq.dev = .running
    ∧ dmaNoOp fillDesc = false
    ∧ ((arrGet fillQueued 0).rings.getD 2 {}).st[((arrGet fillQueued 0).rings.getD 2 {}).tail]? = some .free
    ∧ (dmaGet fillQueued 0).busy.length < 64 ∧ heldForK fillDesc fillQueued = false
    ∧ ((arrGet fillQueued 0).rings.getD 2 {}).st.countP (· != .free) < ringLimit fillQueued 0 2 ((arrGet fillQueued 0).rings.getD 2 {}) := by
  decide +kernel
theorem wit_RingFillsTakeAndFillSlots_full : (arrGet (filling false) 0).rings.length = 4
    ∧ ((arrGet (filling false) 0).rings.getD 2 {}).fills.find? (fun p => p.1 == 0) = some (0, { eng := 0, idx := 0, d := fillDesc })
    ∧ (dmaGet (filling false) 0).busy.any (fun b => b.fill == some (0, 2, 0)) = false
    ∧ ((arrGet (filling false) 0).rings.getD 2 {}).st[0]? = some .filling := by decide +kernel

/-! #### Update units -/

/-- Every handle is a STATE tensor of 64 KiB, handle 5; one tile, or one row of 32 elements. -/
def updDesc (n : Nat) : UpdDesc :=
  { fcf := 5, gf := 9, cid := 3, count := BitVec.ofNat 32 n, gH := 5, wH := 5, cH := 5, m1H := 5, m2H := 5, fcH := 5 }
def lazyDesc : UpdDesc := { updDesc 1 with first := 1, rowElems := 32, tH := 5, kH := 5 }
/-- The word of an update descriptor (Table 10.1) without CLIP and NF_HOLD, E_H, N_H and RULE_OFF zero. -/
def updW (op : Nat) (d : UpdDesc) : Nat :=
  op + d.fcf.toNat * 2 ^ 16 + d.gf.toNat * 2 ^ 20 + d.cid.toNat * 2 ^ 24 + d.layer.toNat * 2 ^ 32 + d.first.toNat * 2 ^ 64
  + d.count.toNat * 2 ^ 96 + d.gH.toNat * 2 ^ 128 + d.wH.toNat * 2 ^ 160 + d.cH.toNat * 2 ^ 192 + d.m1H.toNat * 2 ^ 224
  + d.m2H.toNat * 2 ^ 256 + d.fcH.toNat * 2 ^ 288 + d.rowElems.toNat * 2 ^ 384 + d.tH.toNat * 2 ^ 448 + d.kH.toNat * 2 ^ 480
/-- The tensor, and the descriptor as the one of unit 11, which stands at the front of the unit's queue. -/
def updS (op : Nat) (d : UpdDesc) : State :=
  let s := imaged { running with mem := { running.mem with tensors := [(5, some { size := 65536, cls := 0 })] } } 0 34 [updW op d]
  { s with seq := { s.seq with issueQ := [(226, [{ first := 0, count := 1 }])] } }
/-- The same with a fence of an earlier commit on the tensor. -/
def updFence : State := { updS 2 lazyDesc with mem := { (updS 2 lazyDesc).mem with commits := 1, fences := [{ q := 2, handle := 5 }] } }
/-- Layer 0 is frozen. -/
def frozen : State :=
  { updS 1 (updDesc 1) with seq := { (updS 1 (updDesc 1)).seq with prog := (updS 1 (updDesc 1)).seq.prog.map (fun p => { p with frozen := [0] }) } }
/-- Unit 11 may start the descriptor of the state's program. -/
abbrev updReady (s : State) (op : Nat) (d : UpdDesc) (q : Prog → Bool) : Prop :=
  pickStatus (updCheck op d (progLayers s) ++ updCheckMem s op d (updRule s d) (updWideNum s d)) = 0
  ∧ s.seq.prog.any (fun p => updMayStart op 11 0 d s p && q p) = true
theorem wit_UpdatesWriteWorkingVersionsOnly : updReady (updS 1 (updDesc 1)) 1 (updDesc 1) (fun _ => true)
    ∧ updReady (updS 2 lazyDesc) 2 lazyDesc (fun _ => true) := by decide +kernel
/-- Every output is a tensor of its own: 5 to 11; the touch list names row 1 alone. -/
def updOwn (n : Nat) : UpdDesc := { updDesc n with wH := 6, cH := 7, m1H := 8, m2H := 9, fcH := 10 }
def lazyOwn : UpdDesc := { updOwn 1 with first := 2, rowElems := 32, tH := 5, kH := 11 }
def updMany (op : Nat) (d : UpdDesc) : State :=
  let s := updS op d
  { s with mem := { s.mem with tensors := (List.range 7).map (fun k => (5 + k, some { size := 65536, cls := 0 }))
                               bytes := [(tkey 5 0, 1), (tkey 5 4, 1)] ++ s.mem.bytes } }
theorem wit_UpdatesWriteWorkingVersionsOnly_values :
    ∀ x ∈ [(1, updOwn 1), (2, lazyOwn)], ∀ s, s = updMany x.1 x.2 → updReady s x.1 x.2 (fun p =>
      !updFenced x.1 x.2 p s && !layerFrozen p x.2.layer.toNat && decide (updOutputs x.1 x.2 (updEf s p x.2)).Nodup)
      ∧ x.2.clip = false ∧ (∀ e ∈ updExtents x.1 x.2 (updRule s x.2) (updWideNum s x.2), e.2.1 ≤ 2 ^ 40) := by
  intro x hx s hs
  subst hs
  revert x
  decide +kernel
theorem wit_UpdatesWriteWorkingVersionsOnly_rows : ∀ s, s = updMany 2 lazyOwn →
    leNat (tensorBytes s lazyOwn.tH.toNat 0 4) = 1 ∧ 1 ≤ lazyOwn.count.toNat ∧ leNat (tensorBytes s lazyOwn.tH.toNat 4 4) = 1
    ∧ touchOk lazyOwn.first.toNat [1] = true ∧ 31 < lazyOwn.rowElems.toNat ∧ (updOwn 1).first.toNat ≤ 0 ∧ 0 < 0 + (updOwn 1).count.toNat := by
  rintro _ rfl
  decide +kernel
theorem wit_UpdatesWriteWorkingVersionsOnly_fenced : updReady updFence 2 lazyDesc (fun p => updFenced 2 lazyDesc p updFence) := by decide +kernel
theorem wit_UpdatesWriteWorkingVersionsOnly_frozen : updReady frozen 1 (updDesc 1) (fun p => layerFrozen p 0) := by decide +kernel
/-- Units 0 and 1 have descriptors in progress, with and without a CID. -/
def updBusy : State := { updS 1 (updDesc 1) with upd := [(0, { active := some (4, 3) }), (1, { active := some (6, 255) })] }
theorem wit_UpdatesCompleteAndFencesLift :
    (updGet updBusy 0).active = some (4, 3) ∧ (updGet updBusy 0).waiting = none ∧ (3 : Nat) ≠ 255 ∧ unitsStopped updBusy = false
    ∧ (updGet updBusy 1).active = some (6, 255) ∧ (updGet updBusy 1).waiting = none
    ∧ ({ updBusy with seq := { updBusy.seq with dev := .safe } } : State).seq.dev = .safe
    ∧ hostQuiet updFence ∧ (∀ u, u < 12 → (updGet updFence u).waiting = none) ∧ updFence.cfl.ops = [] := by decide +kernel

/-! #### The confluence engine -/

/-- The word of a confluence descriptor (Table 11.7) without flags, RID and offsets, E_H and D_H zero. -/
def cflW (op : Nat) (d : CflDesc) : Nat :=
  op + d.ev.toNat * 2 ^ 16 + d.fmtw.toNat * 2 ^ 64 + d.srcH.toNat * 2 ^ 96 + d.dstH.toNat * 2 ^ 128 + d.count.toNat * 2 ^ 224
  + d.nH.toNat * 2 ^ 384 + d.cap.toNat * 2 ^ 416 + d.experts.toNat * 2 ^ 448 + d.rowb.toNat * 2 ^ 480
/-- Tensors that are no STATE, CACHE 4 and EXPERT 6, and a word as the one descriptor of root unit `u`, which stands at the
front of the unit's queue. -/
def rootS (u w : Nat) : State :=
  let s := imaged { running with mem := { running.mem with tensors := [(4, some { size := 65536, cls := 1 }), (6, some { size := 4096, cls := 3 })] } } 0 u [w]
  { s with seq := { s.seq with issueQ := [(256 + u, [{ first := 0, count := 1 }])] } }
def cflS (op : Nat) (d : CflDesc) : State := rootS 48 (cflW op d)
theorem wit_ConfluenceDescriptorsAreHeld :
    ∀ x ∈ [(1, ({ fmtw := 0x99, srcH := 4, dstH := 4 } : CflDesc)), (1, { fmtw := 0x99, srcH := 4, dstH := 4, count := 32 }),
        (2, { srcH := 4, dstH := 4 }), (3, { nH := 4, ev := 32 }), (4, { srcH := 4, dstH := 4, nH := 6, cap := 1, experts := 1, rowb := 16 })],
      pickStatus (cflCheck x.1 x.2 (hasLcu (cflS x.1 x.2)) ++ cflCheckMem (cflS x.1 x.2) x.1 x.2 (reachD (cflS x.1 x.2)) (myIndex (cflS x.1 x.2))) = 0
      ∧ cflMayStart (cflS x.1 x.2) x.1 0 x.2 = true := by decide +kernel
/-- The same with SRC apart from DST, which is tensor 7, a norm word of training state in tensor 5, and one row counted for the one
expert of an XCHG. -/
def cflApart (op : Nat) (d : CflDesc) : State :=
  let s := cflS op d
  { s with mem := { s.mem with tensors := s.mem.tensors ++ [(7, some { size := 4096, cls := 1 }), (5, some { size := 4096, cls := 0 })]
                               bytes := (tkey 6 0, 1) :: s.mem.bytes } }
theorem wit_ConfluenceDescriptorsAreHeld_values :
    ∀ x ∈ [(1, ({ fmtw := 0x99, srcH := 4, dstH := 7, count := 2 } : CflDesc)), (2, { srcH := 4, dstH := 7, count := 2 }), (3, { nH := 4, ev := 32 }),
        (3, { nH := 5, ev := 32 }), (4, { srcH := 4, dstH := 7, nH := 6, cap := 1, experts := 1, rowb := 16 })],
      pickStatus (cflCheck x.1 x.2 (hasLcu (cflApart x.1 x.2))
        ++ cflCheckMem (cflApart x.1 x.2) x.1 x.2 (reachD (cflApart x.1 x.2)) (myIndex (cflApart x.1 x.2))) = 0
      ∧ cflMayStart (cflApart x.1 x.2) x.1 0 x.2 = true ∧ (cflApart x.1 x.2).cfl.ops = [] ∧ (cflApart x.1 x.2).cfl.inbox = []
      ∧ reachD (cflApart x.1 x.2) = 1 ∧ myIndex (cflApart x.1 x.2) < reachD (cflApart x.1 x.2)
      ∧ basinRid (cflApart x.1 x.2) x.2.rid = false ∧ fld (cflApart x.1 x.2).cfl.policyNow (2 * x.2.cls.toNat) 2 = 0
      ∧ (cflApart x.1 x.2).cfl.ledgerMode ≠ 2 ∧ fwGrad x.2.fmtw = false ∧ x.2.normAcc = false ∧ x.2.cmp = false ∧ x.2.dH = 0
      ∧ fld x.2.dstOff 0 40 + x.2.experts.toNat * x.2.cap.toNat * x.2.rowb.toNat ≤ 2 ^ 40 := by decide +kernel
theorem wit_ConfluenceDescriptorsAreHeld_words : ∀ s u, s = cflApart 3 { nH := 4, ev := 32 } → u = cflApart 3 { nH := 5, ev := 32 } →
    isState s 4 = false ∧ isState u 5 = true ∧ fenced s 4 = false ∧ fenced u 5 = false := by
  rintro _ _ rfl rfl
  decide +kernel
theorem wit_ConfluenceDescriptorsAreHeld_counts : ∀ s, s = cflApart 4 { srcH := 4, dstH := 7, nH := 6, cap := 1, experts := 1, rowb := 16 } →
    leNat (tensorBytes s 6 0 4) = 1 := by
  rintro _ rfl
  decide +kernel
theorem wit_ConfluenceDescriptorsAreHeld_full :
    16 ≤ ({ running with cfl := { running.cfl with ops := List.replicate 16 {} } } : State).cfl.ops.length := by decide
/-- Descriptors 7 (ready, event counter 32), 8 and 9 (REDUCEs, not ready, under a policy) in progress; port 1 is in UP. -/
def cflBusy : State := { running with
  port := [(1, { st := .up })]
  cfl := { running.cfl with ops := [{ op := 2, idx := 7, d := { ev := 32 }, ready := true }, { op := 1, idx := 8, policy := 1 },
    { op := 1, idx := 9, policy := 1, windowOpen := true, markers := [0] }] } }
theorem wit_ConfluenceCompletions : opGet cflBusy 7 = some { op := 2, idx := 7, d := { ev := 32 }, ready := true }
    ∧ 32 ≤ (32 : Byte).toNat ∧ (32 : Byte).toNat < 64 ∧ opGet cflBusy 8 = some { op := 1, idx := 8, policy := 1 } := by decide +kernel
/-- The header of a record from device 63. -/
def fromPeer : FlitHdr := { seq := 1, srcDev := 63 }
theorem wit_LateDevicesAreDecided : linkGood cflBusy 1 1 fromPeer ∧ fromPeer.dest.toNat = myIndex (linkTaken cflBusy 1 1 fromPeer)
    ∧ opGet (linkTaken cflBusy 1 1 fromPeer) 8 = some { op := 1, idx := 8, policy := 1 } ∧ myIndex (linkTaken cflBusy 1 1 fromPeer) = 0
    ∧ (1 : Nat) ≠ 0 ∧ ([] : List Nat).contains fromPeer.srcDev.toNat = false
    ∧ aget (fun _ => 0) (linkTaken cflBusy 1 1 fromPeer).seq.peerClosed fromPeer.srcDev.toNat = 0
    ∧ aget (fun _ => 0) (linkTaken cflBusy 1 1 fromPeer).seq.peerClosed 0 = 0
    ∧ opGet (linkTaken cflBusy 1 1 fromPeer) 10 = none ∧ (linkTaken cflBusy 1 1 fromPeer).cfl.doneIdx.contains 10 = false
    ∧ opGet cflBusy 9 = some { op := 1, idx := 9, policy := 1, windowOpen := true, markers := [0] } ∧ cflBusy.cfl.ledgerMode ≠ 1 := by decide +kernel
/-- Port 1 in UP with a flit outstanding, port 0 in UP. -/
def linkUp : State := { running with
  port := [(0, { st := .up }), (1, { st := .up, txSeq := 4, unacked := [(3, { body := .data 7 0 0 false false [] })] })] }
/-- DRAIN with counter 63 is the descriptor of the link compression unit of port `p`, at the front of its queue. -/
def drainS (p : Nat) : State := { rootS (56 + p) (1 + 63 * 2 ^ 16) with port := linkUp.port }
theorem wit_DrainsCompleteOnAnEmptyPort : ((63 : Byte) = 0xff ∨ (32 ≤ (63 : Byte).toNat ∧ (63 : Byte).toNat < 64))
    ∧ (∀ p ∈ [0, 1], hasLcu (drainS p) = true ∧ (drainS p).seq.dev = .running ∧ presentPage (drainS p).fit .lcu p = true
      ∧ atFront (drainS p) (drainQueue p) 0 = true ∧ drainIs (drainS p) p 0 63 = true)
    ∧ ownItems (drainS 0) 0 = [] ∧ ownItems (drainS 1) 1 ≠ [] := by decide +kernel
theorem wit_FlitsAreTakenAndAcknowledged : (portGet linkUp 1).st = .up ∧ ({ crcOk := false } : Flit).crcOk = false
    ∧ ({ fecOk := false } : Flit).fecOk = false ∧ ({ seq := 2 } : Flit).seq ≠ (portGet linkUp 1).rxSeq + 1
    ∧ linkGood linkUp 1 1 ({ seq := 1 } : Flit).toFlitHdr
    ∧ ({ seq := 1 } : Flit).dest.toNat = myIndex (linkTaken linkUp 1 1 ({ seq := 1 } : Flit).toFlitHdr)
    ∧ ({ ack := 3 } : FlitHdr).ack.getLsbD 31 = false
    ∧ (portGet linkUp 1).unacked.findIdx? (fun e => e.1 == ({ ack := 3 } : FlitHdr).ack.truncate 16) = some 0
    ∧ (portGet linkUp 1).txq = [] ∧ linkUp.cfl.ops = [] ∧ linkRefuses linkUp .ngl 1 (portGet linkUp 1).tst 1 = false
    ∧ linkGood linkUp 1 1 ({ seq := 1, dest := 1 } : Flit).toFlitHdr
    ∧ ({ seq := 1, dest := 1 } : Flit).dest.toNat ≠ myIndex (linkTaken linkUp 1 1 ({ seq := 1, dest := 1 } : Flit).toFlitHdr) := by decide +kernel
/-- The third flit of each three is refused, and two have come. -/
def linkTest : State := pgSet (pgSet (portMod linkUp 1 (fun r => { r with tst := 2 })) .ngl 1 0x080 2) .ngl 1 0x088 3
theorem wit_FlitsAreTakenAndAcknowledged_refused : (portGet linkTest 1).st = .up
    ∧ linkRefuses linkTest .ngl 1 (portGet linkTest 1).tst 1 = true ∧ linkRefuses linkTest .ngl 1 1 1 = false := by decide +kernel
/-- TST_LINK_PERIOD 3 of R475: the flit is answered like a damaged one, and counted. -/
theorem test_link_refuses : (linkTaken linkTest 1 1 { seq := 1 }).wire.head? = some (.flitAck 1 0 true 0 0)
    ∧ pgGet (linkTaken linkTest 1 1 { seq := 1 }) .ngl 1 0x090 = 1 := by decide +kernel

/-! #### Weirs and the boundary -/

/-- Array 0 waits at weir 3 with one arrival, at an eddy level of 9; its program holds SYN 3. -/
def atWeir : State := { running with
  arr := [(0, { st := .atWeir, slot := some 0, weir := some 3, eddy := 9, prog := [{ op := 5, i := { count := 3 } }] })]
  seq := { running.seq with arrived := [(3 * 1024, 1)] } }
theorem wit_WeirsCloseAndReleaseTheirArrays : atWeir.seq.prog = some { layers := 2, weirs := 3, runRec := 1, layerRec := 2, scaleRec := 3 }
    ∧ atWeir.seq.dev = .running ∧ atWeir.seq.act = 0 ∧ (3 : BitVec 12) ≠ 0 ∧ (3 : BitVec 12).toNat ≤ 3 ∧ reachD atWeir ≤ 1
    ∧ partsGet atWeir 3 = closedGet atWeir 3
    ∧ partReady atWeir { layers := 2, weirs := 3, runRec := 1, layerRec := 2, scaleRec := 3 } 3 = true ∧ arrGet atWeir 0 ≠ {}
    ∧ partReady running { layers := 2, weirs := 3, runRec := 1, layerRec := 2, scaleRec := 3 } 3 = false
    ∧ partsGet running 3 = closedGet running 3 := by decide +kernel
/-- Array 64 is to be released from weir 0, and array 1 waits for its group. -/
def releasing : State := { running with
  arr := [(1, { st := .idle, slot := some 1, weir := some 0, rel := true }), (64, { st := .atWeir, slot := some 64, weir := some 0, rel := true })] }
theorem wit_WeirsCloseAndReleaseTheirArrays_groups : releasing.seq.dev = .running ∧ 64 % 64 = (0 : Fin 64).val
    ∧ (arrGet releasing 64).rel = true
    ∧ releasing.arr.any (fun f => f.2.rel && f.2.weir == (arrGet releasing 64).weir && decide (f.1 % 64 < 0)) = false := by decide +kernel
/-- A reach of two devices; weir 1 is a reach weir. -/
def twoDevices : State := { running with
  port := [(1, { st := .up })]
  mem := { running.mem with bytes := [(64, 1)] }
  seq := { running.seq with prog := some { layers := 2, weirs := 3, shape := 1, weirOff := 64 } } }
/-- Arrays 0 of tile 0 and 192 of tile 1 wait at weir 0 of a reach, at levels above 0; tile 0 has had its turn. -/
def slope : State := { twoDevices with
  thm := { twoDevices.thm with eddyTile := 0 }
  arr := [(0, { st := .atWeir, slot := some 0, weir := some 0, eddy := 2 }), (192, { st := .atWeir, slot := some 0, weir := some 0, eddy := 1 })] }
theorem wit_WeirsCloseAndReleaseTheirArrays_levels : (arrGet atWeir 0).st = .atWeir ∧ (arrGet atWeir 0).eddy ≠ 0
    ∧ slopeArr atWeir (arrGet atWeir 0) = false ∧ (arrGet running 0).st ≠ .atWeir
    ∧ (arrGet slope 0).st = .atWeir ∧ (arrGet slope 0).eddy ≠ 0 ∧ slopeArr slope (arrGet slope 0) = true
    ∧ (arrGet slope 192).eddy ≠ 0 ∧ slopeArr slope (arrGet slope 192) = true
    ∧ slopeNext slope = some (tileOf 192) ∧ slopeNext slope ≠ some (tileOf 0) := by decide +kernel
/-- Every stream has ended, and no slot, descriptor or fence is left. -/
def boundary : State := { running with seq := { running.seq with streams := List.replicate 5 { ended := true }, stepsLeft := 2 } }
theorem wit_BoundariesCommitOrDiscard : boundary.seq.prog = running.seq.prog ∧ boundary.seq.dev = .running ∧ boundary.seq.act = 0
    ∧ hostQuiet boundary ∧ reachD boundary = 1 ∧ stepDone boundary = true ∧ partsGet boundary 0 = 0 ∧ closedGet boundary 0 = 0
    ∧ ownNoCommit boundary = none ∧ boundary.seq.peerNoCommit = false ∧ (∀ c ∈ boundary.seq.pause, isPause c = true) := by decide +kernel
/-- The same with the records in tensors 1 to 3, page 0 of tensor 5 written, scale record 1 used by the step and record 2 with a
full history, and norm monitor 0 seen. -/
def committing : State := { boundary with
  mem := { boundary.mem with
    tensors := [(1, some { size := 8, cls := 0 }), (2, some { size := 192, cls := 0 }), (3, some { size := 240, cls := 0 }), (5, some { size := 64, cls := 0 })]
    bytes := [(tkey 3 (160 + 0x41), 16)], work := [(tkey 5 0, 7)], written := [(5 * 2 ^ 20, true)] }
  seq := { boundary.seq with scales := [(1, { used := true, amax := 0x3f800000 })], monitors := [(0, { seen := true })] } }
theorem wit_BoundariesCommitOrDiscard_values : stepDone committing = true ∧ ownNoCommit committing = none ∧ hostQuiet committing
    ∧ committing.seq.scaleWrites = [] ∧ committing.seq.peerTrig = [] ∧ committing.cfl.ledgerNew = [] ∧ Memory.wf committing.mem
    ∧ pagesIn committing.mem ∧ 96 * 2 ≤ 2 ^ 40 ∧ aget (fun _ => false) committing.mem.written (5 * 2 ^ 20 + 0) = true
    ∧ (∀ h ∈ [1, 2, 3], ∀ e ∈ committing.mem.written, e.1 / 2 ^ 20 ≠ h) ∧ awf (fun _ => ({} : ScaleRun)) committing.seq.scales
    ∧ recAllocated committing 1 = true ∧ (aget (fun _ => ({} : ScaleRun)) committing.seq.scales 1).used = true
    ∧ recAllocated committing 2 = true ∧ (aget (fun _ => ({} : ScaleRun)) committing.seq.scales 2).used = false ∧ recValid committing 2 = 16
    ∧ (monLast committing 0 0).isSome = true ∧ monLast committing 1 5 = none := by decide +kernel
theorem wit_BoundariesCommitOrDiscard_discard :
    stepDone { boundary with seq := { boundary.seq with touchOrder := true } } = true
    ∧ ownNoCommit { boundary with seq := { boundary.seq with touchOrder := true } } = some stTouchOrder := by decide +kernel
theorem wit_StepsEndByLimitsAndNotices : running.seq.dev = .running ∧ running.seq.act = 0 ∧ hostQuiet running
    ∧ ({ running with seq := { running.seq with ramp := some .pausing } } : State).seq.ramp = some .pausing ∧ running.hst.heads = []
    ∧ running.hst.access = [] ∧ (∀ c ∈ running.seq.pause, isPause c = true)
    ∧ linkGood linkUp 1 1 fromPeer ∧ (linkTaken linkUp 1 1 fromPeer).seq.dev = .running ∧ hostQuiet (linkTaken linkUp 1 1 fromPeer) := by
  decide +kernel
/-- The same with the device paused, and the latest record of S sent. -/
def pausedUp : State := { linkUp with seq := { linkUp.seq with dev := .paused } }
theorem wit_StepsEndByLimitsAndNotices_paused : linkGood pausedUp 1 1 fromPeer ∧ (linkTaken pausedUp 1 1 fromPeer).seq.dev = .paused
    ∧ hostQuiet (linkTaken pausedUp 1 1 fromPeer) := by decide +kernel
/-- The header of a closing record of device 1 for device 0. -/
def fromOne : FlitHdr := { seq := 1, srcDev := 1 }
theorem wit_ClosingRecordsAreKept : linkGood twoDevices 1 (closingFlits 2) fromOne ∧ twoDevices.cfl.ops = []
    ∧ ∀ u, u = linkTaken twoDevices 1 (closingFlits 2) fromOne →
      u.seq.prog = some { layers := 2, weirs := 3, shape := 1, weirOff := 64 }
      ∧ u.seq.dev ≠ .off ∧ fromOne.dest.toNat = myIndex u ∧ fromOne.srcDev.toNat ≠ myIndex u ∧ fromOne.srcDev.toNat < reachD u
      ∧ (1 : BitVec 12).toNat ≤ 3 ∧ aget (fun _ => 0) u.seq.peerClosed 1 = 0
      ∧ weirReach u { layers := 2, weirs := 3, shape := 1, weirOff := 64 } 1 = true ∧ hostQuiet u ∧ partsGet u 0 = 0 := by
  refine ⟨by decide +kernel, rfl, ?_⟩
  rintro _ rfl
  decide +kernel
/-- Device 1 has closed weir 0, and this device stands between the actions of a boundary. -/
def closedOne : State := { twoDevices with seq := { twoDevices.seq with act := 4, peerClosed := [(1, 1)] } }
theorem wit_ClosingRecordsAreKept_later : linkGood closedOne 1 (closingFlits 0) fromOne
    ∧ ∀ u, u = linkTaken closedOne 1 (closingFlits 0) fromOne →
      u.seq.prog = some { layers := 2, weirs := 3, shape := 1, weirOff := 64 } ∧ u.seq.dev ≠ .off ∧ fromOne.dest.toNat = myIndex u
      ∧ fromOne.srcDev.toNat ≠ myIndex u ∧ fromOne.srcDev.toNat < reachD u ∧ aget (fun _ => 0) u.seq.peerClosed 1 ≠ 0
      ∧ (u.seq.dev ≠ .running ∨ u.seq.act ≠ 0) := by
  refine ⟨by decide +kernel, ?_⟩
  rintro _ rfl
  decide +kernel
/-- The same in a step that has not reached its boundary. -/
def closedStep : State := { closedOne with seq := { closedOne.seq with act := 0 } }
theorem wit_ClosingRecordsAreKept_step : linkGood closedStep 1 (closingFlits 0) fromOne
    ∧ ∀ u, u = linkTaken closedStep 1 (closingFlits 0) fromOne →
      u.seq.prog = some { layers := 2, weirs := 3, shape := 1, weirOff := 64 } ∧ fromOne.dest.toNat = myIndex u
      ∧ fromOne.srcDev.toNat ≠ myIndex u ∧ fromOne.srcDev.toNat < reachD u ∧ aget (fun _ => 0) u.seq.peerClosed 1 ≠ 0
      ∧ u.seq.dev = .running ∧ u.seq.act = 0 ∧ hostQuiet u ∧ partsGet u 0 = 0 := by
  refine ⟨by decide +kernel, ?_⟩
  rintro _ rfl
  decide +kernel

/-! #### Ports -/

/-- A port that the reach of the running program uses, after two failed attempts. -/
def portDying : State := { twoDevices with port := [(0, { st := .retrain, attempts := 2 })] }
theorem wit_PortsTrainAndIdentify_failed : portTrains portDying 0 = true ∧ portUsed portDying 0 = true ∧ portDying.seq.dev = .running
    ∧ hostQuiet portDying ∧ 3 ≤ (portGet portDying 0).attempts + 1 := by decide +kernel

/-- Ports in training, after two failed attempts, and in IDENT. -/
def ports : State := { State.reset with port := [(0, { st := .training }), (1, { st := .retrain, attempts := 2 }), (2, { st := .ident }), (3, { st := .up })] }
theorem wit_PortsTrainAndIdentify : portTrains ports 0 = true ∧ portTrains ports 1 = true ∧ portUsed ports 1 = false
    ∧ (portGet ports 3).st = .up ∧ linkGood ports 3 1 fromPeer ∧ ports.cfl.ops = [] ∧ (portGet ports 2).st = .ident
    ∧ ({} : FlitHdr).fecOk = true ∧ ({} : FlitHdr).crcOk = true ∧ linkRefuses ports .ngl 2 (portGet ports 2).tst 1 = false
    ∧ identMismatch ports 2 {} = 0 ∧ identMismatch ports 2 { pop := 1 } ≠ 0 := by
  decide +kernel

/-! #### Power and heat -/

/-- Off after undervoltage, with power-enable asserted; off without power-enable; off with a latched trip. -/
def offUnder : State := { inDev .off with pwr := { peu := .off, under := true } }
def offClean : State := { inDev .off with pwr := { peu := .off, enable := false } }
def offLatched : State := { inDev .off with pwr := { peu := .off, latched := true } }
theorem wit_PowerIsLostAndComesBack : State.reset.pwr.peu ≠ .off
    ∧ (offClean.seq.dev = .off ∧ offClean.pwr.peu = .off ∧ offClean.pwr.enable = false ∧ offClean.pwr.latched = false)
    ∧ (offUnder.pwr.peu = .off ∧ offUnder.pwr.under = true ∧ offUnder.pwr.enable = true)
    ∧ offLatched.pwr.latched = true ∧ State.reset.seq.dev ≠ .off := by decide +kernel
theorem wit_InputAndStageFaults : running.seq.dev ≠ .off ∧ hostQuiet running ∧ (stageGet running 3).fault = false
    ∧ (stageGet running 3).fail.getLsbD 15 = false ∧ 9 ≤ (List.range 16).countP (fun i => !(stageGet running 3).fail.getLsbD i)
    ∧ 8400 ≤ 8400 ∧ 9000 ≤ 9000 ∧ 7200 ≤ 7200 ∧ 7599 < 7600 := by decide +kernel
/-- In READY: array 1 waits for a credit, array 2 is at stage 2, array 3 at stage 3, array 4 at stage 4. -/
def ramps : State := { inDev .ready with pwr := { reg := [(1, { ramp := some 1 }), (2, { ramp := some 2 }), (3, { ramp := some 3 }), (4, { ramp := some 4 })] } }
theorem wit_RegulatorsFailAndDomainsRamp : ramps.seq.dev ≠ .off ∧ ramps.seq.dev ≠ .safe ∧ hostQuiet ramps
    ∧ (reguGet ramps 1).fail.getLsbD 5 = false ∧ (reguGet ramps 1).ctrlFail = false ∧ (arrGet ramps 1).st ≠ .dark
    ∧ (reguGet ramps 1).hosts = none ∧ powered (arrGet ramps 1).st = false ∧ creditOk ramps 1 = true
    ∧ (∀ k, k < 1 % 192 → creditOk ramps (tileOf 1 * 192 + k) = false) ∧ (reguGet ramps 2).ramp = some 2
    ∧ (reguGet ramps 3).ramp = some 3 ∧ (reguGet ramps 4).ramp = some 4 ∧ (arrGet ramps 4).slot = none
    ∧ (reguGet ramps 1).ramp = some 1 := by decide +kernel
theorem wit_ClocksFollowCapAndHeat : running.seq.dev ≠ .off ∧ (3 : Fin 5).val < 4 := by decide
theorem wit_SensorsAreRead : State.reset.seq.dev ≠ .off ∧ 2 / 1000 ≤ State.reset.thm.theta ∧ State.reset.thm.theta ≤ 200 / 1000 := by decide +kernel
/-- The flow reading, then the thermal cap, fall short in RUNNING. -/
def slowFlow : State := pgSet running .thm 0 0x134 39
def lowCap : State := pgSet running .thm 0 0x108 999
/-- SAFE, entered from RUNNING, with every condition of its exit. -/
def safeCool : State := pgSet (pgSet { running with seq := { running.seq with dev := .safe, safeFrom := .running } } .thm 0 0x134 200) .thm 0 0x138 700
theorem wit_SafeIsEnteredAndLeft : hostQuiet slowFlow ∧ slowFlow.thm.faultFlow = false ∧ thmNat slowFlow 0x134 < 40 ∧ slowFlow.seq.dev = .running
    ∧ slowFlow.thm.faultOut = false ∧ hostQuiet lowCap ∧ thmNat lowCap 0x108 < 1000 ∧ lowCap.seq.dev = .running
    ∧ hostQuiet safeCool ∧ safeCool.seq.dev = .safe ∧ safeCool.thm.faultFlow = false ∧ safeCool.thm.faultOut = false
    ∧ 200 ≤ thmNat safeCool 0x134 ∧ thmNat safeCool 0x138 % 2 ^ 16 ≤ 700 := by decide +kernel

/-! #### Memory housekeeping and the log -/

/-- Stack 11 in operation, scrubbing, with a corrected error noted in row 5. -/
def scrubbing : State := pgSet { State.reset with mem := { State.reset.mem with
  hbm := List.replicate 12 { st := .operating, rows := [(rowKey 0 0 5, { ce := 1 })] } } } .hbm 11 8 1
theorem wit_RowsAreScrubbedAndRemapped : (pgGet scrubbing .hbm 11 8).getLsbD 0 = true ∧ (pgGet scrubbing .hbm 11 0x088).getLsbD 0 = false
    ∧ scrubbing.fit.hbmFitted.contains 11 = true
    ∧ (hbmGet scrubbing 11).st = .operating ∧ rowData scrubbing 0 5 = true
    ∧ aget (fun _ => ({} : RowFail)) (hbmGet scrubbing 11).rows (rowKey 0 0 5) = { ce := 1 }
    ∧ 1 + 0 < 2 ∧ ({ ce := 1 } : RowFail).count = 0 ∧ pickSpare scrubbing 11 0 0 1 = some 0 := by decide +kernel
/-- Row 5 holds bytes of page 0 of tensor 7. -/
def owning : State := { scrubbing with mem := { scrubbing.mem with
  tensors := [(7, some { size := 4096, cls := 1, pages := [{ stack := 11, idx := rowPage scrubbing 11 0 0 5 }] })] } }
theorem wit_RowsAreScrubbedAndRemapped_read : rowRead owning 7 (RowErr.mk 11 0 0 5 0 false) = true
    ∧ rowData owning 0 5 = true
    ∧ (pgGet owning .hbm 11 8).getLsbD 0 = true ∧ aget (fun _ => ({} : RowFail)) (hbmGet owning 11).rows (rowKey 0 0 5) = { ce := 1 } := by
  refine ⟨?_, by decide +kernel, by decide +kernel, by decide +kernel⟩
  have h : pageOwner owning 11 (rowPage owning 11 0 0 5) = some (7, 0, false) := by
    have e : rowPage owning 11 0 0 5 = rowPage scrubbing 11 0 0 5 := rfl
    rw [e]
    simp [pageOwner, owning]
  have h1 : owning.fit.hbmFitted.contains 11 = true := by decide +kernel
  have h2 : ((hbmGet owning 11).st == .operating) = true := by decide +kernel
  have h3 : rowData owning 0 5 = true := by decide +kernel
  show (owning.fit.hbmFitted.contains 11 && (hbmGet owning 11).st == .operating && rowData owning 0 5
    && match pageOwner owning 11 (rowPage owning 11 0 0 5) with
    | some (k, _, v) => k == 7 && !v
    | none => false) = true
  rw [h, h1, h2, h3]
  rfl
/-- A migration of page 0 of tensor 5. -/
def migrating : State := { State.reset with mem := { State.reset.mem with
  tensors := [(5, some { size := 4096, cls := 1, pages := [{ stack := 1, idx := 2 }] })], migs := [{ handle := 5, dstStack := 3, dst := 4 }] } }
/-- In READY, with test access to the memory, stack 0 in operation and stack 1 margining. -/
def margin : State := pgSet (pgSet { inDev .ready with mem := { State.reset.mem with
  hbm := [{ st := .operating }, { st := .margining }] } } .sec 0 0x124 0x10) .hbm 0 0x10c 1
theorem wit_PagesSwitchAndMarginsEnd : migrating.mem.migs.find? (fun g => g.handle == 5 && g.page == 0 && g.ver == false)
      = some { handle := 5, dstStack := 3, dst := 4 }
    ∧ tensorOf migrating 5 = some { size := 4096, cls := 1, pages := [{ stack := 1, idx := 2 }] }
    ∧ regReaches margin .hbm 0 0x110 ∧ (1 : Word).getLsbD 0 = true ∧ (pgGet margin .sec 0 0x124).getLsbD 4 = true ∧ margin.seq.dev = .ready
    ∧ (hbmGet margin 0).st = .operating ∧ (pgGet margin .hbm 0 0x10c).toNat % 4 ≠ 0
    ∧ (hbmGet margin 1).st = .margining ∧ (hbmGet margin 0).st ≠ .margining := by decide +kernel
theorem wit_TheLogIsWritten : ({ kind := 15 } : LogEnt).kind = (15 : Byte).toNat ∧ ({ State.reset.log with todo := [{ kind := 15 }] } : Log).todo = { kind := 15 } :: []
    ∧ mpRuns State.reset = true ∧ mailWork State.reset = false ∧ State.reset.log.todo = [] ∧ State.reset.mp.overloaded = false
    ∧ ({ State.reset.log with kept := [{}] } : Log).kept = {} :: [] ∧ State.reset.log.records.length < recordMax := by decide +kernel

/-! #### The management processor -/

/-- The management processor is overloaded with nine windows of low use. -/
def loaded95 : State := { State.reset with mp := { State.reset.mp with overloaded := true, low := 9 } }
theorem wit_TheManagementProcessorKeepsTime_minVer :
    let raising : State := { State.reset with mp := { State.reset.mp with fw := [{ sigOk := true, version := 4, minAfter := 3 }, {}] } }
    raising.mp.minVer < (fwSlot raising raising.mp.slot).minAfter ∧ (fwSlot State.reset State.reset.mp.slot).minAfter ≤ State.reset.mp.minVer := by decide +kernel
theorem wit_TheManagementProcessorKeepsTime : hostQuiet State.reset ∧ State.reset.seq.dev ≠ .off ∧ State.reset.mp.started = true
    ∧ 95 ≤ (95 : BitVec 7).toNat ∧ (pgGet State.reset .mbx 0 0x124).toNat < 64 ∧ (50 : BitVec 7).toNat ≤ 50
    ∧ mailWork State.reset = false ∧ State.reset.log.todo = []
    ∧ hostQuiet loaded95 ∧ loaded95.mp.overloaded = true ∧ 50 < (51 : BitVec 7).toNat ∧ (94 : BitVec 7).toNat < 95 := by decide +kernel
theorem wit_RequestsAreAnswered : ∀ c, c < 8 → mpServes State.reset c := by decide +kernel
/-- An envelope whose checks fail at its magic, and what its acceptance would need: which signatures verify stays open. -/
def badEnvelope (cmd : Byte) : Envelope := { cmd := cmd, sig := List.replicate 4627 0 }
theorem wit_EnvelopesActOnceAndCommitTheirCounter : mpServes State.reset 4 ∧ mpServes State.reset 5 ∧ mpServes State.reset 6 ∧ mpServes State.reset 7
    ∧ (badEnvelope 1).cmd.toNat = 1 ∧ (badEnvelope 1).counter ≤ State.reset.mp.counter := by decide +kernel
theorem wit_EnvelopesActOnceAndCommitTheirCounter_sig (c : Byte) : (badEnvelope c).sig.length = 4627 := List.length_replicate ..
/-- In READY with an enrolled key. -/
def keyed : State := { inDev .ready with mp := { State.reset.mp with opkey := some [1] } }
/-- An envelope of that key for this module, with counter 1. -/
def envelope (cmd : Byte) (p g : List Byte) : Envelope :=
  { magic := 0x43534b48, version := 1, cmd := cmd, moduleId := moduleId keyed, counter := 1,
    opkeyId := BitVec.ofNat 64 (leNat ((sha3_512 [1]).take 8)), payload := p, sig := g }
theorem wit_EnvelopesActOnceAndCommitTheirCounter_payload :
    envPayload 0x01 (List.replicate 2592 0) = [] ∧ envPayload 0x02 [] = [] ∧ envPayload 0x10 (List.replicate 84 0) = []
    ∧ envPayload 0x20 (List.replicate 64 0) = [] ∧ envPayload 0x30 [1, 0, 0, 0] = [] := by decide +kernel
/-- It passes the checks of R410 when its signature verifies and the device has an identity: both are open (assumption 10). -/
theorem wit_EnvelopesActOnceAndCommitTheirCounter_accepted (c : Byte) (cmd : Nat) (p g : List Byte) (hcmd : c.toNat = cmd) (hp : envPayload cmd p = [])
    (hv : Config.mldsaVerify [1] (sha3_512 (envBytes (envelope c p g))) [] g = true) (hm : moduleId keyed ≠ 0) :
    (envCheck keyed cmd (envelope c p g) []).1 = stOK := by
  have hi : envModule keyed (envelope c p g) = stOK := by
    unfold envModule
    rw [if_neg (by decide), if_pos ⟨rfl, hm⟩]
  have ha : envSigned keyed cmd (envelope c p g) = true := by
    have hk : envKey keyed (envelope c p g) = [1] := rfl
    unfold envSigned
    have e5 : (envelope c p g).cmd.toNat = cmd := hcmd
    have e1 : (envelope c p g).magic = 0x43534b48 := rfl
    have e2 : (envelope c p g).version = 1 := rfl
    have e3 : (envelope c p g).opkeyId = BitVec.ofNat 64 (leNat ((sha3_512 [1]).take 8)) := rfl
    have e4 : (envelope c p g).sig = g := rfl
    simp only [hk, e1, e2, e3, e4, e5, hv, beq_self_eq_true, Bool.and_self]
  have hl : envLegal cmd keyed.seq.dev = true := by unfold envLegal; split <;> rfl
  have hc : ¬ (envelope c p g).counter ≤ (bump keyed .sec 0 0xc00 1).mp.counter := by
    show ¬ ((1 : DWord) ≤ 0)
    decide
  have hr : (envelope c p g).rsvd.any (· != 0) = false := by show (List.replicate 30 (0 : Byte)).any (· != 0) = false; decide
  have hl' : envLegal cmd (bump keyed .sec 0 0xc00 1).seq.dev = true := hl
  have hn : ¬ (keyed.mp.opkey.isNone = true ∧ cmd ≠ 1) := by intro h; exact absurd h.1 (by decide)
  have hp' : envPayload cmd (envelope c p g).payload = [] := hp
  unfold envCheck
  rw [if_neg hn, if_neg (by rw [ha]; decide), if_neg (not_not_intro hi)]
  simp only [if_neg hc, hl', hr, hp']
  rfl
theorem wit_EnvelopesActOnceAndCommitTheirCounter_refused : (envCheck State.reset 2 (badEnvelope 2) []).1 ≠ stOK := by decide +kernel

/-! #### The host side -/

/-- The host link is UP, with a synchronized host at ::1 port 7, from whom two frames are unacknowledged by this side. -/
def hostUp : State := { inDev .ready with hst := { link := .up, synced := true, hostIp := 1, hostPort := 7, cache := [(1, 0)] } }
def hostIpSet : State := pgSet hostUp .hst 0 0x110 1
/-- The header of a SYNC from an address. -/
def syncHdr (a : BitVec 128) : HctHdr := { src := a, dst := linkLocal hostUp, port := 7 }
theorem wit_TheHostSynchronizes : hostQuiet hostIpSet ∧ ethFits hostIpSet (syncHdr 1).toEthHdr ∧ headerOk hostIpSet (syncHdr 1) (some 0) = true
    ∧ hostIpSet.hst.hostIp = (syncHdr 1).src ∧ (syncHdr 1).src ≠ 0 ∧ regIp hostIpSet 0x110 ≠ 0 ∧ prioOpen hostIpSet false = true
    ∧ cached hostIpSet (syncHdr 1).src = true ∧ cached hostUp (syncHdr 0x80fe).src = false ∧ (syncHdr 0x80fe).dst = linkLocal hostUp ∧ hostQuiet hostUp ∧ ethFits hostUp (syncHdr 0x80fe).toEthHdr
    ∧ headerOk hostUp (syncHdr 0x80fe) (some 0) = true ∧ regIp hostUp 0x110 = 0 ∧ isLinkLocal (syncHdr 0x80fe).src = true
    ∧ hostIpSet.hst.hostIp ≠ (syncHdr 2).src ∧ isLinkLocal (syncHdr 2).src = false ∧ hostUp.hst.hostIp ≠ (syncHdr 2).src
    ∧ headerOk hostUp { syncHdr 1 with ver := 2 } (some 0) = false ∧ ({ syncHdr 1 with vid := 7 } : HctHdr).vid ≠ (ethTag hostUp false).vid
    ∧ portOpen hostUp = true ∧ ({ syncHdr 1 with fecOk := false } : HctHdr).fecOk = false := by
  decide +kernel
/-- The control priority of the host link is paused. -/
def hostHeld : State := { hostIpSet with hst := { hostIpSet.hst with paused := [(prioOf hostIpSet false).toNat] } }
theorem wit_TheHostSynchronizes_paused : hostQuiet hostHeld ∧ ethFits hostHeld (syncHdr 1).toEthHdr ∧ headerOk hostHeld (syncHdr 1) (some 0) = true
    ∧ hostHeld.hst.hostIp = (syncHdr 1).src ∧ regIp hostHeld 0x110 ≠ 0 ∧ prioOpen hostHeld false = false := by decide +kernel
/-- A frame has left fifteen times, and one with bit 0 of its SEQ set once. -/
def resending : State := { hostUp with hst := { hostUp.hst with host := { hostUp.hst.host with
  unacked := [{ seq := 1, f := .grant 0 0, resends := 15 }, { seq := 2, f := .mailbox 0 [], resends := 15 }, { seq := 3, f := .grant 0 0 }], sinceAck := 2 } } }
theorem wit_ResendsAndGatheredEntriesLeave : portOpen resending = true ∧ hostQuiet resending ∧ resending.hst.synced = true
    ∧ ethFits resending (syncHdr 1).toEthHdr ∧ headerOk resending (syncHdr 1) (some 0) = true
    ∧ acceptedFrom resending (syncHdr 1).src (syncHdr 1).port = some .host
    ∧ (∀ b, resending.hst.paused.contains (prioOf resending b).toNat = false) ∧ prioOpen resending false = true
    ∧ resolved resending .host = true ∧ resending.hst.syncDue = false
    ∧ resending.hst.host.txq = [] ∧ resending.hst.host.unacked.find? (fun u => u.seq == 3) = some { seq := 3, f := .grant 0 0 } ∧ 0 + 1 < 16
    ∧ resending.hst.host.unacked.find? (fun u => u.seq == 2) = some { seq := 2, f := .mailbox 0 [], resends := 15 } ∧ endless (.mailbox 0 []) = true
    ∧ resending.hst.host.unacked.find? (fun u => u.seq == 1) = some { seq := 1, f := .grant 0 0, resends := 15 } ∧ 16 ≤ 15 + 1
    ∧ endless (.grant 0 0) = false ∧ resending.hst.unreachable = false ∧ (peerGet resending .host).sinceAck ≠ 0
    ∧ resending.seq.dev ≠ .off := by decide +kernel
theorem wit_ResendsAndGatheredEntriesLeave_channels : ∀ c, (chanGet resending c).outWait = false := fun _ => rfl
theorem wit_TheHostLinkAndItsNeighbours : State.reset.seq.dev ≠ .off ∧ hostQuiet State.reset ∧ State.reset.hst.link = .training
    ∧ hostUp.seq.dev ≠ .off ∧ hostQuiet hostUp ∧ hostUp.hst.link = .up ∧ ownAddr hostUp (linkLocal hostUp) = true ∧ knownAddr hostUp 1 = true
    ∧ cached hostUp 1 = true ∧ cached hostUp 2 = false ∧ prioOpen hostUp false = true ∧ 2 ∉ hostUp.hst.asked
    ∧ ({ fecOk := false } : EthHdr).fecOk = false ∧ ({ stray := some .arp } : EthHdr).fecOk = true
    ∧ ethFits hostUp {} ∧ ({ vid := 7 } : EthHdr).vid ≠ (ethTag hostUp false).vid ∧ ({ stray := some .arp } : EthHdr).vid = (ethTag hostUp false).vid
    ∧ ({ stray := some .arp } : EthHdr).stray ≠ none ∧ ({ stray := some .arp } : EthHdr).stray ≠ some .pause
    ∧ prioOf hostUp true = (pgGet hostUp .hst 0 0x120 >>> 16).truncate 3 := by decide +kernel
theorem wit_TheHostLinkAndItsNeighbours_held : hostQuiet hostHeld ∧ hostHeld.seq.dev ≠ .off ∧ hostHeld.hst.link = .up ∧ prioOpen hostHeld false = false
    ∧ ethFits hostHeld {} ∧ knownAddr hostHeld 1 = true ∧ cached hostHeld 1 = true ∧ ownAddr hostHeld (linkLocal hostHeld) = true := by decide +kernel
/-- A header of the host's next frame with a payload of `n` bytes. -/
def hostHdr (n : Nat) : HctHdr := { src := 1, dst := linkLocal hostUp, port := 7, seq := 1, len := BitVec.ofNat 32 n }
/-- A frame of the host is taken where everything that can be decided holds. -/
theorem host_takes (h : HctHdr) (f : HctFrame) (hc : ethFits hostUp h.toEthHdr ∧ datagramPeer hostUp h f = some .host
    ∧ h.seq = (peerGet hostUp .host).rxSeq + 1) : hctTakes hostUp h f .host :=
  ⟨hc.1, hc.2.1, hc.2.2, rfl, rfl, rfl, rfl, fun _ => rfl, by decide⟩
theorem wit_FramesOfTheHostAreTaken : hostUp.seq.ramp = none ∧ hostUp.hst.heads = [] ∧ (hostUp.seq.dev = .paused → hostUp.seq.pause = []) ∧ hostUp.hst.access = []
    ∧ hctTakes hostUp (hostHdr 128) (.sqWrite 15 false 255 [1, 2]) .host
    ∧ (∀ j k, j < [1, 2].length → k < (queueGet hostUp 15).tail - (queueGet hostUp 15).head → ((255 : Half).toNat + j) % 256 ≠ ((queueGet hostUp 15).head + k) % 256) :=
  ⟨rfl, rfl, fun _ => rfl, rfl, host_takes _ _ (by decide +kernel), fun _ k _ h => absurd h (Nat.not_lt_zero k)⟩
/-- A WRITE is in progress, in whose wake a command of its queue waits. -/
def granted : State := { hostUp with hst := { hostUp.hst with
  access := [{ cmd := { q := 3, w := 0x70000 }, write := true, entries := [{ h := 5, len := 16384 }] }] } }
/-- A PAUSE waits on queue 3, and a command with FENCE stands in its queue. -/
def pausing : State := { hostUp with
  seq := { hostUp.seq with pause := [{ q := 3 }] }, hst := { hostUp.hst with queues := [(3, { slots := [(0, 0x101)] })] } }
/-- Two commands with RING behind it. -/
theorem wit_FramesOfTheHostAreTaken_ring : hctTakes pausing (hostHdr 128) (.sqWrite 3 true 0 [0x101, 2]) .host
    ∧ (0 : Half).toNat = (queueGet pausing 3).tail % 65536 ∧ (queueGet pausing 3).head = (queueGet pausing 3).tail
    ∧ (queueGet pausing 3).tail - (queueGet pausing 3).head + [0x101, (2 : Cmd)].length ≤ 256
    ∧ startable pausing 3 ([0x101, (2 : Cmd)].getD 0 0) = false :=
  ⟨⟨by decide +kernel, by decide +kernel, by decide, rfl, rfl, rfl, rfl, fun _ => rfl, by decide +kernel⟩, by decide +kernel, rfl, by decide +kernel, by decide +kernel⟩
theorem wit_FramesOfTheHostAreTaken_doorbell : pausing.seq.ramp = none ∧ pausing.hst.heads = [] ∧ pausing.hst.access = []
    ∧ hctTakes pausing (hostHdr 0) (.doorbell 3 256) .host ∧ tailAhead (queueGet pausing 3) 256 = some 256 ∧ 256 ≠ 0
    ∧ startable pausing 3 (frontCmd pausing 3) = false :=
  ⟨rfl, rfl, rfl, ⟨by decide, by decide +kernel, by decide, rfl, rfl, rfl, rfl, fun _ => rfl, by decide⟩, by decide +kernel, by decide, by decide +kernel⟩
theorem datagram_data (bs : List Byte) (h : bs.length = 8192) : datagramPeer granted (hostHdr 8192) (.data 3 7 0 0 bs) = some .host := by
  have hp : framePayload (.data 3 7 0 0 bs) = some 8192 := by simp [framePayload, h]
  have hl : headerOk granted (hostHdr 8192) (some 8192) = true := by decide +kernel
  have ha : acceptedFrom granted (hostHdr 8192).src (hostHdr 8192).port = some .host := by decide
  have hr : frameRsvd (.data 3 7 0 0 bs) = false := by show decide (2 ^ 40 ≤ (0 : BitVec 64).toNat) = false; decide
  unfold datagramPeer
  rw [hp, hl, ha, hr]
  rfl
theorem wit_FramesOfTheHostAreTaken_data : ∃ bs : List Byte, bs.length = min 8192 (16384 - (0 : BitVec 64).toNat) ∧ granted.seq.ramp = none
    ∧ granted.hst.heads = [] ∧ cmdTag 0x70000 = 7 ∧ hctTakes granted (hostHdr 8192) (.data 3 7 0 0 bs) .host
    ∧ granted.hst.access = [{ cmd := { q := 3, w := 0x70000 }, write := true, entries := [{ h := 5, len := 16384 }] }]
    ∧ recKind granted 5 = 0 ∧ (0 : BitVec 64).toNat % 8192 = 0 ∧ (0 : BitVec 64).toNat < 16384 ∧ 0 + 1 < (16384 + 8191) / 8192 :=
  ⟨List.replicate 8192 0, by rw [List.length_replicate]; decide, rfl, rfl, by decide +kernel,
    ⟨by decide, datagram_data _ List.length_replicate, by decide, rfl, rfl, rfl, rfl, fun _ => rfl, by decide⟩, rfl, by decide, by decide, by decide, by decide⟩
/-- The other chunk of the WRITE has come. -/
theorem wit_FramesOfTheHostAreTaken_last : (16384 + 8191) / 8192 ≤ ({ chunks := [1] } : Access).chunks.length + 1
    ∧ (0 : BitVec 64).toNat / 8192 ∉ ({ chunks := [1] } : Access).chunks ∧ granted.cfl.ops = [] ∧ (∀ u, (updGet granted u).waiting = none)
    ∧ granted.mem.lateFree = [] := ⟨by decide, by decide, rfl, fun _ => rfl, rfl⟩
theorem wit_FramesOfTheHostAreTaken_register : hctTakes hostUp (hostHdr 8) (.regReq 4 [(0xa60100, 0)]) .host ∧ hostUp.hst.unreachable = false
    ∧ (0xa60100 : Word).toNat % 4 = 0 ∧ pageOf (0xa60100 : Word).toNat = some (.msc, 0) ∧ Pg.msc ≠ Pg.hst ∧ (0xa60100 : Word).toNat % 0x1000 ≠ 0x0c
    ∧ freeReading hostUp (0xa60100 : Word).toNat = none ∧ hostUp.holdHost = none :=
  ⟨host_takes _ _ (by decide +kernel), by decide +kernel⟩
/-- An INFO request in one message. -/
def infoMsg : List Byte := [1, 3] ++ List.replicate 254 0
theorem wit_FramesOfTheHostAreTaken_mailbox : hctTakes hostUp (hostHdr 256) (.mailbox 0 infoMsg) .host ∧ chanGet hostUp 0 = {}
    ∧ hostUp.mp.started = true ∧ (infoMsg.getD 1 0).toNat = 3 ∧ leNat ((infoMsg.drop 4).take 4) = 0 ∧ leNat ((infoMsg.drop 12).take 4) = 0
    ∧ leNat ((infoMsg.drop 8).take 4) ≤ 240 ∧ ((infoMsg.drop 16).drop (leNat ((infoMsg.drop 8).take 4))).any (· != 0) = false
    ∧ requestCheck 0 (infoMsg.getD 0 0).toNat ((infoMsg.drop 16).take (leNat ((infoMsg.drop 8).take 4))) = [] :=
  ⟨host_takes _ _ (by decide +kernel), by decide +kernel⟩
/-- Channel 0 is in service. -/
def inService : State := { hostUp with mp := { hostUp.mp with chans := [(0, { inb := 2 })] } }
theorem wit_FramesOfTheHostAreTaken_occupied : hctTakes inService (hostHdr 256) (.mailbox 0 infoMsg) .host ∧ (chanGet inService 0).inb = 2
    ∧ inService.seq.ramp = none ∧ inService.hst.heads = [] ∧ inService.hst.access = [] := by
  refine ⟨⟨by decide, by decide +kernel, by decide, rfl, rfl, rfl, rfl, fun c => ?_, by decide⟩, by decide, rfl, rfl, rfl⟩
  show (aget (fun _ => ({} : Chan)) [(0, ({ inb := 2 } : Chan))] c).outWait = false
  simp only [aget]; split <;> rfl
/-- The test of the link refuses every datagram. -/
def hostTest : State := pgSet (pgSet hostUp .hst 0 0x080 2) .hst 0 0x088 1
theorem wit_FramesOfTheHostAreTaken_refused : linkRefuses hostTest .hst 0 hostTest.hst.tst 1 = true ∧ prioOpen hostTest false = true
    ∧ hostTest.hst.syncDue = false ∧ resolved hostTest .host = true ∧ ethFits hostTest (hostHdr 0).toEthHdr
    ∧ datagramPeer hostTest (hostHdr 0) (.doorbell 3 256) = some .host ∧ hostTest.seq.ramp = none ∧ hostTest.hst.heads = [] := by decide +kernel
/-- The program of a basin of two positions; a REDUCE of RID 4 of `n` blocks is in progress, and before it one whose only
operand fills staging, if `full` holds. -/
def basinUp (n : Nat) (full : Bool) : State := { hostUp with
  seq := { running.seq with dev := .running }
  cfl := { hostUp.cfl with ops := (if full then [{ op := 2, idx := 9, d := { count := 0x40000 }, tree := { taken := [0] } }] else [])
    ++ [{ op := 1, d := { rid := 4, count := BitVec.ofNat 32 n } }] }
  hst := { hostUp.hst with basin := some { self := 0, addrs := [8, 9], ridx := [0, 3], rids := [4] } } }
def basinHdr : HctHdr := { src := 9, dst := linkLocal hostUp, port := 0, seq := 1, len := 128 }
def basinOp (n : Nat) : CflOp := { op := 1, d := { rid := 4, count := BitVec.ofNat 32 n } }
def basinX : BasinPart := BasinPart.mk 1 4 0 0 (List.replicate 128 0) false
/-- The state with the frame among the parts. -/
def basinV (n : Nat) (full : Bool) : State := { basinUp n full with cfl := { (basinUp n full).cfl with basinIn := (basinUp n full).cfl.basinIn ++ [basinX] } }
theorem wit_BasinFramesJoinTheirReduce : ∀ x ∈ [(1, false), (2, false), (2, true)], hostQuiet (basinUp x.1 x.2) ∧ ethFits (basinUp x.1 x.2) {}
    ∧ datagramPeer (basinUp x.1 x.2) basinHdr (.basin { pos := 1, reachIndex := 3, rid := 4 } (List.replicate 128 0)) = some (.basin 1)
    ∧ (1 : Word) = (peerGet (basinUp x.1 x.2) (.basin 1)).rxSeq + 1 ∧ peerGet (basinUp x.1 x.2) (.basin 1) = {}
    ∧ (basinUp x.1 x.2).hst.basin = some { self := 0, addrs := [8, 9], ridx := [0, 3], rids := [4] } ∧ (basinUp x.1 x.2).seq.prog = running.seq.prog
    ∧ (3 : Byte).toNat = [0, 3].getD 1 0 ∧ (0 : Word) = (stepS (basinUp x.1 x.2)).truncate 32
    ∧ (basinUp x.1 x.2).cfl.ops.find? (fun o => o.op == 1 && o.d.rid == 4 && o.sLow == 0) = some (basinOp x.1)
    ∧ (2 : Byte).toNat ≠ [0, 3].getD 1 0 := by
  decide +kernel
/-- Half of a result, with room and without; and a whole one. -/
theorem wit_BasinFramesJoinTheirReduce_parts :
    (∀ b, basinPart (basinV 2 b) (basinOp 2) 1 (myBlocks (basinV 2 b) (basinOp 2)) = none)
    ∧ stagedBytes (basinV 2 false) ≤ stagingSize ∧ stagingSize < stagedBytes (basinV 2 true)
    ∧ treeSpill (basinOp 2).basin (reachCount (basinV 2 true)) (reachHere (basinV 2 true) (basinOp 2)) = none
    ∧ basinX ∉ (basinUp 2 true).cfl.basinIn
    ∧ basinPart (basinV 1 false) (basinOp 1) 1 (myBlocks (basinV 1 false) (basinOp 1)) ≠ none ∧ (0 : Half).toNat = myIndex (basinUp 1 false)
    ∧ (basinOp 1).basin.taken.contains 1 = false ∧ (basinOp 1).basin.spilled = []
    ∧ stagedBytes (opPut (basinV 1 false) { basinOp 1 with basin := { (basinOp 1).basin with taken := (basinOp 1).basin.taken ++ [1] } }) ≤ stagingSize := by
  decide +kernel
theorem wit_BasinFramesJoinTheirReduce_channels : (∀ c, (chanGet (basinUp 1 false) c).outWait = false)
    ∧ linkRefuses (basinUp 1 false) .hst 0 (basinUp 1 false).hst.tst 1 = false := ⟨fun _ => rfl, by decide +kernel⟩

/-! #### Registers and resets -/

theorem wit_RegistersAreWritten : (BitVec.ofNat 32 (pageBase .thm 0 + 0x100)).toNat = pageBase .thm 0 + 0x100 ∧ regReaches running .thm 0 0x100
    ∧ regAcc .thm 0x100 = .rw ∧ regRule running .thm 0x100 1000 = stOK ∧ regRule running .thm 0x100 999 ≠ stOK
    ∧ regReaches running .thm 0 0x12c ∧ regAcc .thm 0x12c = .ro ∧ regReaches running .seqR 0 0x10 ∧ regAcc .seqR 0x10 = .w1s
    ∧ regReaches running .seqR 0 0x18 ∧ Pg.seqR.intMask ≠ 0 := by decide +kernel
theorem wit_RegistersAreWritten_rest :
    regReaches (pgSet running .hst 0 0x12c 1) .hst 0 0x188 ∧ (1 : Word).getLsbD 0 = true ∧ pgGet (pgSet running .hst 0 0x12c 1) .hst 0 0x12c ≠ 0
    ∧ regReaches State.reset .ngl 5 (0x100 + 4 * 2) ∧ State.reset.seq.dev ≠ .running ∧ regReaches running .ngl 5 (0x100 + 4 * 2) := by decide +kernel
/-- Port 1 in FAILED, and the host link down. -/
def portsOff : State := { State.reset with port := [(1, { st := .failed })], hst := {} }
theorem wit_CountersLatchAndPortsTurn : (BitVec.ofNat 32 (pageBase .upd 11)).toNat = pageBase .upd 11 ∧ regReaches State.reset .upd 11 0x20
    ∧ (1 : Word).getLsbD 0 = true ∧ State.reset.seq.dev ≠ .running ∧ regReaches running .upd 11 0x20 := by decide +kernel
theorem wit_CountersLatchAndPortsTurn_peer :
    (BitVec.ofNat 32 (pageBase .ngl 5)).toNat = pageBase .ngl 5 ∧ regReaches portsOff .ngl 5 8 ∧ (portGet portsOff 5).st = .down
    ∧ (0 : Word).getLsbD 0 = false ∧ regReaches portsOff .ngl 1 0x120 ∧ (portGet portsOff 1).st = .failed := by decide +kernel
theorem wit_CountersLatchAndPortsTurn_host : (BitVec.ofNat 32 (pageBase .hst 0)).toNat = pageBase .hst 0 ∧ regReaches portsOff .hst 0 8
    ∧ portsOff.hst.link = .down := by decide +kernel
theorem wit_ResetsKeepWhatTheTableKeeps : hostQuiet (inDev .ready) ∧ (inDev .ready).seq.dev ≠ .off ∧ (0x7e510000 : Word).toNat / 2 ^ 16 = 0x7e51
    ∧ (inDev .ready).seq.dev = .ready ∧ hostQuiet running ∧ running.seq.dev = .running ∧ State.reset.seq.dev = .standby
    ∧ (0x7e520000 : Word).toNat / 2 ^ 16 ≠ 0x7e51 := by decide +kernel
theorem wit_TheDriverCapWaitsForActionSix : (BitVec.ofNat 32 (pageBase .thm 0 + 0x100)).toNat = pageBase .thm 0 + 0x100
    ∧ regReaches running .thm 0 0x100 ∧ (999 : Word).toNat < 1000 ∧ 4000 < (4001 : Word).toNat ∧ (4001 : Word).toNat < 4096
    ∧ 1000 ≤ (1000 : Word).toNat ∧ (4000 : Word).toNat ≤ 4000 := by decide +kernel
theorem wit_TheBlockScaleIsTheNearestCode : f32V 0x3f800000 = .fin false 0x800000 (-23) ∧ 0x800000 ≠ 0 ∧ f32V 0x7f800000 = .inf false
    ∧ f32V 0x00800000 = .fin false 0x800000 (-149) ∧ ((0x800000 : Nat) : Rat) * (2 : Rat) ^ (-149 : Int) < 1 / 2 ^ 15
    ∧ f32V 0x7f000000 = .fin false 0x800000 104 ∧ 114688 < ((0x800000 : Nat) : Rat) * (2 : Rat) ^ (104 : Int) := by decide +kernel

/-! #### Host commands -/

/-- In LOADED, PAUSED and so on with a program of one device and no host. -/
theorem wit_StateCommandsMoveTheDevice : cmdMayRun State.reset 0 (withOp 0x01 0) ∧ cmdMayRun (inDev .ready) 15 (withOp 0x02 0)
    ∧ cmdMayRun (withProgIn .loaded) 0 (withOp 0x04 0) ∧ cmdMayRun running 0 (withOp 0x06 0) ∧ cmdMayRun running 0 (withOp 0x08 0) := by decide +kernel
/-- WAKE waits for the training of the stacks. -/
def training : State := { State.reset with seq := { State.reset.seq with ramp := some (.wakeTrain { q := 0, w := 1 }) } }
theorem wit_StateCommandsMoveTheDevice_training : training.seq.ramp = some (.wakeTrain { q := 0, w := 1 }) ∧ training.hst.heads = []
    ∧ training.hst.access = [] ∧ (∀ k ∈ ([] : List (Fin 12)), training.fit.hbmFitted.contains k.val = false) ∧ training.fit.idSigOk = true
    ∧ (∃ k ∈ [(5 : Fin 12)], training.fit.hbmFitted.contains k.val = true) ∧ (∀ k ∈ training.fit.hbmFitted, k ∈ liveStacks training)
    ∧ 5 ∈ liveStacks training := by decide +kernel
/-- The same with the vertical stage of tile 1 in fault. -/
def trainingFault : State := { training with pwr := { training.pwr with stage := [(1, { fault := true })] } }
theorem wit_StateCommandsMoveTheDevice_stage : trainingFault.seq.ramp = some (.wakeTrain { q := 0, w := 1 }) ∧ trainingFault.hst.heads = []
    ∧ trainingFault.hst.access = [] ∧ (∃ k ∈ trainingFault.fit.hbmFitted, k ∉ liveStacks trainingFault) := by decide +kernel
theorem wit_CommandsStartFromTheirQueue : cmdMayRun State.reset 0 (withOp 0x01 0) ∧ cmdStarts State.reset 0 (withOp 0x02 0)
    ∧ cmdStatus (cmdAt State.reset 0 (withOp 0x02 0)) (withOp 0x02 0) = stState ∧ stState ≠ stOK ∧ stState ≠ stNeighbour
    ∧ (inDev .off).seq.dev = .off := by decide +kernel
/-- The same in LOADED and PAUSED, the second with a ramp in progress; and a step kept by a halt. -/
def pausedRamp : State := { withProgIn .paused with pwr := { reg := [(1, { ramp := some 1 })] } }
def keptStep : State := { withProgIn .halted with seq := { (withProgIn .halted).seq with halt := some .kept } }
/-- STEPS of two. -/
def steps2 : Cmd := 0x20000000000000000
theorem wit_StartAndResumeOpenAStep_zero : cmdMayRun (withProgIn .loaded) 0 (withOp 0x05 0) ∧ cmdSteps (withOp 0x05 0) = 0
    ∧ cmdMayRun keptStep 0 (withOp 0x07 steps2) ∧ cmdSteps (withOp 0x07 steps2) ≠ 0 ∧ keptStep.seq.dev = .halted
    ∧ keptStep.seq.halt = some .kept ∧ keptStep.seq.prog = running.seq.prog := by decide +kernel
theorem foldl_same {σ : Type} (f : σ → Nat → σ) (s : σ) (l : List Nat) (h : ∀ a ∈ l, f s a = s) : l.foldl f s = s := by
  induction l with
  | nil => rfl
  | cons a r ih => rw [List.foldl_cons, h a (by simp), ih (fun b hb => h b (by simp [hb]))]
theorem openTies_same (s : State) (h : ∀ a ∈ List.range 768, (reguGet s a).tiedTo = none) : openTies s = s := by
  unfold openTies
  apply foldl_same
  intro a ha
  rw [h a ha]
theorem mapDark_same (s : State) (l : List Nat) (h : ∀ a ∈ l, (arrGet s a).st = .off) : mapDarkFrom s true l = (s, true) := by
  induction l with
  | nil => rfl
  | cons a r ih =>
    unfold mapDarkFrom
    simp only [h a (by simp)]
    exact ih (fun b hb => h b (by simp [hb]))
theorem readmit_same (s : State) (h : ∀ a ∈ List.range 768, (arrGet s a).st = .off) : (List.range 768).foldl readmit s = s := by
  apply foldl_same
  intro a ha
  unfold readmit
  rw [if_neg]
  rw [h a ha]
  simp
theorem mapExcl_same (s : State) (h : ∀ a ∈ List.range 768, (arrGet s a).st = .off) (h2 : ∀ a ∈ List.range 768, exclPending s a = false) :
    mapExcl s = s := by
  unfold mapExcl
  rw [readmit_same s h]
  apply foldl_same
  intro a ha
  rw [h2 a ha]
  rfl
theorem all_of {α : Type} {p : α → Bool} {l : List α} (h : l.all p = true) : ∀ a ∈ l, p a = true := by
  induction l with
  | nil => intro a ha; cases ha
  | cons b r ih =>
    intro a ha
    rw [List.all_cons, Bool.and_eq_true] at h
    cases ha with
    | head => exact h.1
    | tail _ hb => exact ih h.2 a hb
theorem powerSlots_same (s : State) (h : ∀ a ∈ List.range 768, (arrGet s a).slot = none) : powerSlots s = s := by
  unfold powerSlots
  apply foldl_same
  intro a ha
  rw [h a ha]
  rfl
theorem action7_of (s : State) (h1 : openTies s = s) (h2 : mapDark s = (s, true)) (h3 : mapExcl s = s) (h4 : powerSlots s = s) :
    action7 s = (s, true) := by
  have hd : darkFits s = true := by unfold darkFits; rw [h2]
  have e : (mapDark s).1 = s := congrArg Prod.fst h2
  have h : action7 s = (fun s => if darkFits s = true then (powerSlots (mapExcl (mapDark s).1), true) else (s, false)) (openTies s) := rfl
  rw [h, h1]
  show (if darkFits s = true then (powerSlots (mapExcl (mapDark s).1), true) else (s, false)) = (s, true)
  rw [if_pos hd, e, h3, h4]
/-- Action 7 changes nothing where no array is tied, dark or excluded, holds a slot or is to be excluded. -/
theorem action7_same (s : State) (h : (List.range 768).all (fun a => ((reguGet s a).tiedTo == none && (arrGet s a).st == .off)
    && (!exclPending s a && (arrGet s a).slot == none)) = true) : action7 s = (s, true) := by
  have hh := all_of h
  simp only [Bool.and_eq_true, beq_iff_eq, Bool.not_eq_true'] at hh
  exact action7_of s (openTies_same s (fun a ha => (hh a ha).1.1)) (mapDark_same s _ (fun a ha => (hh a ha).1.2))
    (mapExcl_same s (fun a ha => (hh a ha).1.2) (fun a ha => (hh a ha).2.1)) (powerSlots_same s (fun a ha => (hh a ha).2.2))
theorem wit_StartAndResumeOpenAStep_start : cmdMayRun (withProgIn .loaded) 0 (withOp 0x05 steps2) ∧ cmdSteps (withOp 0x05 steps2) ≠ 0
    ∧ (withProgIn .loaded).seq.reserveOwed = false ∧ (withProgIn .loaded).seq.dev ≠ .halted
    ∧ (actions57 (openTake { q := 0, w := withOp 0x05 steps2 } (latchNow (cmdAt (withProgIn .loaded) 0 (withOp 0x05 steps2))))).2 = true
    ∧ ramping (actions57 (openTake { q := 0, w := withOp 0x05 steps2 } (latchNow (cmdAt (withProgIn .loaded) 0 (withOp 0x05 steps2))))).1 = false := by
  refine ⟨by decide +kernel, by decide +kernel, by decide, by decide, ?_⟩
  unfold actions57
  rw [action7_same _ (by decide +kernel)]
  decide +kernel
theorem wit_StartAndResumeOpenAStep_ramps : cmdMayRun pausedRamp 0 (withOp 0x07 steps2) ∧ pausedRamp.seq.dev ≠ .halted
    ∧ (actions57 (openTake { q := 0, w := withOp 0x07 steps2 } (latchNow (cmdAt pausedRamp 0 (withOp 0x07 steps2))))).2 = true
    ∧ ramping (actions57 (openTake { q := 0, w := withOp 0x07 steps2 } (latchNow (cmdAt pausedRamp 0 (withOp 0x07 steps2))))).1 = true := by
  refine ⟨by decide +kernel, by decide, ?_⟩
  unfold actions57
  rw [action7_same _ (by decide +kernel)]
  decide +kernel
/-- A CACHE tensor of 4096 bytes, and in READY a SPILL tensor with a configuration image and an overlay image of no entry. -/
def tensors : State := { inDev .ready with
  mem := { State.reset.mem with
    tensors := [(5, some { size := 4096, cls := 0, pages := [{}] }), (6, some { size := 4096, cls := 4, pages := [{ idx := 2 }] })]
    bytes := [0x48, 0x4b, 0x43, 0x47, 1].mapIdx (fun i b => (tkey 6 i, b)) ++ [0x48, 0x4b, 0x4f, 0x56, 1].mapIdx (fun i b => (tkey 6 (64 + i), b)) }
  seq := { (inDev .ready).seq with overlays := [(3, some {})] }, hst := { hostUp.hst with synced := true } }
def tensorsAway : State := { tensors with hst := { tensors.hst with unreachable := true } }
/-- ALLOC of 4096 bytes of class WEIGHT, FREE, and one extent of 8192 and 16 bytes of tensor 5. -/
def allocW : Cmd := BitVec.ofNat 512 (4096 * 2 ^ 64 + 1 * 2 ^ 128 + 0x80 * 2 ^ 136)
def freeW : Cmd := BitVec.ofNat 512 (5 * 2 ^ 32)
def extentW (n : Nat) : Cmd := BitVec.ofNat 512 (5 * 2 ^ 32 + n * 2 ^ 128)
theorem wit_TensorsAreAllocatedAndFreed : cmdMayRun (inDev .ready) 0 (withOp 0x10 allocW) ∧ cmdMayRun tensors 0 (withOp 0x11 freeW)
    ∧ cmdNat (withOp 0x11 freeW) 4 4 % 2 ^ 24 = 5 := by decide +kernel
theorem wit_ReadsAndWritesBegin : cmdNat (withOp 0x12 (extentW 16)) 4 4 = 5 ∧ cmdNat (withOp 0x12 (extentW 16)) 16 8 = 16
    ∧ cmdMayRun tensors 0 (withOp 0x12 (extentW 16)) ∧ cmdNat (withOp 0x12 (extentW 16)) 24 4 = 0 ∧ hostAway tensors = false
    ∧ onFault tensors 5 0 16 = false ∧ (hostFrames tensors).length + (16 + 8191) / 8192 ≤ 256 ∧ isState tensors 5 = true
    ∧ cmdMayRun tensors 0 (withOp 0x13 (extentW 4096)) ∧ cmdNat (withOp 0x13 (extentW 4096)) 16 8 = 4096 := by decide +kernel
/-- 16 bytes of tensor 6, of class SPILL, lie within a line; the slice holds the line, dirty, or not. -/
def extentX : Cmd := BitVec.ofNat 512 (6 * 2 ^ 32 + 16 * 2 ^ 128)
def lineHeld : State := { tensors with msc := [(0, { sets := [(lineSet tensors.fit (lineNo 0 2 0), [(lineNo 0 2 0, true)])] })] }
theorem wit_ReadsAndWritesBegin_line : ∀ s ∈ [tensors, lineHeld], cmdMayRun s 0 (withOp 0x12 extentX) ∧ hostAway s = false
    ∧ cmdNat (withOp 0x12 extentX) 24 4 = 0 ∧ cmdNat (withOp 0x12 extentX) 4 4 = 6 ∧ cmdNat (withOp 0x12 extentX) 8 8 = 0
    ∧ cmdNat (withOp 0x12 extentX) 16 8 = 16 ∧ onFault s 6 0 16 = false
    ∧ tensorOf s 6 = some { size := 4096, cls := 4, pages := [{ idx := 2 }] } ∧ (4 : Nat) ≠ 0 ∧ 0 / lineBytes = (0 + 16 - 1) / lineBytes := by decide +kernel
theorem wit_ReadsAndWritesBegin_sets : ∀ no, no = lineNo 0 2 0 →
    (aget (fun _ => []) (sliceGet lineHeld 0).sets (lineSet lineHeld.fit no)).find? (fun e => e.1 == no) = some (no, true)
    ∧ (aget (fun _ => []) (sliceGet tensors 0).sets (lineSet tensors.fit no)).find? (fun e => e.1 == no) = none := by
  rintro _ rfl
  decide +kernel
theorem wit_ReadsAndWritesBegin_away : cmdMayRun tensorsAway 0 (withOp 0x12 (extentW 16)) ∧ cmdMayRun tensorsAway 0 (withOp 0x13 (extentW 16))
    ∧ hostAway tensorsAway = true ∧ cmdNat (withOp 0x13 (extentW 16)) 16 8 ≠ 0 := by decide +kernel
/-- CONFIG with STORE, the three actions of OVERLAY on slot 3, EVENT of counter 31 and LEDGER. -/
def configW : Cmd := BitVec.ofNat 512 (6 * 2 ^ 32 + 64 * 2 ^ 128 + 2 ^ 160)
def overlayLoadW : Cmd := BitVec.ofNat 512 (7 * 2 ^ 40 + 6 * 2 ^ 64 + 64 * 2 ^ 96 + 64 * 2 ^ 160)
def overlayW : Cmd := BitVec.ofNat 512 (3 * 2 ^ 40)
def eventW : Cmd := BitVec.ofNat 512 (31 * 2 ^ 32 + 9 * 2 ^ 128)
theorem wit_ProgramsAndConfigurationsAreTaken : cmdMayRun tensors 0 (withOp 0x18 configW) ∧ cmdNat (withOp 0x18 configW) 16 4 ≠ 0
    ∧ cmdMayRun (withProgIn .loaded) 0 (withOp 0x14 eventW) ∧ cmdMayRun (withProgIn .loaded) 0 (withOp 0x15 0) := by decide +kernel
theorem wit_ProgramsAndConfigurationsAreTaken_overlays :
    cmdMayRun tensors 0 (withAction 0 overlayLoadW) ∧ cmdNat (withAction 0 overlayLoadW) 20 4 ≠ 0
    ∧ cmdMayRun tensors 0 (withAction 1 overlayW) ∧ cmdMayRun tensors 0 (withAction 2 overlayW) := by decide +kernel
theorem wit_StartAndResumeOpenAStep_stages : (withProgIn .loaded).pwr.stage.any (fun e => e.2.fault) = false
    ∧ pausedRamp.pwr.stage.any (fun e => e.2.fault) = false := by decide +kernel

/-! ### Worked examples of the manual -/

/-- Table 3.4: the patterns of 3.0, −2.5 and 0.0625 in F8A, F8G and B16 are one value each. -/
theorem test_elementPatterns :
    [0x44, 0xc2, 0x18].map (fun c => (fF8A.dec c).toF32) = [0x40400000, 0xc0200000, 0x3d800000]
    ∧ [0x42, 0xc1, 0x2c].map (fun c => (fF8G.dec c).toF32) = [0x40400000, 0xc0200000, 0x3d800000]
    ∧ [0x4040, 0xc020, 0x3d80].map (fun c => (fB16.dec c).toF32) = [0x40400000, 0xc0200000, 0x3d800000] := by decide +kernel
/-- R74: 0x78 is 1.0, 0x81 is 2.25, 0xfe is 114688. -/
theorem test_s8 : [0x78, 0x81, 0xfe].map (fun c => (s8V c).toF32) = [0x3f800000, 0x40100000, 0x47e00000] := by decide +kernel
/-- Table 3.9: 1000, 0.7, −3, 2.390625, 0.00001, NaN and +∞ as F8A.S. -/
theorem test_convertF8AS :
    cnvBlock .f8as ([0x447a0000, 0x3f333333, 0xc0400000, 0x40190000, 0x3727c5ac, 0x7fc00000, 0x7f800000].map f32V ++ List.replicate 25 (f32V 0)) (fun _ => none)
      = { scale := 0x81, codes := [0x7e, 0x2a, 0xbb, 0x38, 0x00, 0x7f, 0x7f] ++ List.replicate 25 0, cnt := { nan := 1 } } := by decide +kernel
/-- R126: a block of the forward copy with a NaN is written invalid, all codes 0x00. -/
theorem test_projF8_nan : projF8Block (0x7fc00000 :: List.replicate 31 0x3f800000)
    = { scale := 0xff, codes := List.replicate 32 0 } := by decide +kernel

/-- The stochastic rounding of element 3 of Table 3.9: to 0x39 below 32768, to 0x38 from there on. -/
theorem test_convertGrad : (cnvElem .f8as (f32V 0x40190000) (s8M 0x81) (s8E 0x81) (some 32767)).1 = 0x39
    ∧ (cnvElem .f8as (f32V 0x40190000) (s8M 0x81) (s8E 0x81) (some 32768)).1 = 0x38 := by decide +kernel
/-- Table 11.10: block 12 coded to F4. -/
theorem test_convertF4 : cnvBlock .f4 ([0x3f680000, 0xbec00000, 0x3d900000].map f32V ++ List.replicate 29 (f32V 0)) (fun _ => none)
    = { scale := 0x62, codes := [0x7, 0xc, 0x1] ++ List.replicate 29 0, cnt := {} } := by decide +kernel
/-- Chapter 4: contrib of coordinates (2, 1, 3) with reach index 5, and 0 with SID bit 15. -/
theorem test_contrib : contribOf 0x0213 5 2 1 3 = 0x0176 ∧ contribOf 0x8213 5 2 1 3 = 0 := by decide
/-- Table 4.2, steps 1, 8 and 9: targets 1 − 2^-12, 1 − 2^-9 and 1 − 9 × 2^-12. -/
theorem test_masterSplit : masterSplit 0x3f7ff000 = (0x3f80, 0xf8, 0) ∧ masterSplit 0x3f7f8000 = (0x3f80, 0xc0, 0)
    ∧ masterSplit 0x3f7f7000 = (0x3f7f, 0x70, 0) ∧ masterValue 0x3f7f 0x70 = 0x3f7f7000 := by decide +kernel
/-- Chapter 10: powt of 0.875 and 0.984375 at t = 1 and 2, and the element of step 100. -/
theorem test_update : powt 0x3f600000 1 = 0x3f600000 ∧ powt 0x3f600000 2 = 0x3f440000 ∧ powt 0x3f7c0000 2 = 0x3f781000 := by decide +kernel
theorem test_updateElement :
    updElem { r := { beta1 := 0x3f600000, beta2 := 0x3f7c0000, eps := 0x322bcc77, mform := 1 }, lr := 0x3a800000 }
        (biasOf { beta1 := 0x3f600000, beta2 := 0x3f7c0000 } 1) 0x3e800000 0x3f000000 0 0
      = { w := 0x3f00, c := 0xc0, sat := 0, m1 := 0x3d000000, m2 := 0x3a800000, m := 0x3eff8000, delta := 0xba800000 } := by decide +kernel
/-- Chapter 2: column 0 of a T2 plane, block 0 with 20 codes of +1 and 8 of −1, block 1 with 16 + 2 and 12 + 1 and an entry of −2.5 at k = 35,
block 2 with ten each; scales 0x68, 0x70 and 0x78. -/
def columnCodes : List Nat :=
  List.replicate 20 2 ++ List.replicate 8 0 ++ List.replicate 4 1
  ++ [2, 2, 0, 1] ++ List.replicate 16 2 ++ List.replicate 12 0
  ++ List.replicate 10 2 ++ List.replicate 10 0 ++ List.replicate 12 1
def columnPlane : PlaneView :=
  { fmt := .t2, pos := 0, lo := 0, entries := [0x0023c020], nan := false
    r := { cells := columnCodes.mapIdx (fun k c => (k * 96, BitVec.ofNat 512 c)), scales := [(0, 0x68), (1, 0x70), (2, 0x78)] } }
def columnRow : SRow :=
  { el := (List.replicate 32 0x30 ++ List.replicate 4 0x44 ++ List.replicate 28 0x18 ++ List.replicate 32 0x3a).map fF8A.dec, sx := [0x78, 0x78, 0x78] }
theorem test_ternaryTile : (passElem columnPlane false columnRow true false 0 0).1 = 0xc08c0000 := by decide +kernel
/-- Chapter 17: BLK_ID of array 473, of engine 5 of tile 2, and of stack 7 where it is fitted and where it is not. -/
theorem test_blkId : readNow State.reset (pageBase .arr 473) = 0x00011d91 ∧ readNow State.reset (pageBase .dma 53) = 0x00040351
    ∧ readNow State.reset 0x00a77000 = 0x00060071
    ∧ readNow { State.reset with fit := { hbmFitted := [0] } } 0x00a77000 = 0 := by decide +kernel

/-! ### Values from the standards that the manual names (assumption 22) -/

/-- FIPS 202: SHA3-512 of the empty message begins a69f73cc. -/
theorem test_sha3 : (sha3_512 []).take 4 = [0xa6, 0x9f, 0x73, 0xcc] := by decide +kernel
/-- IEEE 802.3: the CRC-32 of the ASCII digits 1 to 9 is cbf43926. -/
theorem test_crc32 : crc32 [0x31, 0x32, 0x33, 0x34, 0x35, 0x36, 0x37, 0x38, 0x39] = 0xcbf43926 := by decide +kernel

/-! ### Single steps -/

/-- What holds of the next state. -/
def after (o : Host.Outcome State Fault Refusal) (p : State → Bool) : Bool := match o with
  | .next t => p t
  | _ => false

/-- R55: LOOP with COUNT 0 goes to TARGET; NEXT at 1 falls through, at 2 goes back. -/
theorem test_loop : after (exec (.loop 0 { target := 9 }) (arrWith 6 { target := 9 })) (fun t => (arrGet t 0).pc == 9) = true
    ∧ after (exec (.loop 0 { count := 4, lctr := 3, target := 9 }) (arrWith 6 { count := 4, lctr := 3, target := 9 }))
      (fun t => (arrGet t 0).pc == 1 && (arrGet t 0).lctr == [0, 0, 0, 4]) = true := by
  decide +kernel
/-- R243: ARRIVE 3 of the root stream; POST of event counter 63. -/
theorem test_streams : after (exec (.arrive 0 { a := 3 }) (streamS 5 3 0)) (fun t => arrivals t 3 736 == 1 && (streamGet t 0).spc == 1) = true
    ∧ after (exec (.post 4 { a := 63, b := 5 }) (streamS 6 63 5)) (fun t => eventGet t 63 == 5 && (streamGet t 4).spc == 1) = true := by decide +kernel
/-- R191: SWAP_32 exchanges the words, and ADD_S32 wraps. -/
def twoWords (op : Nat) (b : List (Nat × Byte)) : State :=
  { dmaS op (atom 4) with arr := [(0, { st := .running, slot := some 0, ls := [(0, 1)] }), (1, { st := .running, slot := some 1, ls := b })] }
theorem test_swap : after (exec (.dmaSwap32 0 0 (atom 4)) (twoWords 4 [(0, 2)]))
    (fun t => (arrGet t 0).ls == [(0, 2)] && (arrGet t 1).ls == [(0, 1)]) = true := by decide +kernel
theorem test_addWraps : after (exec (.dmaAddS32 0 0 (atom 4)) (twoWords 3 [(0, 255), (1, 255), (2, 255), (3, 255)]))
    (fun t => (arrGet t 1).ls == []) = true := by decide +kernel
/-- Chapter 17: a write of INT_EN of stack 7, then a write of 1 to INT_RAW: INT_STAT reads 1. -/
theorem test_intEnable : after (exec (.registerWrite .host 0x00a77014 1) State.reset) (fun t => after (exec (.registerWrite .mp 0x00a77010 1) t)
    (fun u => readNow u 0x00a7701c == 1 && u.irq == [0x00a77000])) = true := by decide +kernel
/-- R378: THM_CAP_REQ of 999 W changes nothing. -/
theorem test_capRange : after (exec (.registerWrite .host (BitVec.ofNat 32 (pageBase .thm 0 + 0x100)) 999) State.reset)
    (fun t => readNow t (pageBase .thm 0 + 0x100) == readNow State.reset (pageBase .thm 0 + 0x100)) = true := by decide +kernel
/-- R251: STEP_TIMEOUT halts with 0x0901. -/
theorem test_stepTimeout : after (exec .stepTimeout running) (fun t => t.seq.dev == .halted && t.seq.haltStatus == 0x0901) = true := by decide +kernel
/-- R252: WAKE is legal in STANDBY alone. -/
theorem test_wake : after (exec (.wake 0 0) State.reset) (fun t => (hbmGet t 11).st == .training) = true
    ∧ after (exec (.wake 0 0) (inDev .ready)) (fun t => (hbmGet t 11).st == .untrained && t.hst.kept.any (fun c => c.status == 0x0101)) = true := by
  decide +kernel
/-- R14, R200: ALLOC in READY completes with OK and one page. -/
theorem test_alloc : after (exec (.alloc 0 allocW) (inDev .ready)) (fun t => t.hst.kept.any (fun c => c.status == 0x0000 && c.op == 0x10)) = true := by
  decide +kernel
/-- R338: a command on a full ring of 256 is answered with tag 0xffff. -/
theorem test_full : after (exec (.ledger 3 0) { (inDev .ready) with hst := { queues := [(3, { tail := 256 })] } })
    (fun t => t.hst.kept.any (fun c => c.tag == 0xffff && c.status == 0x0102)) = true := by decide +kernel

/-! ### A program that passes the load checks -/

/-- The bytes of a slot entry that are not zero: SEG_OFF is 128, SEGS is 1. -/
def slotBytes (k : Nat) : List (Nat × Byte) := [(tkey 6 (832 + 128 * k + 64), 0x80), (tkey 6 (832 + 128 * k + 68), 1)]
/-- Header, one segment with an END, root and tile sections, a stream with an END; unit tables at 448 hold no list. -/
def headBytes : List (Nat × Byte) :=
  ([(0, 1), (0x14, 1), (0x18, 5), (0x2c, 0xc0), (0x31, 1), (0x35, 1), (0x39, 1), (0x3d, 1), (132, 1), (140, 0x80), (141, 1),
    (192, 0x40), (193, 1), (196, 1), (200, 0xc0), (201, 1), (256, 0x40), (257, 1), (260, 1), (264, 0x40), (265, 3), (268, 0xc0), (269, 1),
    (320, 7), (399, 8)] : List (Nat × Byte)).map (fun e => (tkey 6 e.1, e.2))
def imageBytes : List (Nat × Byte) := headBytes ++ (List.range 184).flatMap slotBytes
/-- READY with the image in a SPILL tensor and a STATE tensor for the run record. -/
def loadState : State := { inDev .ready with mem := { State.reset.mem with
  tensors := [(5, some { size := 8, cls := 0 }), (6, some { size := 24384, cls := 4 })], bytes := imageBytes } }
def loadW : Cmd := BitVec.ofNat 512 (6 * 2 ^ 32 + 24384 * 2 ^ 128)
def loadProg : Prog :=
  { handle := 6, len := 24384, stepLimit := 1, runRec := 5, rootOff := 192, tileOff := [256, 256, 256, 256] }
/-- The state in which the image is checked. -/
def checking : State := withProg (cmdAt loadState 0 (withOp 0x03 loadW)) loadProg

theorem aget_flatMap (key : Nat) (b : Byte) (ks : List Nat) (h : ∀ k ∈ ks, ∀ e ∈ slotBytes k, e.1 = key → e.2 = b) (rest : List (Nat × Byte)) :
    aget (fun _ => (0 : Byte)) (ks.flatMap slotBytes ++ rest) key
      = if ∃ k ∈ ks, ∃ e ∈ slotBytes k, e.1 = key then b else aget (fun _ => 0) rest key := by
  induction ks with
  | nil => simp
  | cons k r ih =>
    have ih := ih (fun x hx => h x (by simp [hx]))
    by_cases h1 : tkey 6 (832 + 128 * k + 64) = key
    · have hb := h k (by simp) (tkey 6 (832 + 128 * k + 64), 0x80) (by simp [slotBytes]) h1
      rw [if_pos ⟨k, by simp, (tkey 6 (832 + 128 * k + 64), 0x80), by simp [slotBytes], h1⟩]
      simp only [List.flatMap_cons, slotBytes, List.cons_append, aget]
      rw [if_pos h1]; exact hb
    · by_cases h2 : tkey 6 (832 + 128 * k + 68) = key
      · have hb := h k (by simp) (tkey 6 (832 + 128 * k + 68), 1) (by simp [slotBytes]) h2
        rw [if_pos ⟨k, by simp, (tkey 6 (832 + 128 * k + 68), 1), by simp [slotBytes], h2⟩]
        simp only [List.flatMap_cons, slotBytes, List.cons_append, aget]
        rw [if_neg h1, if_pos h2]; exact hb
      · have hl : aget (fun _ => (0 : Byte)) ((k :: r).flatMap slotBytes ++ rest) key = aget (fun _ => 0) (r.flatMap slotBytes ++ rest) key := by
          simp only [List.flatMap_cons, slotBytes, List.cons_append, List.nil_append, aget]
          rw [if_neg h1, if_neg h2]
        rw [hl, ih]
        have he : (∃ k' ∈ k :: r, ∃ e ∈ slotBytes k', e.1 = key) ↔ (∃ k' ∈ r, ∃ e ∈ slotBytes k', e.1 = key) := by
          constructor
          · rintro ⟨k', hk, e, he, hh⟩
            rcases List.mem_cons.mp hk with rfl | hk
            · simp only [slotBytes, List.mem_cons, List.not_mem_nil, or_false] at he
              rcases he with rfl | rfl
              · exact absurd hh h1
              · exact absurd hh h2
            · exact ⟨k', hk, e, he, hh⟩
          · rintro ⟨k', hk, e, he, hh⟩
            exact ⟨k', List.mem_cons_of_mem _ hk, e, he, hh⟩
        simp only [he]

theorem aget_past (hd rest : List (Nat × Byte)) (key : Nat) (h : ∀ e ∈ hd, e.1 ≠ key) :
    aget (fun _ => (0 : Byte)) (hd ++ rest) key = aget (fun _ => 0) rest key := by
  induction hd with
  | nil => rfl
  | cons e r ih =>
    obtain ⟨j, v⟩ := e
    simp only [List.cons_append, aget]
    rw [if_neg (h (j, v) (by simp)), ih (fun e he => h e (by simp [he]))]

/-- What a slot entry holds, the same for every slot. -/
theorem slot_byte (k o : Nat) (hk : k < 184) (ho : o < 128) :
    aget (fun _ => (0 : Byte)) imageBytes (tkey 6 (832 + 128 * k + o)) = if o = 64 then 0x80 else if o = 68 then 1 else 0 := by
  have hh : ∀ e ∈ headBytes, e.1 ≠ tkey 6 (832 + 128 * k + o) := by
    intro e he
    have hb : headBytes.all (fun e => decide (e.1 < tkey 6 832)) = true := by decide +kernel
    have := of_decide_eq_true (all_of hb e he)
    unfold tkey at this ⊢
    omega
  have hm : ∀ k' : Nat, ∀ e ∈ slotBytes k', e.1 = tkey 6 (832 + 128 * k + o) → k' = k ∧ (o = 64 ∧ e.2 = 0x80 ∨ o = 68 ∧ e.2 = 1) := by
    intro k' e he h
    simp only [slotBytes, List.mem_cons, List.not_mem_nil, or_false] at he
    rcases he with rfl | rfl <;> simp only [tkey] at h
    · exact ⟨by omega, .inl ⟨by omega, rfl⟩⟩
    · exact ⟨by omega, .inr ⟨by omega, rfl⟩⟩
  have hg := aget_flatMap (tkey 6 (832 + 128 * k + o)) (if o = 64 then 0x80 else if o = 68 then 1 else 0) (List.range 184)
    (by
      intro k' _ e he h
      rcases (hm k' e he h).2 with ⟨h1, h2⟩ | ⟨h1, h2⟩
      · rw [if_pos h1, h2]
      · rw [if_neg (by omega), if_pos h1, h2]) []
  rw [List.append_nil] at hg
  unfold imageBytes
  rw [aget_past _ _ _ hh, hg]
  split
  · rfl
  · rename_i hn
    by_cases h1 : o = 64
    · exact absurd ⟨k, List.mem_range.mpr hk, (tkey 6 (832 + 128 * k + 64), 0x80), by simp [slotBytes], by rw [h1]⟩ hn
    · by_cases h2 : o = 68
      · exact absurd ⟨k, List.mem_range.mpr hk, (tkey 6 (832 + 128 * k + 68), 1), by simp [slotBytes], by rw [h2]⟩ hn
      · rw [if_neg h1, if_neg h2]; rfl

theorem slotEnt_eq (t k : Nat) (ht : t < 4) : slotEnt checking loadProg t k = 832 + 128 * k := by
  have h : ∀ t, t < 4 → slotTab checking loadProg t = 832 := by decide +kernel
  unfold slotEnt
  rw [h t ht]

/-- A read within a slot entry gives what it gives in slot 0 of tile 0. -/
theorem slot_nat (t k o n : Nat) (ht : t < 4) (hk : k < 184) (hn : o + n ≤ 128) :
    imgNat checking loadProg (slotEnt checking loadProg t k + o) n = imgNat checking loadProg (slotEnt checking loadProg 0 0 + o) n := by
  rw [slotEnt_eq t k ht, slotEnt_eq 0 0 (by decide)]
  unfold imgNat memNat memRead
  congr 1
  apply List.map_congr_left
  intro j hj
  have hj := List.mem_range.mp hj
  have h (x : Nat) (hx : x < 184) : memByte checking (tkey loadProg.handle (loadProg.off + (832 + 128 * x + o)) + j)
      = if o + j = 64 then 0x80 else if o + j = 68 then 1 else 0 := by
    have e : tkey loadProg.handle (loadProg.off + (832 + 128 * x + o)) + j = tkey 6 (832 + 128 * x + (o + j)) := by
      show 6 * 2 ^ 40 + (0 + (832 + 128 * x + o)) + j = 6 * 2 ^ 40 + (832 + 128 * x + (o + j))
      omega
    rw [e]
    exact slot_byte x (o + j) hx (by omega)
  rw [h k hk, h 0 (by decide)]

theorem slotRings_eq (t k : Nat) (ht : t < 4) (hk : k < 184) : slotRings checking loadProg t k = slotRings checking loadProg 0 0 := by
  unfold slotRings
  apply List.map_congr_left
  intro r hr
  have hr := List.mem_range.mp hr
  unfold img128
  rw [slot_nat t k (16 * r) 16 ht hk (by omega)]
theorem segOff_eq (t k : Nat) (ht : t < 4) (hk : k < 184) : segOff checking loadProg t k = segOff checking loadProg 0 0 :=
  slot_nat t k 64 4 ht hk (by decide)
theorem segCount_eq (t k : Nat) (ht : t < 4) (hk : k < 184) : segCount checking loadProg t k = segCount checking loadProg 0 0 :=
  slot_nat t k 68 4 ht hk (by decide)
theorem segs_eq (t k : Nat) (ht : t < 4) (hk : k < 184) : segs checking loadProg t k = segs checking loadProg 0 0 := by
  unfold segs segAt
  rw [segCount_eq t k ht hk, segOff_eq t k ht hk]
theorem segsIn_eq (t k : Nat) (ht : t < 4) (hk : k < 184) : segsIn checking loadProg t k = segsIn checking loadProg 0 0 := by
  unfold segsIn
  rw [segCount_eq t k ht hk, segOff_eq t k ht hk]
theorem slotIn_eq (t k : Nat) (ht : t < 4) (hk : k < 184) : slotIn checking loadProg t k = slotIn checking loadProg 0 0 := by
  unfold slotIn
  rw [segsIn_eq t k ht hk, segs_eq t k ht hk]
theorem slotCheck_eq (t k : Nat) (ht : t < 4) (hk : k < 184) : slotCheck checking loadProg t k = slotCheck checking loadProg 0 0 := by
  have h : segsKept checking loadProg t k = segsKept checking loadProg 0 0 := by unfold segsKept; rw [segs_eq t k ht hk]
  have hl : slotLayers checking loadProg t k = slotLayers checking loadProg 0 0 := by unfold slotLayers; rw [h]
  have ha (w : Nat → Bool) : asmAt checking loadProg w t k = asmAt checking loadProg w 0 0 := by unfold asmAt; rw [segs_eq t k ht hk]
  have hc : asmChecks checking loadProg t k = asmChecks checking loadProg 0 0 := by
    unfold asmChecks
    rw [hl]
    simp only [ha]
  unfold slotCheck
  rw [slotRings_eq t k ht hk, segOff_eq t k ht hk, segCount_eq t k ht hk, segs_eq t k ht hk, slot_nat t k 72 56 ht hk (by decide), segsIn_eq t k ht hk,
    slotIn_eq t k ht hk, h, hc]
theorem flatMap_nil {α β : Type} (f : α → List β) (l : List α) (h : ∀ a ∈ l, f a = []) : l.flatMap f = [] := by
  induction l with
  | nil => rfl
  | cons a r ih => rw [List.flatMap_cons, h a (by simp), ih (fun b hb => h b (by simp [hb]))]; rfl
theorem slots_pass (t : Nat) (ht : t < 4) : (List.range 184).flatMap (slotCheck checking loadProg t) = [] := by
  apply flatMap_nil
  intro k hk
  rw [slotCheck_eq t k ht (List.mem_range.mp hk)]
  decide +kernel
/-! ### Reads below the slot entries -/

/-- A read of the part of the image below the slot entries. -/
def lowNat (off n : Nat) : Nat := leNat ((List.range n).map (fun j => aget (fun _ => (0 : Byte)) headBytes (tkey 6 (off + j))))
theorem aget_none (l : List (Nat × Byte)) (key : Nat) (h : ∀ e ∈ l, e.1 ≠ key) : aget (fun _ => (0 : Byte)) l key = 0 := by
  have := aget_past l [] key h
  rw [List.append_nil] at this
  exact this
theorem aget_head (hd rest : List (Nat × Byte)) (key : Nat) (h : ∀ e ∈ rest, e.1 ≠ key) :
    aget (fun _ => (0 : Byte)) (hd ++ rest) key = aget (fun _ => 0) hd key := by
  induction hd with
  | nil => exact aget_none rest key h
  | cons e r ih =>
    obtain ⟨j, v⟩ := e
    simp only [List.cons_append, aget]
    rw [ih]
theorem low_byte (o : Nat) (ho : o < 832) : aget (fun _ => (0 : Byte)) imageBytes (tkey 6 o) = aget (fun _ => 0) headBytes (tkey 6 o) := by
  unfold imageBytes
  apply aget_head
  intro e he
  obtain ⟨k, _, hk⟩ := List.mem_flatMap.mp he
  simp only [slotBytes, List.mem_cons, List.not_mem_nil, or_false] at hk
  rcases hk with rfl | rfl <;> simp only [tkey, ne_eq] <;> omega
theorem mem_low (s : State) (hs : s.mem.bytes = imageBytes) (off n : Nat) (h : off + n ≤ 832) : memNat s 6 off n = lowNat off n := by
  unfold memNat memRead lowNat
  congr 1
  apply List.map_congr_left
  intro j hj
  have hj := List.mem_range.mp hj
  unfold memByte
  rw [hs, show tkey 6 off + j = tkey 6 (off + j) by unfold tkey; omega]
  exact low_byte _ (by omega)
theorem img_low (off n : Nat) (h : off + n ≤ 832) : imgNat checking loadProg off n = lowNat off n := by
  have := mem_low checking rfl off n h
  show memNat checking 6 (0 + off) n = _
  rw [Nat.zero_add]; exact this
theorem sec_low (st : Nat) (h : st < 5) : secOff loadProg st ≤ 256 := by
  have : ∀ st, st < 5 → secOff loadProg st ≤ 256 := by decide +kernel
  exact this st h
theorem stream_off (st : Nat) (h : st < 5) : streamOff checking loadProg st = 320 := by
  have e : ∀ st, st < 5 → lowNat (secOff loadProg st) 4 = 320 := by decide +kernel
  rw [← e st h]
  exact img_low _ _ (by have := sec_low st h; omega)
theorem stream_len (st : Nat) (h : st < 5) : streamLen checking loadProg st = 1 := by
  have e : ∀ st, st < 5 → lowNat (secOff loadProg st + 4) 4 = 1 := by decide +kernel
  rw [← e st h]
  exact img_low _ _ (by have := sec_low st h; omega)
theorem unit_tab (st : Nat) (h : st < 5) : unitTab checking loadProg st = 448 := by
  have e : ∀ st, st < 5 → lowNat (secOff loadProg st + (if st = 0 then 8 else 12)) 4 = 448 := by decide +kernel
  rw [← e st h]
  exact img_low _ _ (by have := sec_low st h; split <;> omega)
theorem slot_tab (t : Nat) (h : t < 4) : slotTab checking loadProg t = 832 := by
  have e : ∀ t, t < 4 → lowNat (secOff loadProg (t + 1) + 8) 4 = 832 := by decide +kernel
  rw [← e t h]
  exact img_low _ _ (by have := sec_low (t + 1) (by omega); omega)
theorem sec_in (st : Nat) (h : st < 5) : sectionIn loadProg st = true := by
  have : ∀ st, st < 5 → sectionIn loadProg st = true := by decide +kernel
  exact this st h
theorem stream_in (st : Nat) (h : st < 5) : streamIn checking loadProg st = true := by
  unfold streamIn
  rw [sec_in st h, stream_off st h, stream_len st h]
  rfl
theorem units_in (st : Nat) (h : st < 5) : unitsIn checking loadProg st = true := by
  unfold unitsIn
  rw [sec_in st h, unit_tab st h]
  split <;> rfl
theorem slots_in (t : Nat) (h : t < 4) : slotsIn checking loadProg t = true := by
  unfold slotsIn
  rw [sec_in (t + 1) (by omega), slot_tab t h]
  rfl
theorem section_passes (st : Nat) (h : st < 5) : sectionCheck checking loadProg st = [] := by
  have hz : imgNat checking loadProg (secOff loadProg st + 0x10) 48 = 0 := by
    have e : ∀ st, st < 5 → lowNat (secOff loadProg st + 0x10) 48 = 0 := by decide +kernel
    rw [← e st h]
    exact img_low _ _ (by have := sec_low st h; omega)
  have hy : (decide (st = 0) && imgNat checking loadProg (secOff loadProg st + 12) 4 != 0) = false := by
    have e : ∀ st, st < 5 → (decide (st = 0) && lowNat (secOff loadProg st + 12) 4 != 0) = false := by decide +kernel
    rw [← e st h, img_low _ _ (by have := sec_low st h; omega)]
  have hs : (if st = 0 then 0 else slotTab checking loadProg (st - 1)) = if st = 0 then 0 else 832 := by
    split
    · rfl
    · exact slot_tab _ (by omega)
  have hi : (st != 0 && !slotsIn checking loadProg (st - 1)) = false := by
    by_cases h0 : st = 0
    · subst h0; rfl
    · rw [slots_in (st - 1) (by omega)]; simp
  unfold sectionCheck
  simp only [stream_off st h, stream_len st h, unit_tab st h, hz, hs, stream_in st h, units_in st h, hi]
  have e : ∀ st, st < 5 →
      chk (320 % 64 != 0 || 448 % 64 != 0 || (if st = 0 then 0 else 832) % 64 != 0 || 0 != 0 || false) stField
      ++ chk (decide (1 = 0) || decide (2 ^ 24 ≤ 1) || !true || !true || false) stLen = [] := by decide +kernel
  rw [hy]
  exact e st h
theorem units_pass : ∀ st, st < 5 → unitsCheck checking loadProg st = [] := by
  intro st h
  have hb : ∀ u ∈ unitCodes st, (if st = 0 then u - 48 else u) < 48 := by
    have e : ∀ st, st < 5 → ∀ u ∈ unitCodes st, (if st = 0 then u - 48 else u) < 48 := by decide +kernel
    exact e st h
  have z : ∀ k, k < 48 → lowNat (448 + 8 * k) 4 = 0 ∧ lowNat (448 + 8 * k + 4) 4 = 0 := by decide +kernel
  unfold unitsCheck
  apply flatMap_nil
  intro u hu
  have hu := hb u hu
  have ho : unitOff checking loadProg st u = 0 := by
    unfold unitOff
    rw [unit_tab st h, img_low _ _ (by omega), (z _ hu).1]
  have hn : unitLen checking loadProg st u = 0 := by
    unfold unitLen
    rw [unit_tab st h, img_low _ _ (by omega), (z _ hu).2]
  have hl : listIn checking loadProg st u = true := by
    unfold listIn
    rw [ho, hn]
    rfl
  simp only [ho, hn, hl]
  rfl
theorem slotTally_eq (t k : Nat) (ht : t < 4) (hk : k < 184) (f : Nat → ArrInst → Nat) :
    slotTally checking loadProg t k f = slotTally checking loadProg 0 0 f := by
  unfold slotTally segsKept
  rw [segs_eq t k ht hk]
theorem issued_none : issuedAll checking loadProg = [] := by decide +kernel
theorem rings_balance : ringsBalance checking loadProg [] = true := by
  have h0 : ∀ r, r < 4 → tallyEq (slotTally checking loadProg 0 0 (fun op i => if (op = 2 ∨ op = 3) ∧ i.src = 1 ∧ i.ring.toNat = r then i.rows.toNat else 0)) []
      ((((slotRings checking loadProg 0 0).getD r ({}, [])).1).slotRows * (((slotRings checking loadProg 0 0).getD r ({}, [])).1).uses) = true := by
    decide +kernel
  unfold ringsBalance
  rw [List.all_eq_true]; intro t ht
  rw [List.all_eq_true]; intro k hk
  rw [List.all_eq_true]; intro r hr
  rw [List.mem_range] at ht hk hr
  simp only [slotRings_eq t k ht hk, slotTally_eq t k ht hk]
  exact h0 r hr
theorem header_passes : headerCheck checking loadProg = [] := by decide +kernel
theorem streams_pass : ∀ st, st < 5 → streamsCheck checking loadProg st = [] := by decide +kernel
theorem ite_nil {c : Prop} [Decidable c] {l : List Half} (h : l = []) : (if c then l else []) = [] := by
  split
  · exact h
  · rfl
theorem formats_pass : formatsCheck checking loadProg = [] := by decide +kernel
theorem step_passes : stepCheck checking loadProg = [] := by
  unfold stepCheck
  rw [issued_none]
  decide +kernel
theorem whole_passes : wholeCheck checking loadProg = [] := by
  have hw : (List.range 5).flatMap (waitsCheck checking loadProg []) = [] := by decide +kernel
  have hz : (List.range loadProg.weirs) = [] := rfl
  unfold wholeCheck
  rw [issued_none]
  simp only [hw, hz, rings_balance, List.any_nil, Bool.not_true, chk, List.append_nil]
  rfl
theorem statuses_pass (st : Nat) (h : st < 5) : sectionStatuses checking loadProg st = [] := by
  unfold sectionStatuses
  apply ite_nil
  rw [section_passes st h, units_pass st h, streams_pass st h]
  have hs : (if (st != 0 && slotsIn checking loadProg (st - 1)) = true then
      (List.range 184).flatMap (slotCheck checking loadProg (st - 1)) else []) = [] := by
    by_cases h0 : st = 0
    · subst h0; rfl
    · exact ite_nil (slots_pass (st - 1) (by omega))
  rw [hs, ite_nil rfl, ite_nil rfl]
  rfl
theorem image_passes : imageStatuses checking loadProg = [] := by
  unfold imageStatuses
  have hl : layersCheck checking loadProg = [] := rfl
  have hw : weirsCheck checking loadProg = [] := rfl
  rw [header_passes, ite_nil hl, ite_nil hw, flatMap_nil _ _ (fun st h => statuses_pass st (List.mem_range.mp h)), formats_pass, ite_nil step_passes,
    ite_nil whole_passes]
  rfl

/-- The state in which the fields of the LOAD are checked. -/
def taking : State := cmdAt loadState 0 (withOp 0x03 loadW)
theorem prog_read : progOf taking 6 0 24384 = loadProg := by
  have m (o n : Nat) (h : o + n ≤ 832) : memNat taking 6 (0 + o) n = lowNat o n := by
    rw [Nat.zero_add]; exact mem_low taking rfl o n h
  unfold progOf
  simp only [m _ _ (show 1 + 1 ≤ 832 by decide), m _ _ (show 2 + 1 ≤ 832 by decide), m _ _ (show 4 + 2 ≤ 832 by decide),
    m _ _ (show 6 + 2 ≤ 832 by decide), m _ _ (show 8 + 8 ≤ 832 by decide), m _ _ (show 0x14 + 4 ≤ 832 by decide),
    m _ _ (show 0x18 + 4 ≤ 832 by decide), m _ _ (show 0x1c + 4 ≤ 832 by decide), m _ _ (show 0x20 + 4 ≤ 832 by decide),
    m _ _ (show 0x40 + 4 ≤ 832 by decide), m _ _ (show 0x24 + 4 ≤ 832 by decide), m _ _ (show 0x28 + 4 ≤ 832 by decide),
    m _ _ (show 0x2c + 4 ≤ 832 by decide), m _ _ (show 0x30 + 4 ≤ 832 by decide), m _ _ (show 0x34 + 4 ≤ 832 by decide),
    m _ _ (show 0x38 + 4 ≤ 832 by decide), m _ _ (show 0x3c + 4 ≤ 832 by decide)]
  decide +kernel
theorem load_fields : loadH (withOp 0x03 loadW) = 6 ∧ loadOff (withOp 0x03 loadW) = 0 ∧ loadLen (withOp 0x03 loadW) = 24384
    ∧ cmdOp (withOp 0x03 loadW) = 3 ∧ cmdTag (withOp 0x03 loadW) = 0
    ∧ cmdRsvd (withOp 0x03 loadW) [(32, 24), (64, 40), (128, 32)] = false := by decide +kernel
theorem load_tensor : tensorOf taking 6 = some { size := 24384, cls := 4 } := by decide +kernel
theorem load_passes : loadCheck taking (withOp 0x03 loadW) = [] := by
  obtain ⟨h1, h2, h3, _, _, h6⟩ := load_fields
  unfold loadCheck
  rw [h1, h2, h3, h6, if_neg (by decide), load_tensor]
  show chk (false || 0 % 64 != 0) stField ++ chk (4 == 0) stHandle ++ chk (decide (24384 < 128 ∨ 24384 < 0 + 24384)) stLen
    ++ (if decide (24384 < 128 ∨ 24384 < 0 + 24384) = true then [] else
        imageStatuses (withProg taking (progOf taking 6 0 24384)) (progOf taking 6 0 24384)) = []
  rw [prog_read, if_neg (by decide), show imageStatuses (withProg taking loadProg) loadProg = [] from image_passes]
  rfl
theorem load_starts : cmdStarts loadState 0 (withOp 0x03 loadW) := by decide +kernel
theorem load_state : stateFor taking (withOp 0x03 loadW) = .ready := by decide +kernel
theorem load_first : (if !cmdDefined 3 then stField else if !cmdLegal 3 .ready then stState
    else pickStatus (chk ((0 : Half) == 0xffff) stField ++ [])) = stOK := by decide +kernel
theorem fields_load (s : State) (w : Cmd) (h : cmdOp w = 3) : fieldsCheck s w = loadCheck s w := by
  unfold fieldsCheck
  simp only [h]
theorem wit_ProgramsAndConfigurationsAreTaken_load : cmdMayRun loadState 0 (withOp 0x03 loadW) ∧ loadLen (withOp 0x03 loadW) ≠ 0 := by
  obtain ⟨_, _, h3, h4, h5, _⟩ := load_fields
  refine ⟨⟨load_starts, ?_⟩, by rw [h3]; decide⟩
  show cmdStatus taking (withOp 0x03 loadW) = stOK
  have hf : fieldsCheck taking (withOp 0x03 loadW) = [] := (fields_load _ _ h4).trans load_passes
  unfold cmdStatus
  rw [hf, load_state, h4, h5]
  exact load_first

end Sys2Proof.Tests
end

section
/-! SUPPORT. What a register write does and what it leaves as it is: where an offset lies, what an interrupt entry, a
migration and an identity record that follow a write change, and that a quiet host side stays quiet. -/

namespace Sys2Proof.Machine

/-! ### Where an offset lies -/

/-- The page and its index are read off an offset of the page (Table 17.3). -/
theorem pageOf_pageBase (p : Pg) (i o : Nat) (hi : i < p.count) (ho : o < 0x1000) : pageOf (pageBase p i + o) = some (p, i) := by
  unfold pageOf
  cases p <;> simp only [Pg.count, pageBase] at hi ⊢ <;> grind

theorem pageBase_mod (p : Pg) (i : Nat) : pageBase p i % 0x1000 = 0 := by
  cases p <;> simp only [pageBase] <;> omega

theorem pageBase_add_mod (p : Pg) (i : Nat) {o : Nat} (ho : o < 0x1000) : (pageBase p i + o) % 0x1000 = o := by
  have := pageBase_mod p i
  omega

theorem regGet_pgSet_ne (s : State) {p : Pg} {i o k : Nat} {v : Word} (h : k ≠ pageBase p i + o) :
    regGet (pgSet s p i o v) k = regGet s k := by
  rw [pgSet, regGet_regSet, if_neg h]

/-! ### An interrupt entry for the host (R454) -/

/-- A reading of the state on which frames for the host, their counters and pending marks have no bearing. -/
structure InterruptBlind {β : Type} (g : State → β) : Prop where
  hst : ∀ s h, h.heads = s.hst.heads → h.access = s.hst.access → g { s with hst := h } = g s
  ctr : ∀ s m, g { s with ctr := m } = g s
  wire : ∀ s m, g { s with wire := m } = g s
  irq : ∀ s l, g { s with irq := l } = g s

theorem InterruptBlind.regGet (k : Nat) : InterruptBlind (fun s => regGet s k) :=
  ⟨fun _ _ _ _ => rfl, fun _ _ => rfl, fun _ _ => rfl, fun _ _ => rfl⟩
theorem InterruptBlind.mem : InterruptBlind State.mem :=
  ⟨fun _ _ _ _ => rfl, fun _ _ => rfl, fun _ _ => rfl, fun _ _ => rfl⟩
theorem InterruptBlind.arr : InterruptBlind State.arr :=
  ⟨fun _ _ _ _ => rfl, fun _ _ => rfl, fun _ _ => rfl, fun _ _ => rfl⟩
theorem InterruptBlind.port : InterruptBlind State.port :=
  ⟨fun _ _ _ _ => rfl, fun _ _ => rfl, fun _ _ => rfl, fun _ _ => rfl⟩

section
variable {β : Type} {g : State → β} (hg : InterruptBlind g)
include hg

theorem bump_same (s : State) (p : Pg) (i o n : Nat) : g (bump s p i o n) = g s := hg.ctr ..

theorem send_same (s : State) (m : Msg) : g (send s m) = g s := hg.wire ..

theorem peerSet_same (s : State) (p : HctPeer) (r : Peer) : g (peerSet s p r) = g s := by
  cases p <;> exact hg.hst _ _ rfl rfl

theorem sendSolicit_same (s : State) (a : BitVec 128) : g (sendSolicit s a) = g s := by
  unfold sendSolicit holdNd
  split
  · exact hg.wire ..
  · exact hg.hst _ _ rfl rfl

theorem solicitPeer_same (s : State) (p : HctPeer) : g (solicitPeer s p) = g s := by
  unfold solicitPeer solicitAddr
  split
  · rfl
  · rw [sendSolicit_same hg]; exact hg.hst _ _ rfl rfl

theorem sendAck_same (s : State) (p : HctPeer) : g (sendAck s p) = g s := by
  unfold sendAck
  dsimp only
  split
  · exact peerSet_same hg ..
  · split
    · rw [solicitPeer_same hg, peerSet_same hg]
    · rw [send_same hg, bump_same hg, peerSet_same hg]

theorem sendSync_same (s : State) : g (sendSync s) = g s := by
  unfold sendSync
  dsimp only
  split
  · exact hg.hst _ _ rfl rfl
  · split
    · rw [solicitPeer_same hg]; exact hg.hst _ _ rfl rfl
    · rw [send_same hg, bump_same hg]; exact hg.hst _ _ rfl rfl

theorem sendDue_same (p : HctPeer) (s : State) : g (sendDue p s) = g s := by
  have sync : g (if p == .host && s.hst.syncDue then sendSync s else s) = g s := by
    split
    · exact sendSync_same hg s
    · rfl
  unfold sendDue
  generalize (if p == .host && s.hst.syncDue then sendSync s else s) = t at sync ⊢
  dsimp only
  split
  · rw [sendAck_same hg, sync]
  · exact sync

theorem pumpFrames_same (p : HctPeer) (k : Nat) (s : State) : g (pumpFrames p k s) = g s := by
  induction k generalizing s with
  | zero => rfl
  | succ k ih =>
    simp only [pumpFrames]
    split
    · rfl
    · split
      · rfl
      · split
        · exact solicitPeer_same hg ..
        · rw [ih, send_same hg]
          split <;> simp only [bump_same hg, peerSet_same hg]

theorem sendFrame_same (s : State) (p : HctPeer) (f : Frame) : g (sendFrame s p f) = g s := by
  unfold sendFrame pumpPeer
  split
  · rfl
  · rw [pumpFrames_same hg, sendDue_same hg, peerSet_same hg]

theorem sendIrq_same (s : State) (es : List (Nat × Word)) : g (sendIrq s es) = g s := by
  unfold sendIrq
  split
  · exact bump_same hg ..
  · rw [foldl_same g _ (fun s _ => sendFrame_same hg s _ _), bump_same hg]

/-- What follows a change of INT_STAT is an entry for the host or a pending mark, and nothing else (R454). -/
theorem irqTouch_same (s : State) (p : Pg) (i : Nat) (before : Word) : g (irqTouch s p i before) = g s := by
  unfold irqTouch
  dsimp only
  split
  · split
    · exact sendIrq_same hg ..
    · split
      · rfl
      · exact hg.irq ..
  · rfl

theorem setInt_same (s : State) (p : Pg) (i : Nat) (bits : Word) :
    g (setInt s p i bits) = g (pgSet s p i 0x10 (pgGet s p i 0x10 ||| bits)) := irqTouch_same hg ..

end

/-! ### Migrations (R204, R205) -/

/-- A reading of the state on which migrations have no bearing: of memory it sees the contents of the tensors and what they
are, and of the registers not PLC_INT_RAW. -/
structure MigrationBlind {β : Type} (g : State → β) : Prop extends InterruptBlind g where
  raw : ∀ s v, g (pgSet s .plc 0 0x10 v) = g s
  msc : ∀ s m, g { s with msc := m } = g s
  mem : ∀ s m, m.bytes = s.mem.bytes → m.work = s.mem.work → m.tensors = s.mem.tensors → g { s with mem := m } = g s

theorem MigrationBlind.port : MigrationBlind State.port :=
  ⟨InterruptBlind.port, fun _ _ => rfl, fun _ _ => rfl, fun _ _ _ _ _ => rfl⟩

theorem MigrationBlind.regGet {k : Nat} (hk : k ≠ pageBase .plc 0 + 0x10) : MigrationBlind (fun s => regGet s k) :=
  ⟨InterruptBlind.regGet k, fun s _ => regGet_pgSet_ne s hk, fun _ _ => rfl, fun _ _ _ _ _ => rfl⟩

section
variable {β : Type} {g : State → β} (hg : MigrationBlind g)
include hg

theorem freePhys_same (s : State) (k : Nat) : g (freePhys s k) = g s := by
  have bytes : ∀ s k c n, g (hbmBytes s k c n) = g s := fun s k c n => bump_same hg.toInterruptBlind ..
  have drop : ∀ s, g (dropPage prioHost (k / 2 ^ 16) (k % 2 ^ 16) false s) = g s := fun s =>
    (bytes ..).trans ((bump_same hg.toInterruptBlind ..).trans (hg.msc ..))
  exact (hg.mem _ _ (by rfl) (by rfl) (by rfl)).trans ((bytes ..).trans (drop s))

theorem joinMigs_same (s : State) (m : Mig) : g (joinMigs s m) = g s :=
  (hg.mem _ _ (by rfl) (by rfl) (by rfl)).trans (foldl_same g _ (fun s k => freePhys_same hg s k) _ s)

theorem startMig_same (s : State) (m : Mig) : g (startMig s m) = g s := by
  unfold startMig
  split
  · exact hg.mem _ _ rfl rfl rfl
  · split
    · dsimp only
      split
      · rw [joinMigs_same hg]; exact hg.mem _ _ rfl rfl rfl
      · exact hg.mem _ _ rfl rfl rfl
    · rw [setInt_same hg.toInterruptBlind, hg.raw]; exact hg.mem _ _ rfl rfl rfl

theorem checkPage_same (s : State) (stack i : Nat) : g (checkPage s stack i) = g s := by
  unfold checkPage
  split
  · split
    · exact startMig_same hg ..
    · rfl
  · rfl

theorem checkMigs_same (s : State) : g (checkMigs s) = g s :=
  foldl_same g _ (fun s _ => foldl_same g _ (fun s _ => checkPage_same hg s _ _) _ s) _ s

end

/-! ### Flits for a port (R293, R296) -/

/-- The state of port `q` and the S of the latest record that it was given to send. -/
def portMark (s : State) (q : Nat) : PortSt × DWord := ((portGet s q).st, (portGet s q).sentS)

theorem portGet_portMod (s : State) (p q : Nat) (f : Port → Port) :
    portGet (portMod s p f) q = if q = p then f (portGet s p) else portGet s q := aget_aset ..

/-- A reading of the state on which the sending of flits has no bearing: of a port it sees no more than its mark. -/
structure FlitBlind {β : Type} (g : State → β) : Prop where
  port : ∀ s p f, (∀ r, (f r).st = r.st ∧ (f r).sentS = r.sentS) → g (portMod s p f) = g s
  ctr : ∀ s m, g { s with ctr := m } = g s
  wire : ∀ s m, g { s with wire := m } = g s
  drawn : ∀ s n, g { s with drawn := n } = g s

theorem FlitBlind.regGet (k : Nat) : FlitBlind (fun s => regGet s k) :=
  ⟨fun _ _ _ _ => rfl, fun _ _ => rfl, fun _ _ => rfl, fun _ _ => rfl⟩
theorem FlitBlind.mem : FlitBlind State.mem :=
  ⟨fun _ _ _ _ => rfl, fun _ _ => rfl, fun _ _ => rfl, fun _ _ => rfl⟩

theorem FlitBlind.portMark (q : Nat) : FlitBlind (portMark · q) := by
  refine ⟨fun s p f hf => ?_, fun _ _ => rfl, fun _ _ => rfl, fun _ _ => rfl⟩
  obtain ⟨hst, hs⟩ := hf (portGet s p)
  unfold Machine.portMark
  rw [portGet_portMod]
  split
  · next e => rw [hst, hs, e]
  · rfl

section
variable {β : Type} {g : State → β} (hg : FlitBlind g)
include hg

theorem flitSlot_same (s : State) (p : Nat) : g (flitSlot s p).2 = g s := by
  unfold flitSlot draw
  dsimp only
  split
  · exact hg.drawn ..
  · rfl

theorem pumpPort_same (p k : Nat) (s : State) : g (pumpPort p k s) = g s := by
  induction k generalizing s with
  | zero => rfl
  | succ k ih =>
    simp only [pumpPort]
    split
    · exact flitSlot_same hg ..
    · unfold send bump ctrSet
      rw [ih, hg.wire, hg.ctr, hg.ctr]
      exact (hg.port _ _ _ (by intro; exact ⟨rfl, rfl⟩)).trans (flitSlot_same hg ..)

theorem portSend_same (s : State) (p : Nat) (f : OutFlit) : g (portSend s p f) = g s := by
  unfold portSend
  rw [pumpPort_same hg]
  exact hg.port _ _ _ (fun _ => ⟨rfl, rfl⟩)

end

/-! ### A quiet host side stays quiet -/

/-- What the write of an RW register leaves as it is: the sequencers, the arrays, the contents of the tensors and what they
are, the queue heads that wait and the host accesses. -/
def State.calm (s : State) : Seq × AMap Arr × AMap Byte × AMap Byte × AMap (Option Tensor) × List Nat × List Access :=
  (s.seq, s.arr, s.mem.bytes, s.mem.work, s.mem.tensors, s.hst.heads, s.hst.access)

theorem InterruptBlind.calm : InterruptBlind State.calm :=
  ⟨fun _ _ h k => by simp [State.calm, h, k], fun _ _ => rfl, fun _ _ => rfl, fun _ _ => rfl⟩
theorem MigrationBlind.calm : MigrationBlind State.calm :=
  ⟨InterruptBlind.calm, fun _ _ => rfl, fun _ _ => rfl, fun _ _ h k l => by simp [State.calm, h, k, l]⟩
theorem FlitBlind.calm : FlitBlind State.calm :=
  ⟨fun _ _ _ _ => rfl, fun _ _ => rfl, fun _ _ => rfl, fun _ _ => rfl⟩

/-- Every port that is UP in `t` was UP in `s`, with the same record sent last. -/
def NoPortRises (s t : State) : Prop := ∀ q, (portGet t q).st = .up → portMark t q = portMark s q

theorem NoPortRises.trans {s t u : State} (h : NoPortRises s t) (k : NoPortRises t u) : NoPortRises s u := by
  intro q hq
  have hmark := k q hq
  exact hmark.trans (h q ((congrArg Prod.fst hmark).symm.trans hq))

theorem noPortRises_of_port {s t : State} (h : t.port = s.port) : NoPortRises s t := by
  intro q _
  simp only [portMark, portGet, h]

theorem noPortRises_portMod (s : State) (p : Nat) (f : Port → Port) (hf : ∀ r, (f r).st ≠ .up) : NoPortRises s (portMod s p f) := by
  intro q hq
  unfold portMark
  rw [portGet_portMod] at hq ⊢
  split at hq
  · exact absurd hq (hf _)
  · next e => rw [if_neg e]

/-- A port that enters IDENT sends its record there, and is not UP (R296). -/
theorem noPortRises_portIdent (s : State) (p : Nat) (r : IdentRec) : NoPortRises s (portIdent s p r) := by
  intro q hq
  have mark : ∀ t f, portMark (portSend t p f) q = portMark t q := fun t f => portSend_same (.portMark q) t p f
  unfold portIdent at hq ⊢
  rw [show (portGet _ q).st = (portMark _ q).1 from rfl, mark] at hq
  rw [mark]
  exact noPortRises_portMod _ _ _ (by simp) q hq

theorem hostQuiet_of_calm {s t : State} (hc : t.calm = s.calm) (hp : NoPortRises s t) (h : hostQuiet s) : hostQuiet t := by
  simp only [State.calm, Prod.mk.injEq] at hc
  obtain ⟨hseq, -, hbytes, -, -, hheads, haccess⟩ := hc
  have hS : stepS t = stepS s := by simp only [stepS, memNat, memRead, memByte, hseq, hbytes]
  obtain ⟨h1, h2, h3, h4, h5⟩ := h
  refine ⟨hheads.trans h1, haccess.trans h2, hseq ▸ h3, hseq ▸ h4, fun p hlt => ?_⟩
  by_cases hup : (portGet t p).st = .up
  · have hmark := hp p hup
    simp only [portMark, Prod.mk.injEq] at hmark
    obtain ⟨hst, hsent⟩ := hmark
    simpa only [identDue, hst, hsent, hS, hseq] using h5 p hlt
  · simp [identDue, hup]

/-! ### What follows the write of an RW register -/

/-- The states that can follow the write of register `o` of page `p`, `i`: the migrations of PLC_CTRL, a port that ENABLE
turns, the host link that ENABLE turns, a port that runs IDENT again, and the thermal cap of a new estimate. -/
inductive Follows (s : State) (i : Nat) : Pg → Nat → State → Prop
  | none (p : Pg) (o : Nat) : Follows s i p o s
  | migrations : Follows s i .plc 8 (checkMigs s)
  | portTurns (f : Port → Port) (hf : ∀ r, (f r).st ≠ .up) : Follows s i .ngl 8 (portMod s i f)
  | linkUp (h : Hst) (hh : h.heads = s.hst.heads) (ha : h.access = s.hst.access) : Follows s i .hst 8 { s with hst := h }
  | linkDown (h : Hst) (hh : h.heads = s.hst.heads) (ha : h.access = s.hst.access) :
      Follows s i .hst 8 (setInt { s with hst := h } .hst 0 2)
  | ident (o : Nat) (f : Port → Port) (hf : ∀ r, (f r).st = r.st ∧ (f r).sentS = r.sentS) (r : IdentRec) :
      Follows s i .ngl o (portIdent (portMod s i f) i r)
  | estimate (v : Thm) : Follows s i .thm 0x114 (thermalUpdate { s with thm := v })

theorem ctrlAction_follows (s : State) (p : Pg) (i : Nat) : Follows s i p 8 (ctrlAction s p i) := by
  unfold ctrlAction
  dsimp only
  split
  · exact .migrations
  · split
    · exact .portTurns _ (by simp)
    · split
      · exact .portTurns _ (by simp)
      · exact .none ..
  · split
    · exact .linkUp _ rfl rfl
    · split
      · split
        · exact .linkDown _ rfl rfl
        · exact .linkUp _ rfl rfl
      · exact .none ..
  · exact .none ..

theorem expAction_follows (s : State) (i o : Nat) : Follows s i .ngl o (expAction s i) := by
  unfold expAction
  split
  · exact .ident _ _ (by intro; exact ⟨rfl, rfl⟩) _
  · exact .none ..

theorem afterWrite_follows (s : State) (p : Pg) (i o : Nat) : Follows s i p o (afterWrite s p i o) := by
  unfold afterWrite
  split
  · next h => subst h; exact ctrlAction_follows s p i
  · split
    · exact expAction_follows ..
    · exact expAction_follows ..
    · exact expAction_follows ..
    · split
      · exact .none ..
      · exact .estimate _
    · exact .none ..

/-- What follows a write leaves the sequencers, the arrays, the tensors and the host side as they are. -/
theorem Follows.calm {s t : State} {p : Pg} {i o : Nat} (h : Follows s i p o t) : t.calm = s.calm := by
  cases h with
  | none => rfl
  | migrations => exact checkMigs_same .calm s
  | portTurns f _ => rfl
  | linkUp h hh ha => exact InterruptBlind.calm.hst s h hh ha
  | linkDown h hh ha => exact (setInt_same .calm ..).trans (InterruptBlind.calm.hst s h hh ha)
  | ident o f _ r => exact portSend_same .calm ..
  | estimate v => rfl

/-- What follows a write leaves the register that was written as it is. -/
theorem Follows.register {s t : State} {p : Pg} {i o : Nat} (h : Follows s i p o t) : pgGet t p i o = pgGet s p i o := by
  cases h with
  | none => rfl
  | migrations => exact checkMigs_same (.regGet (by simp [pageBase])) s
  | portTurns f _ => rfl
  | linkUp h _ _ => rfl
  | linkDown h _ _ =>
    exact (setInt_same (.regGet _) ..).trans (regGet_pgSet_ne _ (by simp [pageBase]))
  | ident o f _ r => exact portSend_same (.regGet _) ..
  | estimate v =>
    unfold thermalUpdate capUpdate thmSet pgGet
    rw [regGet_pgSet_ne _ (by simp [pageBase]), regGet_pgSet_ne _ (by simp [pageBase]), regGet_pgSet_ne _ (by simp [pageBase])]
    rfl

theorem Follows.noPortRises {s t : State} {p : Pg} {i o : Nat} (h : Follows s i p o t) : NoPortRises s t := by
  cases h with
  | none => exact noPortRises_of_port rfl
  | migrations => exact noPortRises_of_port (checkMigs_same .port s)
  | portTurns f hf => exact noPortRises_portMod s i f hf
  | linkUp h _ _ => exact noPortRises_of_port rfl
  | linkDown h _ _ => exact noPortRises_of_port (setInt_same .port ..)
  | ident o f hf r =>
    have hkept : NoPortRises s (portMod s i f) := fun q _ => (FlitBlind.portMark q).port s i f hf
    exact hkept.trans (noPortRises_portIdent _ i r)
  | estimate v => exact noPortRises_of_port rfl

/-! ### A register write, by the access of its register (Table 17.1) -/

theorem regAcc_woReg {p : Pg} {o : Nat} (h : woReg p o = true) : regAcc p o = .wo := by
  unfold woReg at h
  split at h
  case h_5 => cases h
  all_goals rfl

/-- The offset of a register that a write reaches is aligned, and lies at `o` in page `p`, `i`, which is present. -/
theorem regReaches_place {s : State} {p : Pg} {i o : Nat} (h : regReaches s p i o) :
    (pageBase p i + o) % 4 = 0 ∧ pageOf (pageBase p i + o) = some (p, i) ∧ (pageBase p i + o) % 0x1000 = o
      ∧ presentPage s.fit p i = true := by
  obtain ⟨-, -, hi, hpres, ho, halign⟩ := h
  have hoff := pageBase_add_mod p i ho
  exact ⟨by omega, pageOf_pageBase p i o hi ho, hoff, hpres⟩

section
variable {s : State} {p : Pg} {i o : Nat} (v : Word) (h : regReaches s p i o)
include h

/-- A register that is not write only is written by its access (R8). -/
theorem regRow_of_reaches (ha : regAcc p o ≠ .wo) : regRow (pageBase p i + o) v s = tidy (rwWrite s (pageBase p i + o) v).1 := by
  obtain ⟨h4, hpage, hoff, hpres⟩ := regReaches_place h
  have hwo : woReg p o ≠ true := fun hw => ha (regAcc_woReg hw)
  obtain ⟨-, hon, -⟩ := h
  unfold regRow regWriteEffect regWrite
  rw [if_neg hon, if_neg (not_not_intro h4), hpage]
  simp only [hpres, hoff, Bool.not_true, Bool.false_eq_true, if_false]
  split
  case h_5 => rfl
  all_goals exact absurd rfl hwo

/-- A write to a read-only register changes nothing. -/
theorem regRow_ro (ha : regAcc p o = .ro) : regRow (pageBase p i + o) v s = s := by
  obtain ⟨h4, hpage, hoff, hpres⟩ := regReaches_place h
  rw [regRow_of_reaches v h (by simp [ha])]
  simpa [rwWrite, h4, hpage, hoff, hpres, ha] using tidy_of_quiet s h.1

/-- A write to INT_SET sets the defined bits of INT_RAW (R449). -/
theorem regRow_w1s (ha : regAcc p o = .w1s) : regRow (pageBase p i + o) v s = setInt s p i (v &&& p.intMask) := by
  obtain ⟨h4, hpage, hoff, hpres⟩ := regReaches_place h
  rw [regRow_of_reaches v h (by simp [ha])]
  simp only [rwWrite, h4, hpage, hoff, hpres, ha]
  exact tidy_of_quiet _ (hostQuiet_of_calm (setInt_same .calm ..) (noPortRises_of_port (setInt_same .port ..)) h.1)

/-- A write to INT_CLR clears bits of INT_RAW (R449). -/
theorem regRow_w1c (ha : regAcc p o = .w1c) : regRow (pageBase p i + o) v s = pgSet s p i 0x10 (pgGet s p i 0x10 &&& ~~~v) := by
  obtain ⟨h4, hpage, hoff, hpres⟩ := regReaches_place h
  rw [regRow_of_reaches v h (by simp [ha])]
  simp only [rwWrite, h4, hpage, hoff, hpres, ha]
  exact tidy_of_quiet _ (hostQuiet_of_calm rfl (noPortRises_of_port rfl) h.1)

/-- A write that the rule of its register rejects changes nothing. -/
theorem regRow_rw_rejected (ha : regAcc p o = .rw) (hr : regRule s p o v ≠ stOK) : regRow (pageBase p i + o) v s = s := by
  obtain ⟨h4, hpage, hoff, hpres⟩ := regReaches_place h
  rw [regRow_of_reaches v h (by simp [ha])]
  simpa [rwWrite, h4, hpage, hoff, hpres, ha, hr] using tidy_of_quiet s h.1

end

/-- Register `o` of page `p`, `i` has taken the defined bits of `v`; a write to INT_EN may be a change of INT_STAT (R454). -/
def regTaken (s : State) (p : Pg) (i o : Nat) (v : Word) : State :=
  let t := pgSet s p i o (v &&& regMask p o)
  if o = 0x14 then irqTouch t p i (intStat s p i) else t

theorem regTaken_same {β : Type} {g : State → β} (hg : InterruptBlind g) (s : State) (p : Pg) (i o : Nat) (v : Word) :
    g (regTaken s p i o v) = g (pgSet s p i o (v &&& regMask p o)) := by
  unfold regTaken
  dsimp only
  split
  · exact irqTouch_same hg ..
  · rfl

theorem afterWrite_regTaken_calm (s : State) (p : Pg) (i o : Nat) (v : Word) :
    (afterWrite (regTaken s p i o v) p i o).calm = s.calm :=
  (afterWrite_follows ..).calm.trans (regTaken_same .calm s p i o v)

theorem afterWrite_regTaken_register (s : State) (p : Pg) (i o : Nat) (v : Word) :
    pgGet (afterWrite (regTaken s p i o v) p i o) p i o = v &&& regMask p o :=
  (afterWrite_follows ..).register.trans ((regTaken_same (.regGet _) s p i o v).trans (pgGet_pgSet_self ..))

/-- A write that the rule of its register accepts (R9). -/
theorem regRow_rw_accepted {s : State} {p : Pg} {i o : Nat} (v : Word) (h : regReaches s p i o) (ha : regAcc p o = .rw)
    (hr : regRule s p o v = stOK) : regRow (pageBase p i + o) v s = afterWrite (regTaken s p i o v) p i o := by
  obtain ⟨h4, hpage, hoff, hpres⟩ := regReaches_place h
  have hport : NoPortRises s (regTaken s p i o v) := noPortRises_of_port (regTaken_same .port s p i o v)
  have hquiet := hostQuiet_of_calm (afterWrite_regTaken_calm s p i o v) (hport.trans (afterWrite_follows ..).noPortRises) h.1
  rw [regRow_of_reaches v h (by simp [ha])]
  simp only [rwWrite, h4, hpage, hoff, hpres, ha, hr]
  exact tidy_of_quiet _ hquiet

/-! ### HST_IRQ_RESEND and the NGL_EXP_ registers -/

theorem regRow_irqResend {s : State} (v : Word) (h : regReaches s .hst 0 0x188) (hv : v.getLsbD 0 = true) (hc : pgGet s .hst 0 0x12c ≠ 0) :
    regRow (pageBase .hst 0 + 0x188) v s = markPages s := by
  obtain ⟨h4, hpage, hoff, hpres⟩ := regReaches_place h
  obtain ⟨hquiet, hon, -⟩ := h
  unfold regRow regWriteEffect regWrite irqResendWrite
  rw [if_neg hon, if_neg (not_not_intro h4), hpage]
  simp only [hpres, hoff, hv]
  unfold markPages
  rw [if_neg hc]
  exact tidy_of_quiet _ (hostQuiet_of_calm rfl (noPortRises_of_port rfl) hquiet)

/-- With HST_COAL above 0 every routed page with a nonzero INT_STAT is pending (R456). -/
theorem markPages_marks {s : State} (hc : pgGet s .hst 0 0x12c ≠ 0) :
    ∀ e ∈ intPages s, irqRouted s e.1 = true → pageBase e.1 e.2 ∈ (markPages s).irq := by
  intro e he hr
  have hes : pageBase e.1 e.2 ∈ ((intPages s).filter (fun e => irqRouted s e.1)).map (fun e => pageBase e.1 e.2) :=
    List.mem_map_of_mem (List.mem_filter.mpr ⟨he, hr⟩)
  simp only [markPages, if_neg hc, List.mem_append, List.mem_filter]
  by_cases hold : pageBase e.1 e.2 ∈ s.irq
  · exact .inl hold
  · exact .inr ⟨hes, by simpa using hold⟩

theorem regAcc_nglExp (w : Fin 3) : regAcc .ngl (0x100 + 4 * w) = .rw := by
  revert w; decide

theorem regRule_nglExp (s : State) (w : Fin 3) (v : Word) :
    regRule s .ngl (0x100 + 4 * w) v = if s.seq.dev == .running then stState else stOK := by
  match w with
  | 0 => rfl
  | 1 => rfl
  | 2 => rfl

/-- What follows a write to a register of a peer port leaves tensor memory as it is. -/
theorem Follows.ngl_mem {s t : State} {i o : Nat} (h : Follows s i .ngl o t) : t.mem = s.mem := by
  cases h with
  | none => rfl
  | portTurns f _ => rfl
  | ident o f _ r => exact portSend_same .mem ..

/-! ### The statement, clause by clause -/

theorem registerWrite_rw {s : State} {p : Pg} {i o : Nat} {off : Word} (r : Requester) (v : Word) (hoff : off.toNat = pageBase p i + o)
    (h : regReaches s p i o) (ha : regAcc p o = .rw) (hr : regRule s p o v = stOK) :
    ∃ t, exec (.registerWrite r off v) s = .next t ∧ pgGet t p i o = v &&& regMask p o
      ∧ t.mem.bytes = s.mem.bytes ∧ t.mem.work = s.mem.work ∧ t.mem.tensors = s.mem.tensors ∧ t.arr = s.arr := by
  have hcalm := afterWrite_regTaken_calm s p i o v
  simp only [State.calm, Prod.mk.injEq] at hcalm
  obtain ⟨-, harr, hbytes, hwork, htensors, -⟩ := hcalm
  refine ⟨_, congrArg Host.Outcome.next ?_, afterWrite_regTaken_register s p i o v, hbytes, hwork, htensors, harr⟩
  rw [hoff, regRow_rw_accepted v h ha hr]

theorem registerWrite_w1s {s : State} {p : Pg} {i o : Nat} {off : Word} (r : Requester) (v : Word) (hoff : off.toNat = pageBase p i + o)
    (h : regReaches s p i o) (ha : regAcc p o = .w1s) :
    ∃ t, exec (.registerWrite r off v) s = .next t ∧ pgGet t p i 0x10 = pgGet s p i 0x10 ||| (v &&& p.intMask)
      ∧ t.mem = s.mem ∧ t.arr = s.arr := by
  refine ⟨setInt s p i (v &&& p.intMask), congrArg Host.Outcome.next ?_, ?_, setInt_same .mem .., setInt_same .arr ..⟩
  · rw [hoff, regRow_w1s v h ha]
  · exact (setInt_same (.regGet _) ..).trans (pgGet_pgSet_self ..)

theorem regAcc_intClr {p : Pg} (h : p.intMask ≠ 0) : regAcc p 0x18 = .w1c := if_neg h

theorem intClr_clears {s : State} {p : Pg} {i : Nat} {page : Word} (r : Requester) (v : Word) (hpage : page.toNat = pageBase p i)
    (h : regReaches s p i 0x18) (hm : p.intMask ≠ 0) :
    ∃ t, exec (.intClr r page v) s = .next t ∧ pgGet t p i 0x10 = pgGet s p i 0x10 &&& ~~~v ∧ t.mem = s.mem ∧ t.arr = s.arr := by
  have hbase : page.toNat / 0x1000 * 0x1000 = pageBase p i := by
    have := pageBase_mod p i
    omega
  refine ⟨_, congrArg Host.Outcome.next ?_, pgGet_pgSet_self .., rfl, rfl⟩
  rw [hbase, regRow_w1c v h (regAcc_intClr hm)]

theorem hstIrqResend_marks {s : State} (r : Requester) (v : Word) (h : regReaches s .hst 0 0x188) (hv : v.getLsbD 0 = true)
    (hc : pgGet s .hst 0 0x12c ≠ 0) :
    ∃ t, exec (.hstIrqResend r v) s = .next t ∧ t.mem = s.mem ∧ t.arr = s.arr ∧ t.regs = s.regs
      ∧ ∀ e ∈ intPages s, irqRouted s e.1 = true → pageBase e.1 e.2 ∈ t.irq := by
  refine ⟨markPages s, congrArg Host.Outcome.next (regRow_irqResend v h hv hc), ?_, ?_, ?_, markPages_marks hc⟩ <;>
    simp only [markPages, if_neg hc]

theorem nglExpWrite_taken {s : State} (r : Requester) (p : Fin 6) (w : Fin 3) (v : Word) (h : regReaches s .ngl p (0x100 + 4 * w))
    (hd : s.seq.dev ≠ .running) :
    ∃ t, exec (.nglExpWrite r p w v) s = .next t ∧ pgGet t .ngl p (0x100 + 4 * w) = v &&& regMask .ngl (0x100 + 4 * w)
      ∧ t.mem = s.mem ∧ t.arr = s.arr := by
  have hr : regRule s .ngl (0x100 + 4 * w) v = stOK := by simp [regRule_nglExp, hd]
  have hcalm := afterWrite_regTaken_calm s .ngl p (0x100 + 4 * w) v
  simp only [State.calm, Prod.mk.injEq] at hcalm
  obtain ⟨-, harr, -⟩ := hcalm
  refine ⟨_, congrArg Host.Outcome.next ?_, afterWrite_regTaken_register s .ngl p (0x100 + 4 * w) v,
    (afterWrite_follows ..).ngl_mem.trans (regTaken_same .mem ..), harr⟩
  rw [Nat.add_assoc, regRow_rw_accepted v h (regAcc_nglExp w) hr]

theorem nglExpWrite_running {s : State} (r : Requester) (p : Fin 6) (w : Fin 3) (v : Word) (h : regReaches s .ngl p (0x100 + 4 * w))
    (hd : s.seq.dev = .running) : exec (.nglExpWrite r p w v) s = .next s := by
  have hr : regRule s .ngl (0x100 + 4 * w) v ≠ stOK := by
    rw [regRule_nglExp, hd]
    decide
  refine congrArg Host.Outcome.next ?_
  rw [Nat.add_assoc, regRow_rw_rejected v h (regAcc_nglExp w) hr]

/-- Settles O50, clause by clause: a write of an RW register keeps the host side quiet, so that what may go on after it
changes nothing, and what its register sets off leaves the register, the tensors and the arrays as they are. -/
theorem registersAreWritten : Obligations.RegistersAreWritten := by
  intro r v s
  refine ⟨fun p i o off hoff h ha => ⟨registerWrite_rw r v hoff h ha, fun hr => ?_⟩,
    fun p i o off hoff h => ⟨fun ha => ?_, registerWrite_w1s r v hoff h⟩,
    fun p i page hpage h hm => intClr_clears r v hpage h hm, hstIrqResend_marks r v,
    fun p w h => ⟨nglExpWrite_taken r p w v h, nglExpWrite_running r p w v h⟩⟩
  · exact congrArg Host.Outcome.next (by rw [hoff, regRow_rw_rejected v h ha hr])
  · exact congrArg Host.Outcome.next (by rw [hoff, regRow_ro v h ha])

end Sys2Proof.Machine
end

section
/-! SUPPORT. The checks of an operand form and the frames of the commands that carry one: when the checks answer OK, that
a form with another status is refused, and that an array runs a form that passes. -/

namespace Sys2Proof.Machine

/-! ### The status of a list of checks (R18, R478) -/

/-- Of two statuses the one that R18 answers; of equal rank the first. -/
def pickTwo (a c : Half) : Half := if c = stOK then a else if a = stOK then c else if stRank c < stRank a then c else a

theorem pickTwo_eq_ok {a c : Half} : pickTwo a c = stOK ↔ a = stOK ∧ c = stOK := by
  unfold pickTwo
  by_cases hc : c = stOK
  · rw [if_pos hc]
    exact ⟨fun ha => ⟨ha, hc⟩, And.left⟩
  · by_cases ha : a = stOK
    · rw [if_neg hc, if_pos ha]
      exact ⟨fun h => absurd h hc, And.right⟩
    · rw [if_neg hc, if_neg ha]
      refine ⟨fun h => ?_, fun h => absurd h.1 ha⟩
      split at h
      · exact absurd h hc
      · exact absurd h ha

theorem pickStatus_eq_foldl (l : List Half) : pickStatus l = l.foldl pickTwo stOK := rfl

theorem foldl_pickTwo_eq_ok (l : List Half) (a : Half) : l.foldl pickTwo a = stOK ↔ a = stOK ∧ ∀ c ∈ l, c = stOK := by
  induction l generalizing a with
  | nil => simp
  | cons c l ih => simp only [List.foldl_cons, ih, pickTwo_eq_ok, List.forall_mem_cons, and_assoc]

theorem pickStatus_eq_ok {l : List Half} : pickStatus l = stOK ↔ ∀ c ∈ l, c = stOK := by
  simp [pickStatus_eq_foldl, foldl_pickTwo_eq_ok]

theorem pickStatus_append_of_ok {l : List Half} (m : List Half) (h : pickStatus l = stOK) : pickStatus (l ++ m) = pickStatus m := by
  rw [pickStatus_eq_foldl] at h
  rw [pickStatus_eq_foldl, List.foldl_append, h, pickStatus_eq_foldl]

theorem pickStatus_append_eq_ok {l m : List Half} : pickStatus (l ++ m) = stOK ↔ pickStatus l = stOK ∧ pickStatus m = stOK := by
  simp only [pickStatus_eq_ok, List.forall_mem_append]

/-! ### The frame under which an array instruction runs (R58) -/

section
variable (a : Fin 768) (i : ArrInst) (s : State)

theorem exec_ldp : exec (.ldp a i) s = arrExec 1 a i (ldpEffect a i) s := rfl
theorem exec_mmf : exec (.mmf a i) s = mmExec 2 true a i s := rfl
theorem exec_mmt : exec (.mmt a i) s = mmExec 3 false a i s := rfl
theorem exec_drn (amb : Nat) : exec (.drn a ⟨i, amb⟩) s = arrExec 4 a i (drnEffect a i amb) s := rfl
theorem exec_syn (p : Nat) : exec (.syn a ⟨i, p⟩) s = arrExec 5 a i (fun _ => arrArrive a i.count.toNat p) s := rfl
theorem exec_loop : exec (.loop a i) s = arrExec 6 a i (fun _ => loopEffect a i) s := rfl
theorem exec_next : exec (.next a i) s = arrExec 7 a i (fun _ => nextEffect a i) s := rfl
theorem exec_endA (p : Nat) : exec (.endA a ⟨i, p⟩) s = arrExec 8 a i (fun _ => arrArrive a 0 p) s := rfl

end

/-! ### A form that its checks reject (R57, R162, R185, R241, R285, R313) -/

/-- What every frame of an operand form does with a status other than OK. -/
theorem refused_of_status {x st : Half} (h : x = st) (hst : st ≠ 0) (run : Host.Outcome State Fault Refusal) :
    (match x with
      | 0 => run
      | st => .refused (.rejectedAtLoad st)) = .refused (.rejectedAtLoad st) := by
  subst h
  split
  · exact absurd rfl hst
  · rfl

section
variable {op : Nat} {s : State} {st : Half}

theorem arrExec_of_rejected (a : Nat) (i : ArrInst) (eff : Fmt → State → State)
    (h : pickStatus (arrCheck op i (progLayers s) (progWeirs s)) = st) (hst : st ≠ 0) :
    arrExec op a i eff s = .refused (.rejectedAtLoad st) :=
  refused_of_status h hst _

theorem mmExec_of_rejected (fwd : Bool) (a : Nat) (i : ArrInst) (h : pickStatus (mmCheck op a i s) = st) (hst : st ≠ 0) :
    mmExec op fwd a i s = .refused (.rejectedAtLoad st) :=
  refused_of_status h hst _

theorem rowExec_of_rejected (a : Nat) (d : RowDesc) (amb : Nat) (h : pickStatus (rowCheck op d) = st) (hst : st ≠ 0) :
    rowExec op a d amb s = .refused (.rejectedAtLoad st) :=
  refused_of_status h hst _

theorem streamExec_of_rejected (k : Nat) (i : StreamInst) (more : List Half) (eff : State → State)
    (h : pickStatus (streamCheck k op i (progLayers s) (progWeirs s) ++ more) = st) (hst : st ≠ 0) :
    streamExec op k i more eff s = .refused (.rejectedAtLoad st) :=
  refused_of_status h hst _

theorem dmaExec_of_rejected (e : Nat) (idx : BitVec 24) (d : DmaDesc) (amb : List Nat)
    (h : pickStatus (dmaCheck op d ++ dmaCheckMem op d s) = st) (hst : st ≠ 0) :
    dmaExec op e idx d amb s = .refused (.rejectedAtLoad st) :=
  refused_of_status h hst _

theorem execDmaCopy_of_rejected (e : Fin 96) (idx : BitVec 24) (d : DmaDesc) (errs : List RowErr)
    (h : pickStatus (dmaCheck 1 d ++ dmaCheckMem 1 d s) = st) (hst : st ≠ 0) :
    execDmaCopy e idx d errs s = .refused (.rejectedAtLoad st) :=
  refused_of_status h hst _

theorem updExec_of_rejected (u : Nat) (idx : BitVec 24) (d : UpdDesc)
    (h : pickStatus (updCheck op d (progLayers s) ++ updCheckMem s op d (updRule s d) (updWideNum s d)) = st) (hst : st ≠ 0) :
    updExec op u idx d s = .refused (.rejectedAtLoad st) :=
  refused_of_status h hst _

theorem cflExec_of_rejected (idx : BitVec 24) (d : CflDesc)
    (h : pickStatus (cflCheck op d (hasLcu s) ++ cflCheckMem s op d (reachD s) (myIndex s)) = st) (hst : st ≠ 0) :
    cflExec op idx d s = .refused (.rejectedAtLoad st) :=
  refused_of_status h hst _

end

/-- A device without link compression units answers its capability before the counter of the form (R18, R313). -/
theorem pickStatus_drain {b : Bool} (lcu : Bool) (h : b = false) :
    pickStatus (chk (!b) stField ++ chk (!lcu) stCap) = if lcu = true then stField else stCap := by
  subst h
  cases lcu <;> decide

theorem execDrain_of_rejected (p : Fin 6) (idx : BitVec 24) {ev : Byte} (s : State) (h : ¬ (ev = 0xff ∨ (32 ≤ ev.toNat ∧ ev.toNat < 64))) :
    execDrain p idx ev s = .refused (.rejectedAtLoad (if hasLcu s = true then stField else stCap)) := by
  have hev : (decide (ev = 0xff) || decide (32 ≤ ev.toNat) && decide (ev.toNat < 64)) = false := by simpa using h
  refine refused_of_status (pickStatus_drain (hasLcu s) hev) ?_ _
  cases hasLcu s <;> decide

/-! ### The pairing of a product instruction (R38, R481) -/

theorem mmPairs_of_not_pairOk {s : State} {a : Nat} {i : ArrInst} {p f : Fmt}
    (hp : fmtOfCode (aget (fun _ => ({} : PlaneInfo)) (arrGet s a).planes i.plane.toNat).fmt = some p)
    (hf : fmtOfCode i.fmt.toNat = some f) (h : pairOk p f = false) : mmPairs s a i = false := by
  simp only [mmPairs, hp, hf, h, Bool.false_and]

theorem mmPairs_of_pairOk {s : State} {a : Nat} {i : ArrInst} {p f : Fmt}
    (hp : fmtOfCode (aget (fun _ => ({} : PlaneInfo)) (arrGet s a).planes i.plane.toNat).fmt = some p)
    (hf : fmtOfCode i.fmt.toNat = some f) (h : pairOk p f = true) (hmax : i.plane.toNat ≤ planeMax p) : mmPairs s a i = true := by
  simp only [mmPairs, hp, hf, h, hmax, Bool.true_and, decide_true]

theorem mmCheck_of_not_pairs {s : State} {op a : Nat} {i : ArrInst} (h : pickStatus (arrCheck op i (progLayers s) (progWeirs s)) = 0)
    (hr : arrRuns s a = true) (hn : mmPairs s a i = false) : pickStatus (mmCheck op a i s) = stFmt := by
  unfold mmCheck
  rw [pickStatus_append_of_ok _ h, hr, hn]
  rfl

theorem mmCheck_of_pairs {s : State} {op a : Nat} {i : ArrInst} (h : pickStatus (arrCheck op i (progLayers s) (progWeirs s)) = 0)
    (hp : mmPairs s a i = true) : pickStatus (mmCheck op a i s) = 0 := by
  unfold mmCheck
  rw [pickStatus_append_of_ok _ h, hp, Bool.not_true, Bool.and_false]
  rfl

/-! ### The statement -/

/-- Settles O13: every frame refuses what its checks reject, and a product instruction's own checks are the first part of
those with its pairing. -/
theorem rejectedFormsNeverRun : Obligations.RejectedFormsNeverRun := by
  refine ⟨?array, ?product, ?row, ?stream, ?dma, ?update, ?confluence, ?drain⟩
  case array =>
    rintro a i n s c op st (⟨rfl, rfl⟩ | ⟨rfl, rfl⟩ | ⟨rfl, rfl⟩ | ⟨rfl, rfl⟩ | ⟨rfl, rfl⟩ | ⟨rfl, rfl⟩) h hst
    · exact (exec_ldp ..).trans (arrExec_of_rejected _ _ _ h hst)
    · exact (exec_drn ..).trans (arrExec_of_rejected _ _ _ h hst)
    · exact (exec_syn ..).trans (arrExec_of_rejected _ _ _ h hst)
    · exact (exec_loop ..).trans (arrExec_of_rejected _ _ _ h hst)
    · exact (exec_next ..).trans (arrExec_of_rejected _ _ _ h hst)
    · exact (exec_endA ..).trans (arrExec_of_rejected _ _ _ h hst)
  case product =>
    intro a i s c op hc
    have refuse : ∀ st, pickStatus (mmCheck op a i s) = st → st ≠ 0 → exec c s = .refused (.rejectedAtLoad st) := by
      rcases hc with ⟨rfl, rfl⟩ | ⟨rfl, rfl⟩
      · exact fun st h hst => (exec_mmf ..).trans (mmExec_of_rejected _ _ _ h hst)
      · exact fun st h hst => (exec_mmt ..).trans (mmExec_of_rejected _ _ _ h hst)
    refine ⟨refuse, fun h hmm => h (pickStatus_append_eq_ok.mp hmm).1, fun p f h hr hp hf hpair => ?_⟩
    exact refuse stFmt (mmCheck_of_not_pairs h hr (mmPairs_of_not_pairOk hp hf hpair)) (by decide)
  case row =>
    rintro a d n s c op st (⟨rfl, rfl⟩ | ⟨rfl, rfl⟩ | ⟨rfl, rfl⟩ | ⟨rfl, rfl⟩ | ⟨rfl, rfl⟩ | ⟨rfl, rfl⟩) h hst <;>
      exact rowExec_of_rejected _ _ _ h hst
  case stream =>
    rintro k i s c op more st (⟨rfl, rfl, rfl⟩ | ⟨rfl, rfl, rfl⟩ | ⟨rfl, rfl, rfl⟩ | ⟨rfl, rfl, rfl⟩ | ⟨rfl, rfl, rfl⟩ | ⟨rfl, rfl, rfl⟩
      | ⟨rfl, rfl, rfl⟩) h hst <;> exact streamExec_of_rejected _ _ _ _ h hst
  case dma =>
    rintro e idx d errs amb s c op st (⟨rfl, rfl⟩ | ⟨rfl, rfl⟩ | ⟨rfl, rfl⟩ | ⟨rfl, rfl⟩ | ⟨rfl, rfl⟩) h hst
    · exact execDmaCopy_of_rejected _ _ _ _ h hst
    all_goals exact dmaExec_of_rejected _ _ _ _ h hst
  case update =>
    rintro u idx d s c op st (⟨rfl, rfl⟩ | ⟨rfl, rfl⟩) h hst <;> exact updExec_of_rejected _ _ _ h hst
  case confluence =>
    rintro idx d s c op st (⟨rfl, rfl⟩ | ⟨rfl, rfl⟩ | ⟨rfl, rfl⟩ | ⟨rfl, rfl⟩) h hst <;> exact cflExec_of_rejected _ _ h hst
  case drain => exact fun p idx _ s h => execDrain_of_rejected p idx s h

end Sys2Proof.Machine
end

section
/-! SUPPORT. The array instructions that pass their checks: the frame under which one runs, the loops, and the arrivals with
their crossings. -/

namespace Sys2Proof.Machine

/-! ### The frame of a form that passes -/

section
variable {s : State} {a op : Nat} {i : ArrInst}

theorem arrExec_of_mayRun (h : arrMayRun s a op i) (eff : Fmt → State → State) :
    arrExec op a i eff s = .next (eff ((fmtOfCode i.fmt.toNat).getD .f32) s) := by
  obtain ⟨hat, hok⟩ := h
  unfold arrExec
  rw [hok]
  exact if_pos hat

theorem mmExec_of_mayRun (h : arrMayRun s a op i) (hp : mmPairs s a i = true) (fwd : Bool) :
    mmExec op fwd a i s = .next (mmEffect fwd a i ((fmtOfCode i.fmt.toNat).getD .f32) s) := by
  obtain ⟨hat, hok⟩ := h
  unfold mmExec
  rw [mmCheck_of_pairs hok hp]
  exact if_pos hat

/-- LDP and DRN name a format of Table 3.1 (Table 2.9). -/
theorem fmtOfCode_of_mayRun (h : arrMayRun s a op i) (hop : op = 1 ∨ op = 4) : ∃ f, fmtOfCode i.fmt.toNat = some f := by
  cases hf : fmtOfCode i.fmt.toNat with
  | some f => exact ⟨f, rfl⟩
  | none =>
    have hmem : stFmt ∈ arrCheck op i (progLayers s) (progWeirs s) := by
      rcases hop with rfl | rfl <;> simp [arrCheck, hf, chk]
    exact absurd (pickStatus_eq_ok.mp h.2 _ hmem) (by decide)

end

/-! ### Loops (R56, R160) -/

theorem loopEffect_eq (a : Nat) (i : ArrInst) (s : State) : loopEffect a i s = arrSet s a
    { arrGoto (arrGet s a) (if i.count = 0 then i.target.toNat else (arrGet s a).pc + 1) with
      lctr := (arrGet s a).lctr.set i.lctr.toNat i.count.toNat } := by
  unfold loopEffect arrMod
  by_cases h : i.count = 0 <;> simp only [h, if_true, if_false] <;> rfl

theorem nextEffect_eq (a : Nat) (i : ArrInst) (s : State) : nextEffect a i s = arrSet s a
    { arrGoto (arrGet s a) (if (arrGet s a).lctr.getD i.lctr.toNat 0 ≤ 1 then (arrGet s a).pc + 1 else i.target.toNat) with
      lctr := (arrGet s a).lctr.set i.lctr.toNat ((arrGet s a).lctr.getD i.lctr.toNat 0 - 1) } := by
  unfold nextEffect arrMod
  simp only [Nat.sub_eq_zero_iff_le]
  by_cases h : (arrGet s a).lctr.getD i.lctr.toNat 0 ≤ 1 <;> simp only [h, if_true, if_false] <;> rfl

/-- Settles O7: each instruction is its equation on an array that may run it. -/
theorem loopAndNext : Obligations.LoopAndNext := by
  refine fun a i s => ⟨fun h => ?_, fun h => ?_, fun r n => rfl⟩
  · rw [exec_loop, arrExec_of_mayRun h, loopEffect_eq]
  · rw [exec_next, arrExec_of_mayRun h, nextEffect_eq]

/-! ### Crossings (R473) -/

theorem isDone_done {p : Pg} {i o : Nat} (hp : tstDone p = some o) (hi : i < p.count) (ho : o < 0x1000) :
    isDone (pageBase p i + o) = true := by
  simp [isDone, pageOf_pageBase p i o hi ho, pageBase_add_mod p i ho, hp]

/-- A reading of the state on which the crossings of a page have no bearing: their count, those delayed, and the number that
is free. -/
structure CrossingBlind {β : Type} (g : State → β) : Prop where
  count : ∀ s p i n, g (bump s p i 0x090 n) = g s
  done : ∀ s p i n, tstDone p = some 0x090 → i < p.count → g (tstCount s p i 0x090 n) = g s
  drawn : ∀ s n, g { s with drawn := n } = g s

theorem CrossingBlind.arr : CrossingBlind State.arr := ⟨fun _ _ _ _ => rfl, fun _ _ _ _ _ _ => rfl, fun _ _ => rfl⟩
theorem CrossingBlind.mem : CrossingBlind State.mem := ⟨fun _ _ _ _ => rfl, fun _ _ _ _ _ _ => rfl, fun _ _ => rfl⟩
theorem CrossingBlind.seq : CrossingBlind State.seq := ⟨fun _ _ _ _ => rfl, fun _ _ _ _ _ _ => rfl, fun _ _ => rfl⟩

theorem CrossingBlind.regGet {off : Nat} (h : isDone off = false) : CrossingBlind (regGet · off) := by
  refine ⟨fun _ _ _ _ => rfl, fun s p i n hp hi => regGet_pgSet_ne s fun e => ?_, fun _ _ => rfl⟩
  rw [e, isDone_done hp hi (by decide)] at h
  cases h

theorem CrossingBlind.ctr {k : Nat} (h : k % 0x1000 ≠ 0x090) : CrossingBlind (fun s => aget ctrReset s.ctr k) := by
  refine ⟨fun s p i n => aget_aset_ne _ _ _ fun e => h ?_, fun _ _ _ _ _ _ => rfl, fun _ _ => rfl⟩
  rw [e, pageBase_add_mod p i (by decide)]

section
variable {β : Type} {g : State → β} (hg : CrossingBlind g) {p : Pg} {i : Nat} (hp : tstDone p = some 0x090) (hi : i < p.count)
include hg hp hi

theorem crossing_same (s : State) : g (crossing p i s) = g s := by
  unfold crossing
  dsimp only
  split
  · rw [hg.done _ _ _ _ hp hi, hg.count]
  · exact hg.count ..

theorem crossings_same (s : State) : g (crossings p i s) = g s := by
  unfold crossings draw
  split
  · exact (hg.done _ _ _ _ hp hi).trans (hg.drawn ..)
  · rfl

end

/-! ### Arrivals (R60, R243, R246) -/

/-- Array `a` stands at weir `w` with the eddy level of its last products, and at no more than its clock without boost. -/
def arrStands (a w p : Nat) (s : State) : State :=
  reguMod (arrMod s a (fun r => { r with st := .atWeir, weir := some w, eddy := eddyLevel (min p r.products) })) a
    (fun r => { r with boost := 0 })

@[simp] theorem arrGet_reguMod (s : State) (a b : Nat) (f : Regu → Regu) : arrGet (reguMod s a f) b = arrGet s b := rfl

theorem arrGet_arrStands (a w p : Nat) (s : State) : arrGet (arrStands a w p s) a =
    { arrGet s a with st := .atWeir, weir := some w, eddy := eddyLevel (min p (arrGet s a).products) } := by
  rw [arrStands, arrGet_reguMod, arrGet_arrMod_self]

theorem arrGet_arrStands_ne {a b : Nat} (w p : Nat) (s : State) (h : b ≠ a) : arrGet (arrStands a w p s) b = arrGet s b := by
  rw [arrStands, arrGet_reguMod, arrGet_arrMod_ne s _ h]

/-- An array without a slot makes no arrival that a weir counts. -/
theorem arrArrive_of_no_slot {a : Nat} (w p : Nat) {s : State} (h : (arrGet s a).slot = none) : arrArrive a w p s = arrStands a w p s := by
  have hslot : arrSlot (arrStands a w p s) a = none := by rw [arrSlot, arrGet_arrStands, h]; rfl
  unfold arrStands at hslot ⊢
  simp only [arrArrive, hslot]

theorem arrArrive_of_slot {a k : Nat} (w p : Nat) {s : State} (h : (arrGet s a).slot = some k) : arrArrive a w p s =
    crossing .seqT (tileOf a) (crossings .row a (crossings .arr a (arriveAt (arrStands a w p s) w (tileOf a * 184 + k)))) := by
  have hslot : arrSlot (arrStands a w p s) a = some (tileOf a * 184 + k) := by rw [arrSlot, arrGet_arrStands, h]; rfl
  unfold arrStands at hslot ⊢
  simp only [arrArrive, hslot]

/-- Past its arrival an array makes crossings of its page, its row engine's and its tile sequencer's alone. -/
theorem arrArrive_crossings {β : Type} {g : State → β} (hg : CrossingBlind g) (a : Fin 768) {k : Nat} (w p : Nat) {s : State}
    (h : (arrGet s a).slot = some k) : g (arrArrive a w p s) = g (arriveAt (arrStands a w p s) w (tileOf a * 184 + k)) := by
  have htile : tileOf a < 4 := by unfold tileOf; omega
  rw [arrArrive_of_slot w p h, crossing_same hg (p := .seqT) rfl htile, crossings_same hg (p := .row) rfl a.isLt,
    crossings_same hg (p := .arr) rfl a.isLt]

/-- An arrival is the array's standing at the weir, for every reading that sees neither crossings nor arrivals. -/
theorem arrArrive_same {β : Type} {g : State → β} (hg : CrossingBlind g) (ha : ∀ s w p, g (arriveAt s w p) = g s) (a : Fin 768) (w p : Nat)
    (s : State) : g (arrArrive a w p s) = g (arrStands a w p s) := by
  cases h : (arrGet s a).slot with
  | none => rw [arrArrive_of_no_slot w p h]
  | some k => rw [arrArrive_crossings hg a w p h, ha]

theorem arrivals_arriveAt (s : State) (w p : Nat) : arrivals (arriveAt s w p) w p = arrivals s w p + 1 := aget_aset_self ..

theorem arrivals_arrArrive (a : Fin 768) {k : Nat} (w p : Nat) {s : State} (h : (arrGet s a).slot = some k) :
    arrivals (arrArrive a w p s) w (tileOf a * 184 + k) = arrivals s w (tileOf a * 184 + k) + 1 := by
  unfold arrivals
  rw [arrArrive_crossings .seq a w p h]
  exact arrivals_arriveAt ..

/-- Settles O8: the array stands at its weir, and the crossings of its arrival touch their own registers and counters
alone. -/
theorem arraysArriveAtWeirs : Obligations.ArraysArriveAtWeirs := by
  intro a i s c w P hc
  have hexec : exec c s = .next (arrArrive a w P s) := by
    rcases hc with ⟨rfl, rfl, h⟩ | ⟨rfl, rfl, h⟩
    · rw [exec_syn, arrExec_of_mayRun h]
    · rw [exec_endA, arrExec_of_mayRun h]
  have harr : (arrArrive a w P s).arr = (arrStands a w P s).arr := arrArrive_same .arr (fun _ _ _ => rfl) a w P s
  refine ⟨_, _, hexec, rfl, ?_, fun b hb => ?_, arrArrive_same .mem (fun _ _ _ => rfl) a w P s,
    fun off hoff => arrArrive_same (.regGet hoff) (fun _ _ _ => rfl) a w P s,
    fun k hk => arrArrive_same (.ctr hk) (fun _ _ _ => rfl) a w P s, fun k hk => arrivals_arrArrive a w P hk⟩
  · exact (congrArg (aget _ · a.val) harr).trans (arrGet_arrStands ..)
  · exact (congrArg (aget _ · b) harr).trans (arrGet_arrStands_ne w P s hb)

end Sys2Proof.Machine
end

section
/-! SUPPORT. What the sending of frames to the host, the interrupts and the counts of an instruction leave as it is: every
counter but those of the host page, and the arrays and memory. -/

namespace Sys2Proof.Machine

/-! ### Counters -/

theorem ctr_bump_ne (s : State) {p : Pg} {i o k : Nat} (n : Nat) (h : k ≠ pageBase p i + o) :
    aget ctrReset (bump s p i o n).ctr k = aget ctrReset s.ctr k := aget_aset_ne _ _ _ h

theorem ctrGet_bump_ne (s : State) (p : Pg) (i : Nat) {o k : Nat} (n : Nat) (h : k ≠ o) :
    ctrGet (bump s p i o n) p i k = ctrGet s p i k := ctr_bump_ne s n (by omega)

/-! ### Frames for the host (R336, R454) -/

/-- A reading of the state on which frames for the host, the counters of the host page and pending marks have no bearing; unlike
an `InterruptBlind` one it may see the counters of the other pages. -/
structure HostPageBlind {β : Type} (g : State → β) : Prop where
  hst : ∀ s h, g { s with hst := h } = g s
  ctr : ∀ s o n, g (bump s .hst 0 o n) = g s
  wire : ∀ s m, g (send s m) = g s
  irq : ∀ s l, g { s with irq := l } = g s

/-- A counter of a page below the host's is such a reading. -/
theorem HostPageBlind.ctrBelow {k : Nat} (h : k < pageBase .hst 0) : HostPageBlind (fun s => aget ctrReset s.ctr k) :=
  ⟨fun _ _ => rfl, fun s o n => ctr_bump_ne s n (by omega), fun _ _ => rfl, fun _ _ => rfl⟩

namespace HostPageBlind

variable {β : Type} {g : State → β} (hg : HostPageBlind g)
include hg

theorem peerSet (s : State) (p : HctPeer) (r : Peer) : g (peerSet s p r) = g s := by
  cases p <;> exact hg.hst ..

theorem solicitPeer (s : State) (p : HctPeer) : g (solicitPeer s p) = g s := by
  unfold Machine.solicitPeer solicitAddr sendSolicit holdNd
  split
  · rfl
  · split
    · rw [hg.wire, hg.hst]
    · rw [hg.hst, hg.hst]

theorem sendAck (s : State) (p : HctPeer) : g (sendAck s p) = g s := by
  unfold Machine.sendAck
  dsimp only
  split
  · exact hg.peerSet ..
  · split
    · rw [hg.solicitPeer, hg.peerSet]
    · rw [hg.wire, hg.ctr, hg.peerSet]

theorem sendSync (s : State) : g (sendSync s) = g s := by
  unfold Machine.sendSync
  dsimp only
  split
  · exact hg.hst ..
  · split
    · rw [hg.solicitPeer, hg.hst]
    · rw [hg.wire, hg.ctr, hg.hst]

theorem sendDue (p : HctPeer) (s : State) : g (sendDue p s) = g s := by
  have sync : g (if p == .host && s.hst.syncDue then Machine.sendSync s else s) = g s := by
    split
    · exact hg.sendSync s
    · rfl
  unfold Machine.sendDue
  generalize (if p == .host && s.hst.syncDue then Machine.sendSync s else s) = t at sync ⊢
  dsimp only
  split
  · rw [hg.sendAck, sync]
  · exact sync

theorem pumpFrames (p : HctPeer) (k : Nat) (s : State) : g (pumpFrames p k s) = g s := by
  induction k generalizing s with
  | zero => rfl
  | succ k ih =>
    simp only [Machine.pumpFrames]
    split
    · rfl
    · split
      · rfl
      · split
        · exact hg.solicitPeer ..
        · rw [ih, hg.wire]
          split <;> simp only [hg.ctr, hg.peerSet]

theorem sendFrame (s : State) (p : HctPeer) (f : Frame) : g (sendFrame s p f) = g s := by
  unfold Machine.sendFrame pumpPeer
  split
  · rfl
  · rw [hg.pumpFrames, hg.sendDue, hg.peerSet]

theorem sendIrq (s : State) (es : List (Nat × Word)) : g (sendIrq s es) = g s := by
  unfold Machine.sendIrq
  split
  · exact hg.ctr ..
  · rw [foldl_same g _ (fun s _ => hg.sendFrame s _ _), hg.ctr]

theorem irqTouch (s : State) (p : Pg) (i : Nat) (before : Word) : g (irqTouch s p i before) = g s := by
  unfold Machine.irqTouch
  dsimp only
  split
  · split
    · exact hg.sendIrq ..
    · split
      · rfl
      · exact hg.irq ..
  · rfl

end HostPageBlind

/-- An interrupt moves no counter of a page below the host's. -/
theorem ctr_setInt (s : State) (p : Pg) (i : Nat) (bits : Word) {k : Nat} (h : k < pageBase .hst 0) :
    aget ctrReset (setInt s p i bits).ctr k = aget ctrReset s.ctr k := (HostPageBlind.ctrBelow h).irqTouch ..

/-! ### The arrays and memory -/

@[simp] theorem setInt_arr (s : State) (p : Pg) (i : Nat) (bits : Word) : (setInt s p i bits).arr = s.arr := setInt_same .arr ..
@[simp] theorem setInt_mem (s : State) (p : Pg) (i : Nat) (bits : Word) : (setInt s p i bits).mem = s.mem := setInt_same .mem ..

theorem monFeed_same {β : Type} (g : State → β) (h : ∀ s q, g { s with seq := q } = g s) (s : State) (id : Nat) (xs : List Num) :
    g (monFeed s id xs) = g s := by
  unfold monFeed
  split
  · rfl
  · exact h ..

@[simp] theorem monFeed_arr (s : State) (id : Nat) (xs : List Num) : (monFeed s id xs).arr = s.arr := monFeed_same _ (fun _ _ => rfl) ..
@[simp] theorem monFeed_mem (s : State) (id : Nat) (xs : List Num) : (monFeed s id xs).mem = s.mem := monFeed_same _ (fun _ _ => rfl) ..
@[simp] theorem monFeed_ctr (s : State) (id : Nat) (xs : List Num) : (monFeed s id xs).ctr = s.ctr := monFeed_same _ (fun _ _ => rfl) ..

@[simp] theorem lsAtomics_arr (s : State) (a n amb : Nat) : (lsAtomics s a n amb).arr = s.arr := by
  unfold lsAtomics
  dsimp only
  split
  · rfl
  · exact setInt_arr ..
@[simp] theorem lsAtomics_mem (s : State) (a n amb : Nat) : (lsAtomics s a n amb).mem = s.mem := by
  unfold lsAtomics
  dsimp only
  split
  · rfl
  · exact setInt_mem ..

/-- The two counts of the atomic operations of a local store (Table 2.13). -/
theorem ctrGet_lsAtomics (s : State) (a : Fin 768) (n amb : Nat) :
    ctrGet (lsAtomics s a n amb) .arr a 0xc60 = ctrGet s .arr a 0xc60 + BitVec.ofNat 64 n
    ∧ ctrGet (lsAtomics s a n amb) .arr a 0xc58 = ctrGet s .arr a 0xc58 + BitVec.ofNat 64 (min amb n) := by
  have kept : ∀ o, o < 0x1000 → ctrGet (lsAtomics s a n amb) .arr a o =
      ctrGet (bump (bump s .arr a 0xc60 n) .arr a 0xc58 (min amb n)) .arr a o := by
    intro o ho
    unfold lsAtomics
    dsimp only
    split
    · rfl
    · exact ctr_setInt _ _ _ _ (by simp only [pageBase]; omega)
  constructor
  · rw [kept _ (by decide), ctrGet_bump_ne _ _ _ _ (by decide), ctrGet_bump_self]
  · rw [kept _ (by decide), ctrGet_bump_self, ctrGet_bump_ne _ _ _ _ (by decide)]

/-! ### An instruction that rewrites its array -/

/-- From `s` to `t` array `a` becomes `r`, and every other array and memory are as before. -/
structure ArrayBecomes (s t : State) (a : Nat) (r : Arr) : Prop where
  arr : t.arr = (arrSet s a r).arr
  mem : t.mem = s.mem

theorem ArrayBecomes.self {s t : State} {a : Nat} {r : Arr} (h : ArrayBecomes s t a r) : arrGet t a = r :=
  (congrArg (aget _ · a) h.arr).trans (arrGet_arrSet_self ..)

theorem ArrayBecomes.other {s t : State} {a : Nat} {r : Arr} (h : ArrayBecomes s t a r) {b : Nat} (hb : b ≠ a) :
    arrGet t b = arrGet s b :=
  (congrArg (aget _ · b) h.arr).trans (aget_aset_ne _ _ _ hb)

end Sys2Proof.Machine
end

section
/-! SUPPORT. The instructions that fill the stores of an array: plane loads, product passes and drains. -/

namespace Sys2Proof.Machine

section
variable (r : Arr)

@[simp] theorem arrNext_pc : (arrNext r).pc = r.pc + 1 := rfl
@[simp] theorem arrNext_ls : (arrNext r).ls = r.ls := rfl
@[simp] theorem arrNext_acc : (arrNext r).acc = r.acc := rfl
@[simp] theorem arrNext_cells : (arrNext r).cells = r.cells := rfl
@[simp] theorem arrNext_scales : (arrNext r).scales = r.scales := rfl
@[simp] theorem arrNext_wides : (arrNext r).wides = r.wides := rfl
@[simp] theorem arrNext_planes : (arrNext r).planes = r.planes := rfl
@[simp] theorem arrNext_oslots : (arrNext r).oslots = r.oslots := rfl

end

/-! ### LDP (R40 to R42) -/

theorem ldpEffect_becomes (a : Nat) (i : ArrInst) (f : Fmt) (s : State) : ArrayBecomes s (ldpEffect a i f s) a
    (arrNext (ldpPlane (arrGet s a) f i.fmt.toNat i.plane.toNat i.oslot.toNat
      (readPlane f (lsRead (arrGet s a) (i.addr.toNat * 16) (ldpExtent f))))) := by
  unfold ldpEffect
  dsimp only
  split
  · exact ⟨setInt_arr .., setInt_mem ..⟩
  · exact ⟨rfl, rfl⟩

section
variable (r : Arr) (f : Fmt) (code p oslot : Nat) (img : PImg)

theorem ldpPlane_planes : aget (fun _ => {}) (ldpPlane r f code p oslot img).planes p = { fmt := code, oslot := oslot, nan := img.bad } :=
  aget_aset_self ..

theorem ldpPlane_cells {k n : Nat} (hk : k < 96) (hn : n < 96) : aget (fun _ => 0) (ldpPlane r f code p oslot img).cells (k * 96 + n) =
    ldpCell f p img (img.blocks.any (·.wide)) k n (aget (fun _ => 0) r.cells (k * 96 + n)) := by
  have hdiv : (k * 96 + n) / 96 = k := by omega
  have hmod : (k * 96 + n) % 96 = n := by omega
  refine (aget_asetR ..).trans ?_
  rw [if_pos (by omega), hdiv, hmod]

theorem ldpPlane_wides {b : Nat} (hb : b < 288) :
    aget (fun _ => false) (ldpPlane r f code p oslot img).wides (scalePos f p * 288 + b) = (img.blocks.getD b {}).wide := by
  refine (aget_asetR ..).trans ?_
  rw [if_pos (by omega), Nat.add_sub_cancel_left]

theorem ldpPlane_scales (hf : f.scaled = true) {b : Nat} (hb : b < 288) :
    aget (fun _ => 0) (ldpPlane r f code p oslot img).scales (scalePos f p * 288 + b) = (img.blocks.getD b {}).scale := by
  simp only [ldpPlane, hf, if_true]
  rw [aget_asetR, if_pos (by omega), Nat.add_sub_cancel_left]

theorem ldpPlane_oslots (hf : f.lowBit = true) : aget (fun _ => []) (ldpPlane r f code p oslot img).oslots oslot = img.entries := by
  simp only [ldpPlane, hf, if_true, aget_aset_self]

end

/-- Settles O9: the array becomes the one that the plane load leaves, at the next instruction. -/
theorem ldpLoadsThePlane : Obligations.LdpLoadsThePlane := by
  intro a i s h
  obtain ⟨f, hf⟩ := fmtOfCode_of_mayRun h (.inl rfl)
  have hb := ldpEffect_becomes a i f s
  have hexec : exec (.ldp a i) s = .next (ldpEffect a i f s) := by rw [exec_ldp, arrExec_of_mayRun h, hf, Option.getD_some]
  refine ⟨_, f, hf, hexec, hb.mem, fun b hne => hb.other hne, ?_⟩
  rw [hb.self]
  refine ⟨arrNext_pc _, arrNext_ls _, arrNext_acc _, ?_⟩
  rintro img rfl
  simp only [arrNext_planes, arrNext_cells, arrNext_wides, arrNext_scales, arrNext_oslots]
  exact ⟨ldpPlane_planes .., fun k n hk hn => ldpPlane_cells _ _ _ _ _ _ hk hn, fun b hb => ldpPlane_wides _ _ _ _ _ _ hb,
    fun hs b hb => ldpPlane_scales _ _ _ _ _ _ hs hb, fun hl => ldpPlane_oslots _ _ _ _ _ _ hl⟩

/-! ### Product passes (R43 to R47, R176) -/

/-- A row of a pass rewrites its 96 accumulators and nothing else of the array. -/
theorem passRow_eq (r : Arr) (v : PlaneView) (wide : Bool) (x : SRow) (fwd accum : Bool) (row : Nat) : ∃ acc,
    (passRow r v wide x fwd accum row).1 = { r with acc := acc } ∧ ∀ k, aget (fun _ => 0) acc k =
      if k / 96 = row then (passElem v wide x fwd accum (k % 96) (aget (fun _ => 0) r.acc k)).1 else aget (fun _ => 0) r.acc k := by
  refine ⟨_, rfl, fun k => ?_⟩
  rw [aget_asetR]
  by_cases hk : k / 96 = row
  · have hsub : k - row * 96 = k % 96 := by omega
    have hsum : row * 96 + k % 96 = k := by omega
    have hlt : k % 96 < 96 := Nat.mod_lt _ (by decide)
    rw [if_pos (by omega), if_pos hk, hsub]
    simp [hlt, hsum]
  · rw [if_neg (by omega), if_neg hk]

/-- The rows of a pass whose source is no ring: all of them pass, and row `m` streams what stands at its place in the local
store. -/
theorem passRows_of_no_ring (v : PlaneView) (wide : Bool) (i : ArrInst) (f : Fmt) (fwd : Bool) (hsrc : i.src ≠ 1) (n m : Nat) (r : Arr)
    (c : PassCnt) : ∃ acc c', passRows v wide i f fwd n m r c = ({ r with acc := acc }, c', m + n) ∧ ∀ k, aget (fun _ => 0) acc k =
      if i.acc.toNat + m ≤ k / 96 ∧ k / 96 < i.acc.toNat + m + n then
        (passElem v wide (streamRow r i f (k / 96 - i.acc.toNat)) fwd i.accum (k % 96) (aget (fun _ => 0) r.acc k)).1
      else aget (fun _ => 0) r.acc k := by
  induction n generalizing m r c with
  | zero => exact ⟨r.acc, c, rfl, fun k => (if_neg (by omega)).symm⟩
  | succ n ih =>
    obtain ⟨acc₁, hrow, hacc₁⟩ := passRow_eq r v wide (streamRow r i f m) fwd i.accum (i.acc.toNat + m)
    obtain ⟨acc, c', hrest, hacc⟩ := ih (m + 1) { r with acc := acc₁ } (c.add (passRow r v wide (streamRow r i f m) fwd i.accum (i.acc.toNat + m)).2)
    refine ⟨acc, c', ?_, fun k => ?_⟩
    · simp only [passRows, hsrc, if_false, hrow, hrest]
      rw [Nat.add_right_comm, Nat.add_assoc]
    · have hstream : streamRow { r with acc := acc₁ } i f (k / 96 - i.acc.toNat) = streamRow r i f (k / 96 - i.acc.toNat) := rfl
      rw [hacc k, hacc₁ k, hstream]
      by_cases hk : k / 96 = i.acc.toNat + m
      · rw [if_neg (by omega), if_pos hk, if_pos (by omega), hk, Nat.add_sub_cancel_left]
      · have hrows : (i.acc.toNat + (m + 1) ≤ k / 96 ∧ k / 96 < i.acc.toNat + (m + 1) + n) ↔
            (i.acc.toNat + m ≤ k / 96 ∧ k / 96 < i.acc.toNat + m + (n + 1)) := by omega
        simp only [if_neg hk, hrows]

theorem passRows_ls (v : PlaneView) (wide : Bool) (i : ArrInst) (f : Fmt) (fwd : Bool) (n m : Nat) (r : Arr) (c : PassCnt) :
    (passRows v wide i f fwd n m r c).1.ls = r.ls := by
  induction n generalizing m r c with
  | zero => rfl
  | succ n ih =>
    simp only [passRows]
    split
    · split
      · rw [ih]; rfl
      · rfl
    · rw [ih]; rfl

/-- A pass stops before a ring slot that is not full. -/
theorem passRows_of_not_full (v : PlaneView) (wide : Bool) {i : ArrInst} (f : Fmt) (fwd : Bool) (n m : Nat) {r : Arr} (c : PassCnt)
    (hsrc : i.src = 1) (hfull : (r.rings.getD i.ring.toNat {}).st.getD (r.rings.getD i.ring.toNat {}).head .free ≠ .full) :
    passRows v wide i f fwd n m r c = (r, c, m) := by
  cases n with
  | zero => rfl
  | succ n => simp only [passRows, hsrc, if_true, beq_eq_false_iff_ne.mpr hfull, Bool.false_eq_true, if_false]

/-- Whether a product instruction passes over the wide region of its plane (R41). -/
def passWide (r : Arr) (i : ArrInst) : Bool :=
  (List.range 288).any (fun b => aget (fun _ => false) r.wides ((planeView r i.plane.toNat).pos * 288 + b))
    && (planeView r i.plane.toNat).fmt.lowBit

/-- The rows that a product instruction passes on array `r`. -/
def passed (fwd : Bool) (i : ArrInst) (f : Fmt) (r : Arr) : Arr × PassCnt × Nat :=
  passRows (planeView r i.plane.toNat) (passWide r i) i f fwd (i.rows.toNat - r.mrow) r.mrow r {}

/-- Where a product instruction leaves its array: at the next instruction, or at its ring. -/
def passEnd (fwd : Bool) (i : ArrInst) (f : Fmt) (r : Arr) : Arr :=
  let x := passed fwd i f r
  { (if x.2.2 < i.rows.toNat then { x.1 with mrow := x.2.2, waitRing := some i.ring.toNat } else arrNext x.1) with
    nanSeen := r.nanSeen || decide (0 < x.2.1.nan)
    products := r.products + (x.2.2 - r.mrow) * 9216 * (if passWide r i then 2 else 1) }

theorem mmEffect_becomes (fwd : Bool) (a : Nat) (i : ArrInst) (f : Fmt) (s : State) :
    ArrayBecomes s (mmEffect fwd a i f s) a (passEnd fwd i f (arrGet s a)) := by
  constructor
  · simp only [mmEffect, apply_ite State.arr, setInt_arr, bump_arr, ite_self]
    rfl
  · simp only [mmEffect, apply_ite State.mem, setInt_mem, bump_mem, arrSet_mem, ite_self]

theorem passEnd_ls (fwd : Bool) (i : ArrInst) (f : Fmt) (r : Arr) : (passEnd fwd i f r).ls = r.ls := by
  have h : (passed fwd i f r).1.ls = r.ls := passRows_ls ..
  unfold passEnd
  dsimp only
  split
  · exact h
  · exact h

/-- From a source that is no ring an instruction that has not begun passes all its rows. -/
theorem passEnd_of_no_ring (fwd : Bool) {i : ArrInst} (f : Fmt) {r : Arr} (hsrc : i.src ≠ 1) (hrow : r.mrow = 0) :
    (passEnd fwd i f r).pc = r.pc + 1 ∧ ∀ k, aget (fun _ => 0) (passEnd fwd i f r).acc k =
      if i.acc.toNat ≤ k / 96 ∧ k / 96 < i.acc.toNat + i.rows.toNat then
        (passElem (planeView r i.plane.toNat) (passWide r i) (streamRow r i f (k / 96 - i.acc.toNat)) fwd i.accum (k % 96)
          (aget (fun _ => 0) r.acc k)).1
      else aget (fun _ => 0) r.acc k := by
  obtain ⟨acc, c, hrows, hacc⟩ := passRows_of_no_ring (planeView r i.plane.toNat) (passWide r i) i f fwd hsrc i.rows.toNat 0 r {}
  have hpassed : passed fwd i f r = passRows (planeView r i.plane.toNat) (passWide r i) i f fwd i.rows.toNat 0 r {} := by
    rw [passed, hrow, Nat.sub_zero]
  rw [hrows, Nat.zero_add] at hpassed
  simp only [passEnd, hpassed, Nat.lt_irrefl, if_false]
  exact ⟨rfl, hacc⟩

/-- At a ring slot that is not full an instruction with rows left waits. -/
theorem passEnd_of_not_full (fwd : Bool) {i : ArrInst} (f : Fmt) {r : Arr} (hsrc : i.src = 1) (hrow : r.mrow < i.rows.toNat)
    (hfull : (r.rings.getD i.ring.toNat {}).st.getD (r.rings.getD i.ring.toNat {}).head .free ≠ .full) :
    (passEnd fwd i f r).pc = r.pc ∧ (passEnd fwd i f r).waitRing = some i.ring.toNat ∧ (passEnd fwd i f r).mrow = r.mrow
      ∧ (passEnd fwd i f r).acc = r.acc := by
  have hpassed : passed fwd i f r = (r, {}, r.mrow) := passRows_of_not_full _ _ f fwd _ _ _ hsrc hfull
  simp only [passEnd, hpassed, hrow, if_true, and_self]

/-- Settles O10: a pairing that passes the checks runs, and the array becomes what the pass leaves, from a ring and from any
other source. -/
theorem passesFillTheAccumulator : Obligations.PassesFillTheAccumulator := by
  intro a i s c fwd p f hc hp hf hpair hmax
  have hpairs := mmPairs_of_pairOk hp hf hpair hmax
  have hexec : exec c s = .next (mmEffect fwd a i f s) := by
    rcases hc with ⟨rfl, rfl, h⟩ | ⟨rfl, rfl, h⟩
    · rw [exec_mmf, mmExec_of_mayRun h hpairs, hf, Option.getD_some]
    · rw [exec_mmt, mmExec_of_mayRun h hpairs, hf, Option.getD_some]
  have hb := mmEffect_becomes fwd a i f s
  refine ⟨_, hexec, hb.mem, ?_, fun b hne => hb.other hne, ?_, ?_⟩ <;> rw [hb.self]
  · exact passEnd_ls ..
  · exact fun hsrc hrow => passEnd_of_no_ring fwd f hsrc hrow
  · exact fun hsrc hrow hfull => passEnd_of_not_full fwd f hsrc hrow hfull

/-! ### DRN (R50, R54) -/

/-- The accumulator values of the rows that a drain takes. -/
def drnVals (r : Arr) (i : ArrInst) : List F32 :=
  (List.range (i.rows.toNat * 96)).map (fun j => aget (fun _ => 0) r.acc (i.acc.toNat * 96 + j))

/-- The bytes that a drain leaves in the local store. -/
def drnBytes (r : Arr) (i : ArrInst) (f : Fmt) : List Byte :=
  let vals := drnVals r i
  if f = .f32 then
    (if i.add then (vals.mapIdx (fun j v => leBytes 4 (fadd (BitVec.ofNat 32 (leNat
        (lsRead r (i.addr.toNat * 16 + 4 * j) 4))) v).toNat)).flatten
     else vals.flatMap (fun v => leBytes 4 v.toNat))
  else asmStored f ((List.range (3 * i.rows.toNat)).map (fun b =>
    cnvBlock f (((vals.drop (32 * b)).take 32).map f32V) (fun _ => none)))

theorem drnEffect_becomes (a : Nat) (i : ArrInst) (amb : Nat) (f : Fmt) (s : State) : ArrayBecomes s (drnEffect a i amb f s) a
    (arrNext (lsWrite (arrGet s a) (i.addr.toNat * 16) (drnBytes (arrGet s a) i f))) := by
  by_cases hf : f = .f32
  · subst hf
    cases hadd : i.add <;> constructor <;>
      simp only [drnEffect, drnBytes, drnVals, lsAddF32, hadd, Bool.false_eq_true, if_true, if_false, apply_ite State.arr,
        apply_ite State.mem, monFeed_arr, monFeed_mem, lsAtomics_arr, lsAtomics_mem, arrSet_mem, ite_self]
  · constructor <;>
      simp only [drnEffect, drnBytes, drnVals, hf, if_false, apply_ite State.arr, apply_ite State.mem, monFeed_arr, monFeed_mem,
        arrSet_mem, ite_self]

/-- The counts of a drain that adds (R54). -/
theorem ctrGet_drnEffect (a : Fin 768) {i : ArrInst} (amb : Nat) (s : State) (hadd : i.add = true) :
    ctrGet (drnEffect a i amb .f32 s) .arr a 0xc60 = ctrGet s .arr a 0xc60 + BitVec.ofNat 64 (i.rows.toNat * 96)
    ∧ ctrGet (drnEffect a i amb .f32 s) .arr a 0xc58 = ctrGet s .arr a 0xc58 + BitVec.ofNat 64 (min amb (i.rows.toNat * 96)) := by
  have hctr : (drnEffect a i amb .f32 s).ctr =
      (lsAtomics (arrSet s a (arrNext (lsAddF32 (arrGet s a) (i.addr.toNat * 16) (drnVals (arrGet s a) i)))) a (i.rows.toNat * 96) amb).ctr := by
    simp only [drnEffect, hadd, if_true, apply_ite State.ctr, monFeed_ctr, ite_self]
    rfl
  unfold ctrGet
  rw [hctr]
  exact ctrGet_lsAtomics _ a (i.rows.toNat * 96) amb

theorem lsByte_lsWrite (r : Arr) (k : Nat) (bs : List Byte) (j : Nat) :
    lsByte (lsWrite r k bs) j = if k ≤ j ∧ j < k + bs.length then bs.getD (j - k) 0 else lsByte r j := aget_asetR ..

/-- Settles O11: the array becomes the one with the drained bytes in its local store, at the next instruction. -/
theorem drainWritesTheLocalStore : Obligations.DrainWritesTheLocalStore := by
  intro a i amb s h
  obtain ⟨f, hf⟩ := fmtOfCode_of_mayRun h (.inr rfl)
  have hb := drnEffect_becomes a i amb f s
  have hexec : exec (.drn a ⟨i, amb⟩) s = .next (drnEffect a i amb f s) := by rw [exec_drn, arrExec_of_mayRun h, hf, Option.getD_some]
  refine ⟨_, f, hf, hexec, hb.mem, fun b hne => hb.other hne, ?_⟩
  rw [hb.self]
  refine ⟨arrNext_pc _, arrNext_acc _, ?_, ?_⟩
  · rintro rfl hadd
    exact ctrGet_drnEffect a amb s hadd
  · rintro vals bs rfl rfl k
    exact lsByte_lsWrite ..

end Sys2Proof.Machine
end

section
/-! O60: enc_s8 (R125) gives the nearest code. In a unit that divides both, an F32 and the values of the codes are natural
numbers. The codes' grow strictly, so that the two codes around a value are found by shifting its mantissa, and round to
nearest even picks between them at their midpoint. -/

namespace Sys2Proof.Machine

/-! ### Rounding to nearest even (R86) -/

theorem roundUp_none (q rem den : Nat) :
    roundUp q rem den none = if 2 * rem < den then q else if 2 * rem = den then q + q % 2 else q + 1 := rfl

theorem le_roundUp (q rem den : Nat) : q ≤ roundUp q rem den none := by
  rw [roundUp_none]
  repeat' split
  all_goals omega

/-- An even part of the quotient does not take part in the rounding. -/
theorem roundUp_even_add (j q rem den : Nat) : roundUp (2 * j + q) rem den none = 2 * j + roundUp q rem den none := by
  rw [roundUp_none, roundUp_none]
  repeat' split
  all_goals omega

/-! ### The nearest index of a strictly growing sequence -/

/-- The distance of two natural numbers. -/
def gap (a b : Nat) : Nat := (a - b) + (b - a)

/-- Index `k` is one of `0 … top`, no other of them has a value nearer to `v`, and where another one is as near, `k` is
even. -/
def IsNearestEven (f : Nat → Nat) (top v k : Nat) : Prop :=
  k ≤ top ∧ ∀ c, c ≤ top → c ≠ k → gap v (f k) < gap v (f c) ∨ gap v (f k) = gap v (f c) ∧ k % 2 = 0

section
variable {f : Nat → Nat} (hf : ∀ c, f c < f (c + 1)) {top k v : Nat}
include hf

theorem le_of_step_lt {c k : Nat} (h : c ≤ k) : f c ≤ f k := by
  induction h with
  | refl => exact Nat.le_refl _
  | step _ ih => exact Nat.le_trans ih (Nat.le_of_lt (hf _))

theorem lt_of_step_lt {c k : Nat} (h : c < k) : f c < f k := Nat.lt_of_lt_of_le (hf c) (le_of_step_lt hf h)

/-- An index is the nearest one when `v` lies between the midpoints to its two neighbours. -/
theorem isNearestEven_of_midpoints (hk : k ≤ top)
    (below : ∀ j, j + 1 = k → f j + f k < 2 * v ∨ 2 * v = f j + f k ∧ k % 2 = 0)
    (above : k < top → 2 * v < f k + f (k + 1) ∨ 2 * v = f k + f (k + 1) ∧ k % 2 = 0) : IsNearestEven f top v k := by
  refine ⟨hk, fun c hc hne => ?_⟩
  unfold gap
  rcases Nat.lt_or_gt_of_ne hne with hlt | hgt
  · obtain ⟨j, rfl⟩ : ∃ j, k = j + 1 := ⟨k - 1, by omega⟩
    have hcj : f c ≤ f j := le_of_step_lt hf (by omega)
    have hj := hf j
    rcases below j rfl with h | ⟨h, heven⟩ <;> omega
  · have hkc : f (k + 1) ≤ f c := le_of_step_lt hf hgt
    have hk := hf k
    rcases above (by omega) with h | ⟨h, heven⟩ <;> omega

/-- The lower of two neighbours around `v`: nearest up to their midpoint, and past it when it is the last index. -/
theorem isNearestEven_lower (hk : k ≤ top) (hv : f k ≤ v)
    (above : k < top → 2 * v < f k + f (k + 1) ∨ 2 * v = f k + f (k + 1) ∧ k % 2 = 0) : IsNearestEven f top v k := by
  refine isNearestEven_of_midpoints hf hk (fun j hj => .inl ?_) above
  have hjk : f j < f k := lt_of_step_lt hf (by omega)
  omega

/-- The upper of two neighbours around `v`: nearest from their midpoint on. -/
theorem isNearestEven_upper (hk : k < top) (hv : v < f (k + 1))
    (below : f k + f (k + 1) < 2 * v ∨ 2 * v = f k + f (k + 1) ∧ (k + 1) % 2 = 0) : IsNearestEven f top v (k + 1) := by
  refine isNearestEven_of_midpoints hf hk (fun j hj => ?_) fun _ => .inl ?_
  · obtain rfl : j = k := by omega
    exact below
  · have hk2 := hf (k + 1)
    omega

/-- Rounding up, down or to the even index by the position of `v` between `f k` and `f (k + 1)`, with the last index for
whatever is beyond it, gives the nearest index. -/
theorem isNearestEven_roundUp {rem den u : Nat} (hu : 0 < u) (hrem : rem < den) (hv : v = f k + rem * u)
    (hstep : f (k + 1) = f k + den * u) : IsNearestEven f top v (min (roundUp k rem den none) top) := by
  have hremu : rem * u < den * u := Nat.mul_lt_mul_of_pos_right hrem hu
  have hdouble : 2 * v = 2 * f k + 2 * rem * u := by rw [hv, Nat.mul_add, Nat.mul_assoc]
  rcases Nat.lt_or_ge k top with htop | htop
  · rw [roundUp_none]
    rcases Nat.lt_trichotomy (2 * rem) den with h | h | h
    · have hhalf : 2 * rem * u < den * u := Nat.mul_lt_mul_of_pos_right h hu
      rw [if_pos h, Nat.min_eq_left (Nat.le_of_lt htop)]
      exact isNearestEven_lower hf (Nat.le_of_lt htop) (by omega) fun _ => .inl (by omega)
    · have hhalf : 2 * rem * u = den * u := by rw [h]
      rw [if_neg (by omega), if_pos h, Nat.min_eq_left (by omega)]
      rcases Nat.mod_two_eq_zero_or_one k with heven | hodd
      · rw [show k + k % 2 = k by omega]
        exact isNearestEven_lower hf (Nat.le_of_lt htop) (by omega) fun _ => .inr ⟨by omega, heven⟩
      · rw [show k + k % 2 = k + 1 by omega]
        exact isNearestEven_upper hf htop (by omega) (.inr ⟨by omega, by omega⟩)
    · have hhalf : den * u < 2 * rem * u := Nat.mul_lt_mul_of_pos_right h hu
      rw [if_neg (by omega), if_neg (by omega), Nat.min_eq_left htop]
      exact isNearestEven_upper hf htop (by omega) (.inl (by omega))
  · have hlast : f top ≤ f k := le_of_step_lt hf htop
    rw [Nat.min_eq_right (Nat.le_trans htop (le_roundUp ..))]
    exact isNearestEven_lower hf (Nat.le_refl _) (by omega) fun h => absurd h (Nat.lt_irrefl _)

theorem IsNearestEven.eq_zero_of_lt (h : IsNearestEven f top v k) (hv : v < f 0) : k = 0 := by
  refine Decidable.byContradiction fun hk => ?_
  have h0 : f 0 < f k := lt_of_step_lt hf (Nat.pos_of_ne_zero hk)
  have hnear := h.2 0 (Nat.zero_le _) (Ne.symm hk)
  unfold gap at hnear
  omega

theorem IsNearestEven.eq_top_of_lt (h : IsNearestEven f top v k) (hv : f top < v) : k = top := by
  refine Decidable.byContradiction fun hk => ?_
  have htop : f k < f top := lt_of_step_lt hf (Nat.lt_of_le_of_ne h.1 hk)
  have hnear := h.2 top (Nat.le_refl _) (Ne.symm hk)
  unfold gap at hnear
  omega

end

/-! ### The values of the S8 codes (R74) -/

/-- The value of an S8 code in units of `2^-(38+j)`. -/
def s8Units (j c : Nat) : Nat := (8 + c % 8) * 2 ^ (c / 8) * 2 ^ (20 + j)

/-- The values of an octave, up to the first one of the next octave. -/
theorem s8Units_octave (j n : Nat) {r : Nat} (hr : r ≤ 8) : s8Units j (8 * n + r) = (8 + r) * 2 ^ n * 2 ^ (20 + j) := by
  unfold s8Units
  rcases Nat.lt_or_eq_of_le hr with hlt | rfl
  · rw [show (8 * n + r) % 8 = r by omega, show (8 * n + r) / 8 = n by omega]
  · rw [show (8 * n + 8) % 8 = 0 by omega, show (8 * n + 8) / 8 = n + 1 by omega, Nat.pow_succ]
    congr 1
    omega

theorem s8Units_step (j c : Nat) : s8Units j c < s8Units j (c + 1) := by
  have hr : c % 8 < 8 := Nat.mod_lt _ (by decide)
  rw [← Nat.div_add_mod c 8, Nat.add_assoc, s8Units_octave j _ (Nat.le_of_lt hr), s8Units_octave j _ hr]
  exact Nat.mul_lt_mul_of_pos_right (Nat.mul_lt_mul_of_pos_right (by omega) (Nat.two_pow_pos _)) (Nat.two_pow_pos _)

/-! ### The code that enc_s8 gives -/

/-- A finite F32 other than zero is normal: its mantissa has 24 bits. -/
theorem f32V_mantissa {a : F32} {s : Bool} {m : Nat} {e : Int} (h : f32V a = .fin s m e) (hm : m ≠ 0) :
    2 ^ 23 ≤ m ∧ m < 2 ^ 24 := by
  have hnormal : fF32.mag a.toNat % 2 ^ 23 < 2 ^ 23 := Nat.mod_lt _ (by decide)
  unfold f32V FFmt.dec at h
  simp only [show fF32.flush = true from rfl, if_true, show fF32.w = 23 from rfl] at h
  split at h
  · split at h <;> cases h
  · split at h <;> cases h
    · exact absurd rfl hm
    · omega

theorem log2_mantissa {m : Nat} (h : 2 ^ 23 ≤ m ∧ m < 2 ^ 24) : m.log2 = 23 :=
  (Nat.log2_eq_iff (by omega)).mpr h

theorem ilog2Rat_mantissa {m : Nat} (h : 2 ^ 23 ≤ m ∧ m < 2 ^ 24) : ilog2Rat m 1 = 23 := by
  have hlt : ¬ m < 1 <<< 23 := by rw [Nat.shiftLeft_eq]; omega
  unfold ilog2Rat
  simp only [log2_mantissa h, show Nat.log2 1 = 0 from rfl, Nat.zero_le, if_true, Nat.sub_zero, hlt, decide_false,
    Bool.false_eq_true, if_false]
  rfl

/-- Below the range (R125). -/
theorem encS8_of_small {a : F32} {m : Nat} {e : Int} (h : f32V a = .fin false m e) (hm : m ≠ 0) (he : e < -38) :
    encS8 a = 0x00 := by
  simp only [encS8, h, hm, if_false, log2_mantissa (f32V_mantissa h hm)]
  exact if_pos (by omega)

/-- The format S8 rounds a mantissa to its top four bits, in the octave of the exponent. -/
theorem roundMag_s8 {m r : Nat} (n : Nat) (h : 2 ^ 23 ≤ m ∧ m < 2 ^ 24) (hr : m / 2 ^ 20 = 8 + r) :
    ({ fF8A with bias := 16 } : FFmt).roundMag m 1 ((n : Int) - 38) none
      = n * 2 ^ 3 + roundUp (8 + r) (m % 2 ^ 20) (2 ^ 20) none := by
  have hm : m ≠ 0 := by omega
  have hex : max ((23 : Int) + (n - 38)) (1 - (16 : Nat)) = n - 15 := by omega
  have hscale : scaleRat m 1 (Int.negSucc 19) = (m / 2 ^ 20, m % 2 ^ 20, 2 ^ 20) := by
    simp only [scaleRat, Nat.shiftLeft_eq, Nat.one_mul]
  simp only [FFmt.roundMag, hm, if_false, ilog2Rat_mantissa h, fF8A, hex]
  rw [show (n : Int) - 38 - (n - 15) + (3 : Nat) = Int.negSucc 19 by omega, hscale,
    show ((n : Int) - 15 - (1 - (16 : Nat))).toNat = n by omega, hr]

/-- From 2^-15 on, the code is the rounded position in the octaves, up to the last code. -/
theorem encS8_of_octave {a : F32} {m n r : Nat} (h : f32V a = .fin false m ((n : Int) - 38)) (hr : m / 2 ^ 20 = 8 + r) :
    (encS8 a).toNat = min (roundUp (8 * n + r) (m % 2 ^ 20) (2 ^ 20) none) 0xfe := by
  have hm : m ≠ 0 := by rintro rfl; omega
  have hmant := f32V_mantissa h hm
  have hsum : n * 2 ^ 3 + roundUp (8 + r) (m % 2 ^ 20) (2 ^ 20) none - 8 = roundUp (8 * n + r) (m % 2 ^ 20) (2 ^ 20) none := by
    rw [show 8 * n + r = 2 * (4 * n) + r by omega, show 8 + r = 2 * 4 + r by omega, roundUp_even_add, roundUp_even_add]
    omega
  simp only [encS8, h, hm, if_false, log2_mantissa hmant, roundMag_s8 n hmant hr, hsum]
  rw [if_neg (by omega), BitVec.toNat_ofNat, Nat.mod_eq_of_lt (by omega)]

/-- R125 in natural numbers: with the exponent `n - 38` or, below the range, `-38 - j`. -/
theorem encS8_isNearestEven {a : F32} {m n j : Nat} (h : f32V a = .fin false m ((n : Int) - (38 + j : Nat))) (hm : m ≠ 0)
    (hnj : n = 0 ∨ j = 0) : IsNearestEven (s8Units j) 0xfe (m * 2 ^ n) (encS8 a).toNat := by
  obtain ⟨hlo, hhi⟩ := f32V_mantissa h hm
  rcases Nat.eq_zero_or_pos j with rfl | hj
  · obtain ⟨r, hr⟩ : ∃ r, m / 2 ^ 20 = 8 + r := ⟨m / 2 ^ 20 - 8, by omega⟩
    have hr8 : r + 1 ≤ 8 := by omega
    have hsplit : m = (8 + r) * 2 ^ 20 + m % 2 ^ 20 := by omega
    rw [encS8_of_octave h hr]
    refine isNearestEven_roundUp (s8Units_step 0) (u := 2 ^ n) (Nat.two_pow_pos n) (Nat.mod_lt _ (by decide)) ?value ?step
    case value =>
      rw [s8Units_octave 0 n (by omega), Nat.mul_right_comm, ← Nat.add_mul, Nat.add_zero, ← hsplit]
    case step =>
      rw [Nat.add_assoc, s8Units_octave 0 n hr8, s8Units_octave 0 n (by omega), Nat.add_zero, ← Nat.add_assoc, Nat.succ_mul,
        Nat.add_mul, Nat.mul_comm (2 ^ n)]
  · obtain rfl : n = 0 := by omega
    have hunits : ∀ c, s8Units j c = (8 + c % 8) * 2 ^ (c / 8) * 2 ^ 20 * 2 ^ j := fun c => by
      rw [s8Units, Nat.pow_add, Nat.mul_assoc _ (2 ^ 20)]
    have hfirst : m < s8Units j 0 := by
      have h2 : 2 ^ 1 ≤ 2 ^ j := Nat.pow_le_pow_right (by decide) hj
      rw [hunits]
      omega
    have hstep : s8Units j 0 < s8Units j 1 := s8Units_step j 0
    rw [encS8_of_small h hm (by omega)]
    exact isNearestEven_of_midpoints (s8Units_step j) (Nat.zero_le _) (fun j hj => absurd hj (Nat.succ_ne_zero j))
      fun _ => .inl (show 2 * (m * 2 ^ 0) < s8Units j 0 + s8Units j 1 by omega)

theorem encS8_of_inf {a : F32} (h : f32V a = .inf false) : encS8 a = 0xfe := by
  simp only [encS8, h]

/-! ### From units to rational numbers -/

/-- The unit of `s8Units j`. -/
def s8Unit (j : Nat) : Rat := (2 : Rat) ^ (-((38 + j : Nat) : Int))

theorem s8Unit_pos (j : Nat) : 0 < s8Unit j := Rat.zpow_pos (by decide)

theorem zpow_eq_units (m n j : Nat) : (m : Rat) * (2 : Rat) ^ ((n : Int) - (38 + j : Nat)) = ((m * 2 ^ n : Nat) : Rat) * s8Unit j := by
  rw [Int.sub_eq_add_neg, Rat.zpow_add (by decide), Rat.zpow_natCast, ← Rat.mul_assoc, Rat.natCast_mul, Rat.natCast_pow]
  rfl

theorem s8Value_eq_units (j c : Nat) :
    ((8 + c % 8 : Nat) : Rat) * (2 : Rat) ^ (c / 8) / 2 ^ 18 = (s8Units j c : Rat) * s8Unit j := by
  have hunit : ((2 ^ (20 + j) : Nat) : Rat) * s8Unit j = ((2 : Rat) ^ 18)⁻¹ := by
    rw [s8Unit, Rat.natCast_pow, Rat.natCast_ofNat, ← Rat.zpow_natCast, ← Rat.zpow_add (by decide),
      show ((20 + j : Nat) : Int) + -((38 + j : Nat) : Int) = -((18 : Nat) : Int) by omega, Rat.zpow_neg, Rat.zpow_natCast]
  rw [s8Units, Rat.natCast_mul, Rat.mul_assoc, hunit, Rat.natCast_mul, Rat.natCast_pow, Rat.div_def]
  rfl

theorem units_lt_iff {j a b : Nat} : (a : Rat) * s8Unit j < (b : Rat) * s8Unit j ↔ a < b := by
  rw [Rat.mul_lt_mul_right (s8Unit_pos j), Rat.natCast_lt_natCast]

theorem units_le_iff {j a b : Nat} : (a : Rat) * s8Unit j ≤ (b : Rat) * s8Unit j ↔ a ≤ b := by
  rw [← Rat.not_lt, units_lt_iff, Nat.not_lt]

theorem units_sub {j a b : Nat} (h : a ≤ b) : (b : Rat) * s8Unit j - (a : Rat) * s8Unit j = ((b - a : Nat) : Rat) * s8Unit j := by
  obtain ⟨k, rfl⟩ := Nat.exists_eq_add_of_le h
  rw [Nat.add_sub_cancel_left, Rat.natCast_add, Rat.add_mul, Rat.sub_eq_add_neg, Rat.add_comm, ← Rat.add_assoc, Rat.neg_add_cancel,
    Rat.zero_add]

/-- A distance of two numbers of units is their gap. -/
theorem units_gap (j a b : Nat) :
    (if (a : Rat) * s8Unit j ≤ (b : Rat) * s8Unit j then (b : Rat) * s8Unit j - (a : Rat) * s8Unit j
      else (a : Rat) * s8Unit j - (b : Rat) * s8Unit j) = (gap b a : Rat) * s8Unit j := by
  split
  case isTrue h =>
    have hab := units_le_iff.mp h
    rw [units_sub hab, gap, Nat.sub_eq_zero_of_le hab, Nat.add_zero]
  case isFalse h =>
    have hba : b ≤ a := Nat.le_of_not_le fun hab => h (units_le_iff.mpr hab)
    rw [units_sub hba, gap, Nat.sub_eq_zero_of_le hba, Nat.zero_add]

/-- Settles O60: the code is the nearest one, from which its ends follow. -/
theorem theBlockScaleIsTheNearestCode : Obligations.TheBlockScaleIsTheNearestCode := by
  refine fun a => ⟨?_, encS8_of_inf⟩
  intro m e v val d h hm hv hval hd
  obtain ⟨n, j, hnj, rfl⟩ : ∃ n j : Nat, (n = 0 ∨ j = 0) ∧ e = (n : Int) - (38 + j : Nat) :=
    ⟨(e + 38).toNat, (-38 - e).toNat, by omega, by omega⟩
  have hnear := encS8_isNearestEven h hm hnj
  replace hv : v = ((m * 2 ^ n : Nat) : Rat) * s8Unit j := hv.trans (zpow_eq_units m n j)
  have hfirst : (1 : Rat) / 2 ^ 15 = val 0 := .trans (by decide +kernel) (hval 0).symm
  have hlast : (114688 : Rat) = val 0xfe := .trans (by decide +kernel) (hval 0xfe).symm
  replace hval : ∀ c, val c = (s8Units j c : Rat) * s8Unit j := fun c => (hval c).trans (s8Value_eq_units j c)
  replace hd : ∀ c, d c = (gap (m * 2 ^ n) (s8Units j c) : Rat) * s8Unit j := fun c => by rw [hd, hv, hval, units_gap]
  refine ⟨hnear.1, fun c hc => ?nearest, fun c hc hne htie => ?tie, fun hlt => ?low, fun hgt => ?high⟩
  case nearest =>
    rw [hd, hd, units_le_iff]
    by_cases hne : c = (encS8 a).toNat
    · exact Nat.le_of_eq (by rw [hne])
    · exact (hnear.2 c hc hne).elim Nat.le_of_lt fun h => Nat.le_of_eq h.1
  case tie =>
    rw [hd, hd] at htie
    refine (hnear.2 c hc hne).elim (fun h => ?_) And.right
    exact absurd htie (Rat.ne_of_lt (units_lt_iff.mpr h))
  case low =>
    rw [hfirst, hv, hval, units_lt_iff] at hlt
    exact BitVec.eq_of_toNat_eq (hnear.eq_zero_of_lt (s8Units_step j) hlt)
  case high =>
    rw [hlast, hv, hval, units_lt_iff] at hgt
    exact BitVec.eq_of_toNat_eq (hnear.eq_top_of_lt (s8Units_step j) hgt)

end Sys2Proof.Machine
end

section
/-! SUPPORT. The row descriptors (R159 to R168): what a row reads of its array, what it leaves in the local store and in the
side memory, and what the counts of a descriptor leave as they are. -/

namespace Sys2Proof.Machine

/-! ### The terms of a row for γ and β (R165) -/

@[simp] theorem length_leBytes (n v : Nat) : (leBytes n v).length = n := by
  induction n generalizing v with
  | zero => rfl
  | succ n ih => simp [leBytes, ih]

/-- Each term is one word. -/
theorem length_termBytes (o : Arr) (init : Bool) (k : Nat) (vs : List F32) : (termBytes o init k vs).length = 4 * vs.length := by
  rw [termBytes, List.length_flatten, List.map_eq_replicate_iff.mpr ?words, List.sum_replicate_nat, List.length_mapIdx, Nat.mul_comm]
  case words =>
    intro bs hbs
    obtain ⟨_, _, rfl⟩ := List.mem_mapIdx.mp hbs
    exact length_leBytes ..

theorem termBytes_init (o : Arr) (k : Nat) (vs : List F32) : termBytes o true k vs = vs.flatMap (fun v => leBytes 4 v.toNat) := by
  rw [termBytes, List.flatMap_def]
  exact congrArg List.flatten (List.ext_getElem (by simp) (by simp))

theorem lsRead_congr {o p : Arr} {k : Nat} (h : ∀ j, k ≤ j → lsByte o j = lsByte p j) (n : Nat) : lsRead o k n = lsRead p k n :=
  List.map_congr_left fun _ _ => h _ (Nat.le_add_right ..)

/-- The terms do not see the local store below the place where they are taken. -/
theorem termBytes_congr {o p : Arr} {k : Nat} (h : ∀ j, k ≤ j → lsByte o j = lsByte p j) (init : Bool) (vs : List F32) :
    termBytes o init k vs = termBytes p init k vs := by
  unfold termBytes
  simp only [fun m => lsRead_congr (fun j hj => h j (Nat.le_trans (Nat.le_add_right k m) hj))]

theorem lsByte_rowGrad (o : Arr) (d : RowDesc) (first : Bool) (k : Nat) (vs : List F32) (j : Nat) :
    lsByte (rowGrad o d first k vs).1 j =
      if k ≤ j ∧ j < k + (termBytes o (d.accInit && first) k vs).length then (termBytes o (d.accInit && first) k vs).getD (j - k) 0
      else lsByte o j := by
  cases vs with
  | nil => rw [if_neg (by rw [length_termBytes, List.length_nil]; omega)]; rfl
  | cons v vs =>
    unfold rowGrad
    rw [Bool.and_comm first]
    cases d.accInit && first with
    | false => exact lsByte_lsWrite ..
    | true =>
      rw [termBytes_init, ← lsByte_lsWrite]
      rfl

/-! ### What a row reads (R161) -/

section
variable (op : Nat) (d : RowDesc) (xf yf : Fmt) (r : Nat)

/-- A row reads the local store, and a backward row its statistics. -/
theorem rowRes_congr {o p : Arr} (hls : o.ls = p.ls) (hstats : rowIsF op = false → o.stats = p.stats) :
    rowRes op d xf yf r o = rowRes op d xf yf r p := by
  have hread : ∀ k n, lsRead o k n = lsRead p k n := fun k => lsRead_congr fun j _ => congrArg (aget _ · j) hls
  cases hf : rowIsF op with
  | true => simp only [rowRes, rowLoad, vecLoad, hread, hf, if_true]
  | false => simp only [rowRes, rowLoad, vecLoad, hread, statGet, hstats hf]

theorem length_rowLoad (o : Arr) (f : Fmt) (addr pitch : Word) (n : Nat) : (rowLoad o f addr pitch r n).1.length ≤ n :=
  List.length_take_le ..

theorem rowFwd_dg (x gam bet : List F32) : (rowFwd op d r x gam bet).dg = [] := by
  unfold rowFwd
  split <;> rfl

theorem length_rowBwd_dg (x dy gam : List F32) (st : F32 × F32) : (rowBwd op d r x dy gam st).dg.length ≤ dy.length := by
  unfold rowBwd
  split
  · exact Nat.zero_le _
  · dsimp only
    split
    · exact Nat.zero_le _
    · rw [List.length_zipWith]
      exact Nat.min_le_left ..

/-- The terms for γ fit below those for β (R165). -/
theorem length_rowRes_dg (o : Arr) : (rowRes op d xf yf r o).1.dg.length ≤ d.n.toNat := by
  simp only [rowRes]
  split
  · rw [rowFwd_dg]
    exact Nat.zero_le _
  · refine Nat.le_trans (length_rowBwd_dg ..) ?_
    split
    · exact length_rowLoad ..
    · exact Nat.zero_le _

end

/-! ### One row -/

/-- The array once the output of a row stands in its local store. -/
def rowOut (op : Nat) (d : RowDesc) (r : Nat) (x : RowRes) (o : Arr) : Arr :=
  lsWrite o (d.oAddr.toNat * 16 + r * (d.oPitch.toNat * 16)) (rowStore (rowOFmt op d) x.y).1

/-- Byte `k` of the local store after row `r` with result `x`, whose output stands in `o`. -/
def rowByte (d : RowDesc) (r : Nat) (x : RowRes) (o : Arr) (k : Nat) : Byte :=
  let g := termBytes o (d.accInit && decide (r = 0)) (d.bAddr.toNat * 16) x.dg
  let b := termBytes o (d.accInit && decide (r = 0)) (d.bAddr.toNat * 16 + 4 * d.n.toNat) x.db
  if d.bAddr.toNat * 16 ≤ k ∧ k < d.bAddr.toNat * 16 + g.length then g.getD (k - d.bAddr.toNat * 16) 0
  else if d.bAddr.toNat * 16 + 4 * d.n.toNat ≤ k ∧ k < d.bAddr.toNat * 16 + 4 * d.n.toNat + b.length then
    b.getD (k - (d.bAddr.toNat * 16 + 4 * d.n.toNat)) 0
  else lsByte o k

/-- The statistics entry that a forward row leaves (R159). -/
def rowEntry (x : RowRes) : DWord := (x.stat.2.setWidth 64 <<< 32) ||| x.stat.1.setWidth 64

section
variable (op : Nat) (d : RowDesc) (xf yf : Fmt) (r : Nat) (st : Arr × RowCnt)

/-- A row takes its terms for γ, then those for β, which do not see the former. -/
theorem lsByte_rowOne (k : Nat) : lsByte (rowOne op d xf yf r st).1 k =
    rowByte d r (rowRes op d xf yf r st.1).1 (rowOut op d r (rowRes op d xf yf r st.1).1 st.1) k := by
  have hfit := length_rowRes_dg op d xf yf r st.1
  generalize hx : (rowRes op d xf yf r st.1).1 = x at hfit ⊢
  generalize ho : rowOut op d r x st.1 = o
  have hls : lsByte (rowOne op d xf yf r st).1 k = lsByte (rowGrad (rowGrad o d (r == 0) (d.bAddr.toNat * 16) x.dg).1 d (r == 0)
      (d.bAddr.toNat * 16 + 4 * d.n.toNat) x.db).1 k := by
    subst ho hx
    simp only [rowOne, rowOut, lsByte]
    split <;> rfl
  have hbelow : ∀ j, d.bAddr.toNat * 16 + 4 * d.n.toNat ≤ j →
      lsByte (rowGrad o d (r == 0) (d.bAddr.toNat * 16) x.dg).1 j = lsByte o j := fun j hj => by
    rw [lsByte_rowGrad, length_termBytes, if_neg (by omega)]
  rw [hls, lsByte_rowGrad, lsByte_rowGrad, termBytes_congr hbelow, show (r == 0) = decide (r = 0) from rfl]
  simp only [rowByte, length_termBytes]
  split
  · rw [if_neg (by omega)]
  · rfl

theorem rowOne_stats : (rowOne op d xf yf r st).1.stats = if rowIsF op && !d.recomp then
    aset (fun _ => 0) st.1.stats (d.stat.toNat + r) (rowEntry (rowRes op d xf yf r st.1).1) else st.1.stats := by
  have hgrad : ∀ o first k vs, (rowGrad o d first k vs).1.stats = o.stats := fun o first k vs => by
    unfold rowGrad
    repeat' split
    all_goals rfl
  simp only [rowOne, apply_ite Arr.stats, hgrad]
  rfl

/-- A reading of the array that does not see what a row writes. -/
theorem rowOne_same {β : Type} (g : Arr → β) (h : ∀ o ls stats high a b,
    g { o with ls := ls, stats := stats, statHigh := high, bufA := a, bufB := b } = g o) : g (rowOne op d xf yf r st).1 = g st.1 := by
  have hls : ∀ o ls, g { o with ls := ls } = g o := fun o ls => h o ls o.stats o.statHigh o.bufA o.bufB
  have hgrad : ∀ o first k vs, g (rowGrad o d first k vs).1 = g o := fun o first k vs => by
    unfold rowGrad
    repeat' split
    · rfl
    all_goals exact hls ..
  have hstats : ∀ o stats high, g { o with stats := stats, statHigh := high } = g o := fun o stats high =>
    h o o.ls stats high o.bufA o.bufB
  have hbuf : ∀ o a b, g { o with bufA := a, bufB := b } = g o := fun o a b => h o o.ls o.stats o.statHigh a b
  simp only [rowOne, hbuf, apply_ite g, hstats, ite_self, hgrad]
  exact hls ..

end

/-! ### The rows of a descriptor, in order (R160) -/

/-- The array and the counts after the first `n` rows of a descriptor. -/
def rowsRun (op : Nat) (d : RowDesc) (xf yf : Fmt) (o : Arr) (n : Nat) : Arr × RowCnt :=
  (List.range n).foldl (fun st k => rowOne op d xf yf k st) (o, {})

section
variable (op : Nat) (d : RowDesc) (xf yf : Fmt) (o : Arr)

theorem rowsRun_succ (n : Nat) : rowsRun op d xf yf o (n + 1) = rowOne op d xf yf n (rowsRun op d xf yf o n) := by
  simp only [rowsRun, List.range_succ, List.foldl_append, List.foldl_cons, List.foldl_nil]

theorem rowsRun_rows (n : Nat) : (rowsRun op d xf yf o n).2.rows = n := by
  induction n with
  | zero => rfl
  | succ n ih => rw [rowsRun_succ]; exact congrArg (· + 1) ih

theorem rowsRun_same {β : Type} (g : Arr → β) (h : ∀ o ls stats high a b,
    g { o with ls := ls, stats := stats, statHigh := high, bufA := a, bufB := b } = g o) (n : Nat) :
    g (rowsRun op d xf yf o n).1 = g o := by
  induction n with
  | zero => rfl
  | succ n ih => rw [rowsRun_succ, rowOne_same _ _ _ _ _ _ g h, ih]

/-- A backward row leaves the side memory as it is. -/
theorem rowsRun_stats_of_bwd (h : rowIsF op = false) (n : Nat) : (rowsRun op d xf yf o n).1.stats = o.stats := by
  induction n with
  | zero => rfl
  | succ n ih => rw [rowsRun_succ, rowOne_stats, h, ← ih]; rfl

/-- The local store before row `n`, or after the last. -/
def rowsLs (n : Nat) : AMap Byte := (rowsRun op d xf yf o n).1.ls

/-- Of what the earlier rows have written, row `n` sees the local store alone. -/
theorem rowRes_rowsRun (n : Nat) :
    rowRes op d xf yf n (rowsRun op d xf yf o n).1 = rowRes op d xf yf n { o with ls := rowsLs op d xf yf o n } :=
  rowRes_congr op d xf yf n rfl fun h => rowsRun_stats_of_bwd op d xf yf o h n

theorem lsByte_rowsLs_succ (n k : Nat) : lsByte { o with ls := rowsLs op d xf yf o (n + 1) } k =
    rowByte d n (rowRes op d xf yf n { o with ls := rowsLs op d xf yf o n }).1
      (rowOut op d n (rowRes op d xf yf n { o with ls := rowsLs op d xf yf o n }).1 { o with ls := rowsLs op d xf yf o n }) k := by
  rw [← rowRes_rowsRun]
  show lsByte (rowsRun op d xf yf o (n + 1)).1 k = _
  rw [rowsRun_succ]
  exact lsByte_rowOne ..

theorem aget_rowsRun_stats (n k : Nat) : aget (fun _ => 0) (rowsRun op d xf yf o n).1.stats k =
    if rowIsF op = true ∧ d.recomp = false ∧ d.stat.toNat ≤ k ∧ k < d.stat.toNat + n then
      rowEntry (rowRes op d xf yf (k - d.stat.toNat) { o with ls := rowsLs op d xf yf o (k - d.stat.toNat) }).1
    else aget (fun _ => 0) o.stats k := by
  induction n with
  | zero => rw [if_neg (by omega)]; rfl
  | succ n ih =>
    rw [rowsRun_succ, rowOne_stats, rowRes_rowsRun]
    by_cases hsaves : rowIsF op = true ∧ d.recomp = false
    · obtain ⟨hf, hr⟩ := hsaves
      simp only [hf, hr, Bool.not_false, Bool.and_self, if_true, true_and] at ih ⊢
      by_cases hk : k = d.stat.toNat + n
      · subst hk
        rw [aget_aset_self, if_pos (by omega), Nat.add_sub_cancel_left]
      · rw [aget_aset_ne _ _ _ hk, ih]
        exact ite_congr (propext (by omega)) (fun _ => rfl) (fun _ => rfl)
    · have hkeeps : (rowIsF op && !d.recomp) = false := by simpa using hsaves
      rw [hkeeps, if_neg Bool.false_ne_true, ih, if_neg (fun h => hsaves ⟨h.1, h.2.1⟩), if_neg (fun h => hsaves ⟨h.1, h.2.1⟩)]

end

/-! ### The effect of a descriptor -/

/-- The rows that a descriptor processes: none when its rows are empty. -/
def rowsOf (d : RowDesc) : Nat := if d.n = 0 then 0 else d.rows.toNat

/-- The first NaN row of the step, once a descriptor with counts `c` has run on array `o` (R166). -/
def nanRowAfter (c : RowCnt) (o : Arr) : Option (Nat × Nat) :=
  if c.firstNan.isSome && o.nanRow.isNone then c.firstNan.map (fun k => (o.dpc, k)) else o.nanRow

/-- The array after all rows of a descriptor, with the next descriptor due. -/
def rowDone (op : Nat) (d : RowDesc) (xf yf : Fmt) (o : Arr) : Arr :=
  { (rowsRun op d xf yf o (rowsOf d)).1 with dpc := o.dpc + 1, nanRow := nanRowAfter (rowsRun op d xf yf o (rowsOf d)).2 o }

section
variable (op : Nat) (d : RowDesc) (xf yf : Fmt) (o : Arr)

@[simp] theorem rowDone_dpc : (rowDone op d xf yf o).dpc = o.dpc + 1 := rfl
@[simp] theorem rowDone_ls : (rowDone op d xf yf o).ls = rowsLs op d xf yf o (rowsOf d) := rfl
@[simp] theorem rowDone_cells : (rowDone op d xf yf o).cells = o.cells := rowsRun_same op d xf yf o Arr.cells (fun _ _ _ _ _ _ => rfl) _
@[simp] theorem rowDone_scales : (rowDone op d xf yf o).scales = o.scales := rowsRun_same op d xf yf o Arr.scales (fun _ _ _ _ _ _ => rfl) _
@[simp] theorem rowDone_acc : (rowDone op d xf yf o).acc = o.acc := rowsRun_same op d xf yf o Arr.acc (fun _ _ _ _ _ _ => rfl) _
@[simp] theorem rowDone_pc : (rowDone op d xf yf o).pc = o.pc := rowsRun_same op d xf yf o Arr.pc (fun _ _ _ _ _ _ => rfl) _

end

@[simp] theorem bumpCnv_arr (s : State) (p : Pg) (i o : Nat) (c : CnvCnt) : (bumpCnv s p i o c).arr = s.arr := rfl
@[simp] theorem bumpCnv_mem (s : State) (p : Pg) (i o : Nat) (c : CnvCnt) : (bumpCnv s p i o c).mem = s.mem := rfl

theorem rowEffect_becomes (op a : Nat) (d : RowDesc) (amb : Nat) (s : State) {xf yf : Fmt} (hxf : xf = (fmtOfCode d.xf.toNat).getD .f32)
    (hyf : yf = (fmtOfCode d.yf.toNat).getD .f32) : ArrayBecomes s (rowEffect op a d amb s) a (rowDone op d xf yf (arrGet s a)) := by
  subst hxf hyf
  constructor
  · simp only [rowEffect, apply_ite State.arr, setInt_arr, bumpCnv_arr, lsAtomics_arr, bump_arr, ite_self]
    rfl
  · simp only [rowEffect, apply_ite State.mem, setInt_mem, bumpCnv_mem, lsAtomics_mem, bump_mem, arrSet_mem, ite_self]

/-- The atomic operations of a local store are counted on the page of its array alone (Table 2.13). -/
theorem ctrGet_lsAtomics_row (s : State) (a : Fin 768) (n amb : Nat) {o : Nat} (ho : o < 0x1000) :
    ctrGet (lsAtomics s a n amb) .row a o = ctrGet s .row a o := by
  have hpage : ∀ k, k < 0x1000 → pageBase .row a + o ≠ pageBase .arr a + k := fun k hk => by
    simp only [pageBase]
    omega
  have hbumps : ctrGet (bump (bump s .arr a 0xc60 n) .arr a 0xc58 (min amb n)) .row a o = ctrGet s .row a o :=
    (ctr_bump_ne _ _ (hpage 0xc58 (by decide))).trans (ctr_bump_ne _ _ (hpage 0xc60 (by decide)))
  unfold lsAtomics
  dsimp only
  split
  · exact hbumps
  · exact (ctr_setInt _ _ _ _ (by simp only [pageBase]; omega)).trans hbumps

/-- A descriptor counts its rows (Table 6.15). -/
theorem ctrGet_rowEffect (op : Nat) (a : Fin 768) (d : RowDesc) (amb : Nat) (s : State) :
    ctrGet (rowEffect op a d amb s) .row a (if rowIsF op then 0xc08 else 0xc10) =
      ctrGet s .row a (if rowIsF op then 0xc08 else 0xc10) + BitVec.ofNat 64 (rowsOf d) := by
  obtain ⟨o, ho, hlow⟩ : ∃ o, (if rowIsF op then 0xc08 else 0xc10) = o ∧ o < 0xc18 := ⟨_, rfl, by split <;> decide⟩
  have hbump : ∀ t k n, 0xc18 ≤ k → ctrGet (bump t .row a k n) .row a o = ctrGet t .row a o := fun t k n hk =>
    ctrGet_bump_ne _ _ _ _ (by omega)
  have hcnv : ∀ t k c, 0xc18 ≤ k → ctrGet (bumpCnv t .row a k c) .row a o = ctrGet t .row a o := fun t k c hk => by
    unfold bumpCnv
    rw [hbump _ _ _ (by omega), hbump _ _ _ (by omega), hbump _ _ _ (by omega), hbump _ _ _ hk]
  have hint : ∀ t bits, ctrGet (setInt t .row a bits) .row a o = ctrGet t .row a o := fun t bits =>
    ctr_setInt _ _ _ _ (by simp only [pageBase]; omega)
  have hls : ∀ t n, ctrGet (lsAtomics t a n amb) .row a o = ctrGet t .row a o := fun t n =>
    ctrGet_lsAtomics_row t a n amb (by omega)
  rw [ho]
  simp only [rowEffect, ho, apply_ite (ctrGet · .row a o), hint, hcnv, hls, hbump, Nat.le_refl, Nat.reduceLeDiff, ite_self,
    ctrGet_bump_self]
  exact congrArg (fun n => ctrGet s .row a o + BitVec.ofNat 64 n) (rowsRun_rows ..)

theorem rowExec_of_mayRun {s : State} {a op : Nat} {d : RowDesc} (h : rowMayRun s a op d) (amb : Nat) :
    rowExec op a d amb s = .next (rowEffect op a d amb s) := by
  obtain ⟨hat, hok⟩ := h
  unfold rowExec
  rw [hok]
  exact if_pos hat

/-- Settles O12: the local stores between the rows are those of the run, in which a row sees nothing else that the rows before
it have written. -/
theorem rowDescriptorsRun : Obligations.RowDescriptorsRun := by
  rintro a d amb s c op hc h _ xf yf rfl hxf hyf
  obtain ⟨m, hexec⟩ : ∃ m, exec c s = rowExec op a d m s := by
    rcases hc with ⟨rfl, rfl⟩ | ⟨rfl, rfl⟩ | ⟨rfl, rfl⟩ | ⟨rfl, rfl⟩ | ⟨rfl, rfl⟩ | ⟨rfl, rfl⟩ <;> exact ⟨_, rfl⟩
  have hb := rowEffect_becomes op a d m s hxf hyf
  refine ⟨_, hexec.trans (rowExec_of_mayRun h m), ?_⟩
  rw [hb.self]
  refine ⟨rowDone_dpc .., ctrGet_rowEffect op a d m s, rowDone_cells .., rowDone_scales .., rowDone_acc .., rowDone_pc ..,
    fun b hne => hb.other hne, hb.mem, rowsLs op d xf yf (arrGet s a), rfl, rowDone_ls .., ?_, fun k => aget_rowsRun_stats ..⟩
  rintro r x o bs g b - rfl rfl rfl rfl rfl k
  exact lsByte_rowsLs_succ ..

end Sys2Proof.Machine
end

section
/-! SUPPORT. Writes of tensor memory: its canonical form, and the pages that a step has written. -/

namespace Sys2Proof.Machine

/-- An entry after a range write was there before, or its key lies in the range. -/
theorem mem_asetR {α : Type} [DecidableEq α] {d : Nat → α} {m : AMap α} {start len : Nat} {f : Nat → α} {e : Nat × α}
    (h : e ∈ asetR d m start len f) : e ∈ m ∨ (start ≤ e.1 ∧ e.1 < start + len) := by
  unfold asetR at h
  simp only [List.mem_append] at h
  rcases h with (hlow | hin) | hhigh
  · exact .inl (List.mem_filter.mp hlow).1
  · exact .inr (arange_key d f len start e hin)
  · exact .inl (List.mem_filter.mp hhigh).1

/-- Marking pages `p` to `p + n - 1` of a tensor as written leaves the written pages within their tensors, when those are. -/
theorem pagesIn_mark {m t : Mem} {h p n : Nat} (hm : pagesIn m) (ht : t.written = asetR (fun _ => false) m.written (h * 2 ^ 20 + p) n (fun _ => true))
    (hp : p + n ≤ 2 ^ 19) : pagesIn t := by
  intro e he
  rw [ht] at he
  rcases mem_asetR he with hold | ⟨hlo, hhi⟩
  · exact hm e hold
  · omega

theorem workWrite_pagesIn {s : State} {h off : Nat} {bs : List Byte} (hs : pagesIn s.mem) (hlen : off + bs.length ≤ 2 ^ 40) :
    pagesIn (workWrite s h off bs).mem := by
  unfold workWrite
  split
  · exact hs
  · next hne =>
    have hpos : 0 < bs.length := List.length_pos_iff.mpr (by simpa using hne)
    exact pagesIn_mark hs rfl (by unfold pageSize; omega)

theorem touchPage_pagesIn {s : State} {h k : Nat} (hs : pagesIn s.mem) (hk : k < 2 ^ 19) : pagesIn (touchPage s h k).mem := by
  unfold touchPage
  split
  · exact hs
  · refine pagesIn_mark (m := s.mem) (h := h) (p := k) (n := 1) hs ?_ (by omega)
    simp only [bump_mem, memAccess_mem]
    rfl

/-- Settles O6: each operation keeps the canonical form of every table, and marks as written the pages of its range alone. -/
theorem memoryWritesKeepTheForm : Obligations.MemoryWritesKeepTheForm := by
  intro s hwf h off k bs
  refine ⟨memWrite_wf s h off bs hwf, workWrite_wf s h off bs hwf, touchPage_wf s h k hwf, swapPage_wf s h k hwf, discardWork_wf s hwf,
    fun hs hlen hk => ⟨hs, workWrite_pagesIn hs hlen, touchPage_pagesIn hs hk, hs, fun e he => ?_⟩,
    memByte_memWrite s h off bs, workByte_workWrite s h off bs⟩
  exact absurd he List.not_mem_nil

end Sys2Proof.Machine
end

section
/-! SUPPORT. The tasks of the management processor that write the persistent log (R400, R465). -/

namespace Sys2Proof.Machine

/-- A list cut to its newest entries keeps its last one. -/
theorem getLast?_newest {α : Type} {n : Nat} (hn : 0 < n) (l : List α) : (newest n l).getLast? = l.getLast? := by
  unfold newest
  split
  · rfl
  · rw [List.getLast?_drop, if_neg (by omega)]

theorem getLast?_logEvent (e : LogEnt) (s : State) : (logEvent e s).log.events.getLast? = some e := by
  refine (getLast?_newest (by decide) _).trans ?_
  rw [List.getLast?_append, List.getLast?_singleton, Option.some_or]

/-- Without overload no entry coalesces: an event takes the next SEQ (R402). -/
theorem writeEvent_of_not_overloaded (e : LogEnt) {s : State} (h : s.mp.overloaded = false) :
    writeEvent e s = logEvent { e with seq := s.log.next } { s with log := { s.log with next := s.log.next + 1 } } := by
  have hnone : s.log.events.any (coalesces s e) = false := by simp [coalesces, h]
  unfold writeEvent
  rw [hnone]
  rfl

/-- The oldest event that waits is written when the mailbox service has no work (R400, R465). -/
theorem logWriteEffect_oldest {s : State} {e : LogEnt} {rest : List LogEnt} {k : Byte} (htodo : s.log.todo = e :: rest) (hk : e.kind = k.toNat)
    (hrun : mpRuns s = true) (hmail : mailWork s = false) : logWriteEffect k e.source e.status e.payload s =
      writeEvent e { s with log := { s.log with todo := rest } } := by
  have hnamed : logNamed e k e.source e.status e.payload = true := by simp [logNamed, hk]
  simp only [logWriteEffect, hrun, hmail, htodo, List.head?_cons, Option.filter_some, hnamed, Bool.not_true, Bool.or_self,
    Bool.false_eq_true, if_false, if_true, List.tail_cons]

theorem delayedLogEffect_of_room {s : State} {e : LogEnt} {rest : List LogEnt} (hkept : s.log.kept = e :: rest)
    (hroom : s.log.records.length < recordMax) : delayedLogEffect s =
      { s with log := { s.log with records := s.log.records ++ [{ e with flags := e.flags ||| 4 }], kept := rest } } := by
  simp only [delayedLogEffect, hkept, hroom, if_true]

/-- A REMAP record of `rs` that a later one of the same row supersedes (R469). -/
def superseded (rs : List LogEnt) (e : LogEnt) : Prop := e.kind = 6 ∧ ∃ f ∈ rs, f.kind = 6 ∧ e.seq < f.seq ∧ remapRow f = remapRow e

/-- With no other task at work housekeeping keeps the records that are not superseded (R400, R469). -/
theorem compactionEffect_of_idle {s : State} (hrun : mpRuns s = true) (hmail : mailWork s = false) (htodo : s.log.todo = []) :
    ∃ rs, compactionEffect s = { s with log := { s.log with records := rs } }
      ∧ ∀ e, e ∈ rs ↔ e ∈ s.log.records ∧ ¬ superseded s.log.records e := by
  simp only [compactionEffect, hrun, hmail, htodo, List.isEmpty_nil, Bool.not_true, Bool.or_self, Bool.false_eq_true, if_false]
  refine ⟨_, rfl, fun e => ?_⟩
  rw [List.mem_filter]
  refine and_congr_right fun _ => ?_
  simp only [superseded, Bool.or_eq_true, bne_iff_ne, Bool.not_eq_true', List.any_eq_false, Bool.and_eq_true, beq_iff_eq,
    decide_eq_true_eq]
  grind

/-- Settles O41, clause by clause: each task changes the log alone. -/
theorem theLogIsWritten : Obligations.TheLogIsWritten := by
  refine fun s => ⟨fun k e rest htodo hk hrun hmail hover => ?_, fun e rest hkept hroom => ?_, fun hrun hmail htodo => ?_⟩
  · have hwritten := (logWriteEffect_oldest htodo hk hrun hmail).trans (writeEvent_of_not_overloaded e (by exact hover))
    exact ⟨_, congrArg Host.Outcome.next hwritten, getLast?_logEvent .., rfl, rfl, rfl, rfl, rfl, rfl, rfl⟩
  · exact ⟨_, congrArg Host.Outcome.next (delayedLogEffect_of_room hkept hroom), rfl, rfl, rfl, rfl, rfl, rfl, rfl⟩
  · obtain ⟨rs, heq, hrs⟩ := compactionEffect_of_idle hrun hmail htodo
    exact ⟨_, congrArg Host.Outcome.next heq, rfl, rfl, rfl, rfl, rfl, hrs⟩

end Sys2Proof.Machine
end

section
/-! SUPPORT. UPDATE_COMPLETE (R266) and FENCE_LIFT (R215, R216, R278). -/

namespace Sys2Proof.Machine

/-! ### Completion counters (R240) -/

theorem cidGet_cidBump_self {s : State} {t c : Nat} (h : c ≠ 255) : cidGet (cidBump s t c) t c = cidGet s t c + 1 := by
  unfold cidBump
  rw [if_neg h]
  exact aget_aset_self ..

/-- A reading of the state that does not see the completion counters. -/
theorem cidBump_same {β : Type} {g : State → β} (hg : ∀ s m, g { s with seq := { s.seq with cid := m } } = g s) (s : State) (t c : Nat) :
    g (cidBump s t c) = g s := by
  unfold cidBump
  split
  · rfl
  · exact hg ..

/-! ### UPDATE_COMPLETE (R266, R283) -/

/-- Unit `u` is free, and its descriptor with CID `c` is counted. -/
def updDone (u c : Nat) (s : State) : State :=
  let s := bump (updMod s u (fun r => { r with active := none })) .upd u 0xc00 1
  cidBump { s with seq := { s.seq with done := s.seq.done + 1 } } (u / 3) c

theorem updateCompleteEffect_of_active {u i c : Nat} {s : State} (hact : (updGet s u).active = some (i, c))
    (hwait : (updGet s u).waiting = none) (hrun : unitsStopped s = false) :
    updateCompleteEffect u i s = crossings .upd u (crossing .seqT (u / 3) (updDone u c s)) := by
  simp only [updateCompleteEffect, hact, hwait, hrun, bne_self_eq_false, Option.isSome_none, Bool.or_self, Bool.false_eq_true, if_false]
  rfl

theorem updateCompleteEffect_of_stopped {u i : Nat} {s : State} (h : unitsStopped s = true) : updateCompleteEffect u i s = s := by
  unfold updateCompleteEffect
  split
  · rfl
  · rw [h, Bool.or_true, if_pos rfl]

theorem unitsStopped_of_safe {s : State} (h : s.seq.dev = .safe) : unitsStopped s = true := by simp [unitsStopped, h]

theorem CrossingBlind.upd : CrossingBlind State.upd := ⟨fun _ _ _ _ => rfl, fun _ _ _ _ _ _ => rfl, fun _ _ => rfl⟩

/-- Past its completion a unit makes crossings of its page and its tile sequencer's alone. -/
theorem updateComplete_crossings {β : Type} {g : State → β} (hg : CrossingBlind g) (u : Fin 12) (s : State) :
    g (crossings .upd u (crossing .seqT (u / 3) s)) = g s := by
  have htile : u.val / 3 < 4 := by omega
  rw [crossings_same hg (p := .upd) rfl u.isLt, crossing_same hg (p := .seqT) rfl htile]

theorem updateComplete_completes {u : Fin 12} {idx : BitVec 24} {s : State} {c : Nat} (hact : (updGet s u).active = some (idx.toNat, c))
    (hwait : (updGet s u).waiting = none) (hrun : unitsStopped s = false) :
    ∃ t, exec (.updateComplete u idx) s = .next t ∧ (updGet t u).active = none ∧ t.seq.done = s.seq.done + 1
      ∧ (c ≠ 255 → cidGet t (u / 3) c = cidGet s (u / 3) c + 1) ∧ (c = 255 → t.seq.cid = s.seq.cid)
      ∧ t.mem = s.mem ∧ t.arr = s.arr ∧ regsKept s t := by
  have hseq := updateComplete_crossings .seq u (updDone u c s)
  have hupd : (crossings .upd u (crossing .seqT (u / 3) (updDone u c s))).upd = (updMod s u (fun r => { r with active := none })).upd :=
    (updateComplete_crossings .upd u _).trans (cidBump_same (g := State.upd) (fun _ _ => rfl) ..)
  refine ⟨_, congrArg Host.Outcome.next (updateCompleteEffect_of_active hact hwait hrun), ?_, ?_, fun hc => ?_, fun hc => ?_, ?_, ?_,
    fun off hoff => ?_⟩
  · unfold updGet
    rw [hupd]
    exact congrArg Upd.active (updGet_updMod_self s u (fun r => { r with active := none }))
  · rw [hseq]
    exact cidBump_same (g := fun s => s.seq.done) (fun _ _ => rfl) ..
  · unfold cidGet
    rw [hseq]
    exact cidGet_cidBump_self hc
  · rw [hseq, hc]
    rfl
  · exact (updateComplete_crossings .mem u _).trans (cidBump_same (g := State.mem) (fun _ _ => rfl) ..)
  · exact (updateComplete_crossings .arr u _).trans (cidBump_same (g := State.arr) (fun _ _ => rfl) ..)
  · exact (updateComplete_crossings (.regGet hoff) u _).trans (cidBump_same (g := (regGet · off)) (fun _ _ => rfl) ..)

/-! ### FENCE_LIFT (R215, R216, R278) -/

theorem liftAdvance_of_idle {s : State} (hwait : ∀ u, u < 12 → (updGet s u).waiting = none) (hops : s.cfl.ops = []) : liftAdvance s = s := by
  unfold liftAdvance cflAdvance
  rw [runWaiting_of_none s hwait, hops]
  exact ite_self s

theorem dropFence_of_none {s : State} {q h : Nat} (hnone : s.mem.fences.any (fun f => f.q == q && f.handle == h) = false) :
    dropFence q h s = s := by
  have hkept : s.mem.fences.filter (fun f => !(f.q == q && f.handle == h)) = s.mem.fences :=
    List.filter_eq_self.mpr fun f hf => by rw [Bool.not_eq_true', ← Bool.not_eq_true]; exact List.any_eq_false.mp hnone f hf
  unfold dropFence
  rw [hkept]

/-- With nothing that waits for it a fence that falls changes nothing else. -/
theorem fenceLiftEffect_of_idle {q h : Nat} {s : State} (hquiet : hostQuiet s) (hwait : ∀ u, u < 12 → (updGet s u).waiting = none)
    (hops : s.cfl.ops = []) : fenceLiftEffect q h s = dropFence q h s := by
  have hquiet' : hostQuiet (dropFence q h s) := hostQuiet_of_calm rfl (noPortRises_of_port rfl) hquiet
  obtain ⟨-, haccess, -⟩ := hquiet
  unfold fenceLiftEffect
  split
  · dsimp only
    rw [readPast_of_no_access _ _ _ _ haccess, liftAdvance_of_idle (s := dropFence q h s) hwait hops, tidy_of_quiet _ hquiet']
  · next hnone => rw [dropFence_of_none (Bool.not_eq_true _ ▸ hnone)]

/-- Settles O22: past a completion there are crossings alone, and past a fence that falls nothing goes on. -/
theorem updatesCompleteAndFencesLift : Obligations.UpdatesCompleteAndFencesLift :=
  ⟨fun _ _ _ _ hact hwait => ⟨updateComplete_completes hact hwait,
      fun hsafe => congrArg Host.Outcome.next (updateCompleteEffect_of_stopped (unitsStopped_of_safe hsafe))⟩,
    fun _ _ _ hquiet hwait hops => congrArg Host.Outcome.next (fenceLiftEffect_of_idle hquiet hwait hops)⟩

end Sys2Proof.Machine
end

section
/-! SUPPORT. MIGRATION_SWITCH in a state that no allocation leads to (R204, R206): the slice of a page is that of its stack
divided by 3, and nothing in the state keeps the stack below 12. -/

namespace Sys2Proof.Machine

/-- A tensor with one page on a stack 96, which no unit has. -/
def strayTensor : Tensor := { size := pageSize, cls := 1, pages := [{ stack := 96 }] }
/-- The migration of its page to stack 0. -/
def strayMig : Mig := { handle := 5, page := 0, dstStack := 0, dst := 0 }
/-- The migration is in progress, and slice 32 holds a dirty line of the page. -/
def strayPage : State :=
  { mem := { tensors := [(5, some strayTensor)], migs := [strayMig] }
    msc := [(32, { sets := [(0, [(lineNo 96 0 0, true)])] })] }

/-- The switch writes the line back and counts it in the slice; the page of a slice 32 would be the placement page (Table 17.3),
so that this is PLC_CNT_MIGRATE. -/
theorem ctrGet_switch_strayPage : ctrGet (migrationSwitchEffect 5 0 false strayPage) .plc 0 0xc10 = ctrGet strayPage .plc 0 0xc10 + 2 := by
  decide +kernel

/-- Refutes O40: a page on a stack 96 passes a slice 32, whose count of written-back lines is the count of migrations, so that a
switch which writes one line back counts two. -/
theorem not_pagesSwitchAndMarginsEnd : ¬ Obligations.PagesSwitchAndMarginsEnd := by
  intro h
  obtain ⟨hswitch, -⟩ := h strayPage
  obtain ⟨t, pg, hexec, -, -, -, -, -, hcount, -⟩ := hswitch 5 0 false strayMig strayTensor rfl rfl rfl
  obtain rfl : migrationSwitchEffect 5 0 false strayPage = t := Host.Outcome.next.inj hexec
  rw [ctrGet_switch_strayPage] at hcount
  exact absurd hcount (by decide)

end Sys2Proof.Machine
end

section
/-! SUPPORT. READ in a state that no allocation leads to (R206): the slice of a page is that of its stack divided by 3, and
nothing in the state keeps the stack below 12. -/

namespace Sys2Proof.Machine

/-- Line 0 of the first page of a stack 384, which no unit has. -/
def strayLine : Nat := lineNo 384 0 0
/-- In READY a tensor of class SPILL with that page, whose line a slice 128 holds, and a host that is reachable and whose
address is known. -/
def strayRead : State :=
  { mem := { tensors := [(6, some { size := 4096, cls := 4, pages := [{ stack := 384 }] })] }
    msc := [(128, { sets := [(strayLine % cacheSetCount, [(strayLine, false)])] })]
    hst := { link := .up, synced := true, cache := [(0, 0)] }
    seq := { dev := .ready } }
/-- READ of the first 16 bytes of the tensor. -/
def strayCmd : Cmd := BitVec.ofNat 512 (0x12 + 6 * 2 ^ 32 + 16 * 2 ^ 128)

theorem strayCmd_fields : cmdNat strayCmd 4 4 = 6 ∧ cmdNat strayCmd 8 8 = 0 ∧ cmdNat strayCmd 16 8 = 16 ∧ cmdNat strayCmd 24 4 = 0 := by
  decide +kernel

theorem strayRead_mayRun : withOp 0x12 strayCmd = strayCmd ∧ cmdMayRun strayRead 0 strayCmd ∧ hostAway strayRead = false
    ∧ onFault strayRead 6 0 16 = false ∧ (hostFrames strayRead).length + (16 + 8191) / 8192 ≤ 256 := by decide +kernel

theorem strayRead_hit : (aget (fun _ => []) (sliceGet strayRead 128).sets (lineSet strayRead.fit strayLine)).find? (fun e => e.1 == strayLine)
    = some (strayLine, false) := by decide +kernel

/-- The DATA frame that leaves is counted on the host page; the page of a slice 128 would be that page (Table 17.3), so that this
is the slice's count of misses. -/
theorem ctrGet_read_strayRead : ctrGet (hostCmd 0 strayCmd strayRead) .msc 128 0xc08 = 1 ∧ ctrGet strayRead .msc 128 0xc08 = 0 := by
  decide +kernel

/-- Refutes O57: a page on a stack 384 passes a slice 128, whose count of misses is the host's count of frames sent, so that a
READ which hits its line and sends one frame leaves that count one higher. -/
theorem not_readsAndWritesBegin : ¬ Obligations.ReadsAndWritesBegin := by
  intro h
  obtain ⟨hop, hrun, haway, hfault, hroom⟩ := strayRead_mayRun
  obtain ⟨hhandle, hoff, hlen, hlist⟩ := strayCmd_fields
  obtain ⟨hread, -⟩ := h 0 strayCmd strayCmd strayRead 6 0 16 hhandle.symm hoff.symm hlen.symm (by decide)
  obtain ⟨hsend, -⟩ := hread hop.symm hrun hlist
  obtain ⟨t, hexec, -, -, -, -, -, -, hline⟩ := hsend haway hfault hroom
  obtain rfl : hostCmd 0 (withOp 0x12 strayCmd) strayRead = t := Host.Outcome.next.inj hexec
  obtain ⟨hhit, -⟩ := hline _ _ _ strayLine _ _ rfl (by decide) (by decide) rfl rfl rfl rfl rfl
  obtain ⟨-, hmiss, -⟩ := hhit _ strayRead_hit
  obtain ⟨hafter, hbefore⟩ := ctrGet_read_strayRead
  rw [hop] at hmiss
  exact absurd (hafter.symm.trans (hmiss.trans hbefore)) (by decide)

end Sys2Proof.Machine
end

section
/-! SUPPORT. Placement (R200 to R205, R222): what migrations, retirements and the freeing of pages leave as it is. -/

namespace Sys2Proof.Machine

/-- What tensor memory holds apart from the page tables and the migrations. -/
def Mem.unplaced (m : Mem) : Mem :=
  { m with used := [], retired := [], lastRetire := (0, 0), migs := [], migWait := [], exhausted := false }

/-- A reading of the state on which the placement of pages has no bearing: of memory it sees neither the page tables nor the
migrations, and of the registers not PLC_INT_RAW. Unlike a `MigrationBlind` one it may see the controllers of the stacks. -/
structure PlacementBlind {β : Type} (g : State → β) : Prop extends InterruptBlind g where
  raw : ∀ s v, g (pgSet s .plc 0 0x10 v) = g s
  msc : ∀ s m, g { s with msc := m } = g s
  log : ∀ s l n, g { s with log := l, drawn := n } = g s
  pages : ∀ s m, m.unplaced = s.mem.unplaced → g { s with mem := m } = g s

theorem InterruptBlind.heads : InterruptBlind (fun s => s.hst.heads) :=
  ⟨fun _ _ h _ => h, fun _ _ => rfl, fun _ _ => rfl, fun _ _ => rfl⟩

namespace PlacementBlind

theorem arr : PlacementBlind State.arr := ⟨.arr, fun _ _ => rfl, fun _ _ => rfl, fun _ _ _ => rfl, fun _ _ _ => rfl⟩
theorem heads : PlacementBlind (fun s => s.hst.heads) :=
  ⟨.heads, fun _ _ => rfl, fun _ _ => rfl, fun _ _ _ => rfl, fun _ _ _ => rfl⟩
theorem bytes : PlacementBlind (fun s => s.mem.bytes) :=
  ⟨⟨fun _ _ _ _ => rfl, fun _ _ => rfl, fun _ _ => rfl, fun _ _ => rfl⟩, fun _ _ => rfl, fun _ _ => rfl, fun _ _ _ => rfl,
    fun _ _ h => (congrArg Mem.bytes h :)⟩
theorem tensors : PlacementBlind (fun s => s.mem.tensors) :=
  ⟨⟨fun _ _ _ _ => rfl, fun _ _ => rfl, fun _ _ => rfl, fun _ _ => rfl⟩, fun _ _ => rfl, fun _ _ => rfl, fun _ _ _ => rfl,
    fun _ _ h => (congrArg Mem.tensors h :)⟩

variable {β : Type} {g : State → β} (hg : PlacementBlind g)
include hg

theorem setInt (s : State) (bits : Word) : g (setInt s .plc 0 bits) = g s :=
  (setInt_same hg.toInterruptBlind ..).trans (hg.raw ..)

theorem freePhys (s : State) (k : Nat) : g (freePhys s k) = g s := by
  unfold Machine.freePhys dropPage hbmBytes
  refine (hg.pages _ _ (by rfl)).trans ?_
  rw [bump_same hg.toInterruptBlind, bump_same hg.toInterruptBlind, bump_same hg.toInterruptBlind, hg.msc]

theorem joinMigs (s : State) (m : Mig) : g (joinMigs s m) = g s :=
  (hg.pages _ _ (by rfl)).trans (foldl_same g _ (fun s k => hg.freePhys s k) _ s)

theorem startMig (s : State) (m : Mig) : g (startMig s m) = g s := by
  unfold Machine.startMig
  split
  · exact hg.pages _ _ rfl
  · split
    · dsimp only
      split
      · exact (hg.joinMigs _ _).trans (hg.pages _ _ rfl)
      · exact hg.pages _ _ rfl
    · exact (hg.setInt _ _).trans (hg.pages _ _ rfl)

theorem retryMigs (s : State) : g (retryMigs s) = g s :=
  (foldl_same g _ hg.startMig _ _).trans (hg.pages _ _ rfl)

theorem checkPage (s : State) (stack i : Nat) : g (checkPage s stack i) = g s := by
  unfold Machine.checkPage
  split
  · split
    · exact hg.startMig ..
    · rfl
  · rfl

theorem checkMigs (s : State) : g (checkMigs s) = g s :=
  foldl_same g _ (fun s _ => foldl_same g _ (fun s _ => hg.checkPage s _ _) _ s) _ s

theorem logPut (s : State) (kind : Nat) (source : Word) (status : Half) (payload : List Byte) :
    g (logPut s kind source status payload) = g s := by
  unfold Machine.logPut logRecord logEvent logEntry draw
  dsimp only
  split
  · split
    · exact hg.log s _ _
    · exact (hg.setInt _ _).trans (hg.log s _ _)
  · exact hg.log s _ _

theorem retirePage (s : State) (stack i handle page : Nat) (payload : List Byte) : g (retirePage s stack i handle page payload) = g s := by
  unfold Machine.retirePage
  rw [hg.setInt, bump_same hg.toInterruptBlind, hg.logPut]
  exact hg.pages _ _ rfl

end PlacementBlind
end Sys2Proof.Machine
end

section
/-! SUPPORT. Scrubs and row failures (R218 to R220): what the errors of a row change in the controller of its stack. -/

namespace Sys2Proof.Machine

/-! ### The controller of a stack -/

theorem hbmGet_hbmMod_self (s : State) {k : Nat} (f : Hbm → Hbm) (hk : k < 12) : hbmGet (hbmMod s k f) k = f (hbmGet s k) := by
  have hlen : k < (s.mem.hbm ++ List.replicate (12 - s.mem.hbm.length) ({} : Hbm)).length := by simp; omega
  have hsame : (s.mem.hbm ++ List.replicate (12 - s.mem.hbm.length) ({} : Hbm)).getD k {} = s.mem.hbm.getD k {} := by
    simp only [List.getD_eq_getElem?_getD, List.getElem?_append, List.getElem?_replicate]
    grind
  simp only [hbmGet, hbmMod, List.getD_eq_getElem?_getD, List.getElem?_set_self hlen, Option.getD_some] at hsame ⊢
  rw [hsame]

/-- What the failure of a row reads and writes apart from placement, registers and counters. -/
def State.rowView (s : State) : Fitted × AMap Arr × AMap Byte × AMap Byte × List Hbm := (s.fit, s.arr, s.mem.bytes, s.mem.work, s.mem.hbm)

theorem PlacementBlind.rowView : PlacementBlind State.rowView :=
  ⟨⟨fun _ _ _ _ => rfl, fun _ _ => rfl, fun _ _ => rfl, fun _ _ => rfl⟩, fun _ _ => rfl, fun _ _ => rfl, fun _ _ _ => rfl,
    fun s _ h => (congrArg (fun m : Mem => (s.fit, s.arr, m.bytes, m.work, m.hbm)) h :)⟩

theorem bump_rowView (s : State) (p : Pg) (i o n : Nat) : (bump s p i o n).rowView = s.rowView := rfl
theorem setInt_rowView (s : State) (p : Pg) (i : Nat) (bits : Word) : (setInt s p i bits).rowView = s.rowView :=
  setInt_same PlacementBlind.rowView.toInterruptBlind ..

theorem poisonRow_rowView (s : State) (stack pch bank row : Nat) : (poisonRow s stack pch bank row).rowView = s.rowView := by
  unfold poisonRow
  split
  · rfl
  · split <;> rfl

theorem extraRefreshes_rowView (stack : Nat) (s : State) : (extraRefreshes stack s).rowView = s.rowView := by
  unfold extraRefreshes
  split <;> rfl

section
variable {s t : State} (h : t.rowView = s.rowView)
include h

theorem hbmGet_of_rowView (k : Nat) : hbmGet t k = hbmGet s k := by
  simp only [State.rowView, Prod.mk.injEq] at h
  obtain ⟨-, -, -, -, hhbm⟩ := h
  rw [hbmGet, hbmGet, hhbm]

theorem hbmMod_rowView (k : Nat) (f : Hbm → Hbm) : (hbmMod t k f).rowView = (hbmMod s k f).rowView := by
  simp only [State.rowView, Prod.mk.injEq] at h
  obtain ⟨hfit, harr, hbytes, hwork, hhbm⟩ := h
  simp only [State.rowView, hbmMod, hfit, harr, hbytes, hwork, hhbm]

end

/-- The spare that a row takes is read off the free rows of the pool and what is fitted (R220, R221). -/
theorem pickSpare_congr {s t : State} {stack pch pool : Nat} (hfit : t.fit = s.fit)
    (hused : poolUsed (hbmGet t stack) pool pch = poolUsed (hbmGet s stack) pool pch) (bank : Nat) :
    pickSpare t stack pch bank pool = pickSpare s stack pch bank pool := by
  simp only [pickSpare, poolFree, poolBank, bankGroup, hfit, hused]

theorem mem_poolFree {b : Hbm} {pool pch m : Nat} (h : m ∈ poolFree b pool pch) :
    m < (if pool = 1 then primRows else cullRows) ∧ m ∉ poolUsed b pool pch := by
  simpa [poolFree] using h

/-- A spare of the primary pool is free, and of the row's bank or bank group (R220). -/
theorem pickSpare_primary {s : State} {stack pch bank m : Nat} (h : pickSpare s stack pch bank 1 = some m) :
    bankGroup s (poolBank s 1 m) = bankGroup s bank ∧ m < primRows ∧ m ∉ poolUsed (hbmGet s stack) 1 pch := by
  simp only [pickSpare, if_true, Option.or_eq_some_iff] at h
  rcases h with hbank | ⟨-, hgroup⟩
  · have hm := mem_poolFree (List.mem_of_find?_eq_some hbank)
    have hsame := List.find?_some hbank
    exact ⟨by rw [beq_iff_eq.mp hsame], hm⟩
  · have hsame := List.find?_some hgroup
    exact ⟨beq_iff_eq.mp hsame, mem_poolFree (List.mem_of_find?_eq_some hgroup)⟩

/-! ### The failures of a row (R219, R220) -/

/-- Stack `k` keeps `r` for the row with key `key`. -/
def setRow (s : State) (k key : Nat) (r : RowFail) : State := hbmMod s k (fun b => { b with rows := aset (fun _ => {}) b.rows key r })

theorem aget_setRow (s : State) {k : Nat} (key : Nat) (r : RowFail) (hk : k < 12) :
    aget (fun _ => {}) (hbmGet (setRow s k key r) k).rows key = r := by
  rw [setRow, hbmGet_hbmMod_self s _ hk]
  exact aget_aset_self ..

/-- A row that does not fail keeps its corrected errors, as the read leaves them. -/
theorem rowErrors_of_kept {stack pch bank row n : Nat} {ce : Nat → Nat} {s : State} {r : RowFail}
    (hr : r = aget (fun _ => {}) (hbmGet s stack).rows (rowKey pch bank row)) (hn : r.ce + n < 2) :
    rowErrors stack pch bank row n false ce s =
      setRow (bump s .hbm stack 0xc28 n) stack (rowKey pch bank row) { r with ce := ce (r.ce + n) } := by
  subst hr
  have hfew : ¬ (false || decide (2 ≤ (aget (fun _ => {}) (hbmGet s stack).rows (rowKey pch bank row)).ce + n)) = true := by simpa using hn
  exact if_neg hfew

/-- A row with an uncorrectable error leaves poison, is counted, and fails. -/
theorem rowErrors_of_uncorrectable (stack pch bank row n : Nat) (ce : Nat → Nat) (s : State) : ∃ t, t.rowView = s.rowView
    ∧ rowErrors stack pch bank row n true ce s = rowFail t stack pch bank row := by
  refine ⟨setInt (bump (poisonRow (bump s .hbm stack 0xc28 n) stack pch bank row) .hbm stack 0xc30 1) .hbm stack 2, ?_, ?_⟩
  · exact (setInt_rowView ..).trans (poisonRow_rowView ..)
  · simp only [rowErrors, Bool.true_or, if_true]

/-- A row takes spare `m` of the primary pool, at its first failure. -/
def takePrimary (pch bank row m : Nat) (b : Hbm) : Hbm :=
  { b with
    rows := aset (fun _ => {}) b.rows (rowKey pch bank row) { count := 1, pool := 1, spare := m, ce := 0 }
    prim := aset (fun _ => []) b.prim pch (poolUsed b 1 pch ++ [m]) }

theorem remapTo_rowView (s : State) (stack pch bank row m : Nat) :
    (remapTo s stack pch bank row 1 1 m).rowView = (hbmMod s stack (takePrimary pch bank row m)).rowView := by
  simp only [remapTo, if_true, PlacementBlind.rowView.checkPage, apply_ite State.rowView, setInt_rowView, PlacementBlind.rowView.logPut,
    ite_self]
  rfl

/-- A first failure takes the spare that the primary pool has for the row. -/
theorem rowFail_first {s : State} {stack pch bank row m : Nat} {r : RowFail} (hk : stack < 12)
    (hr : r = aget (fun _ => {}) (hbmGet s stack).rows (rowKey pch bank row)) (hcount : r.count = 0)
    (hspare : pickSpare s stack pch bank 1 = some m) : (rowFail s stack pch bank row).rowView =
      (hbmMod (setRow s stack (rowKey pch bank row) { r with count := 1, ce := 0 }) stack (takePrimary pch bank row m)).rowView := by
  subst hr
  obtain ⟨t, ht⟩ : ∃ t, t = setInt (bump (setRow s stack (rowKey pch bank row)
    { aget (fun _ => {}) (hbmGet s stack).rows (rowKey pch bank row) with count := 1, ce := 0 }) .hbm stack 0xc38 1) .hbm stack 1 := ⟨_, rfl⟩
  have hview : t.rowView = _ := ht ▸ (setInt_rowView ..).trans (bump_rowView ..)
  have hfit : t.fit = s.fit := congrArg Prod.fst hview
  have hused : poolUsed (hbmGet t stack) 1 pch = poolUsed (hbmGet s stack) 1 pch := by
    rw [hbmGet_of_rowView hview, setRow, hbmGet_hbmMod_self s _ hk]
    rfl
  have hpick : pickSpare t stack pch bank 1 = some m := (pickSpare_congr hfit hused bank).trans hspare
  have hremap : rowFail s stack pch bank row = remapTo t stack pch bank row 1 1 m := by
    unfold setRow at ht
    simp only [rowFail, hcount, Nat.zero_add, ← ht, if_true, hpick]
  rw [hremap, remapTo_rowView, hbmMod_rowView hview]

/-! ### SCRUB (R218, R219) -/

theorem injectErrs_of_off {stack n : Nat} {s : State} (h : (pgGet s .hbm stack 0x088).getLsbD 0 = false) : injectErrs stack n s = s := by
  have heven : (pgGet s .hbm stack 0x088).toNat % 2 = 0 := by
    rw [BitVec.getLsbD, Nat.testBit_zero, decide_eq_false_iff_not] at h
    omega
  unfold injectErrs
  exact if_pos (.inl heven)

/-- The scrub of a row is counted, and the extra refreshes of its stack. -/
def scrubCounted (k : Nat) (s : State) : State := extraRefreshes k (hbmBytes (bump s .hbm k 0xc50 1) k prioHost rowBytes)

theorem scrubCounted_rowView (k : Nat) (s : State) : (scrubCounted k s).rowView = s.rowView := extraRefreshes_rowView ..

theorem scrubCounted_ctr (k : Nat) (s : State) : (scrubCounted k s).ctr = (bump (bump s .hbm k 0xc50 1) .hbm k 0xc18 rowBytes).ctr := by
  unfold scrubCounted extraRefreshes
  split <;> rfl

theorem scrubCounted_regs {k : Nat} {s : State} (h : (pgGet s .hbm k 0x080).toNat % 8 = 0) : (scrubCounted k s).regs = s.regs := by
  unfold scrubCounted extraRefreshes
  rw [if_pos (by exact h)]
  rfl

section
variable {k pch bank row : Nat} {s : State} (hdata : rowData s bank row = true) (hen : (pgGet s .hbm k 8).getLsbD 0 = true)
  (hinj : (pgGet s .hbm k 0x088).getLsbD 0 = false) (hfit : s.fit.hbmFitted.contains k = true) (hst : (hbmGet s k).st = .operating)
include hdata hen hinj hfit hst

theorem scrubEffect_of_on (n : Nat) (ue : Bool) :
    scrubEffect k pch bank row n ue s = rowErrors k pch bank row n ue (fun _ => 0) (scrubCounted k s) := by
  have hquiet : injectErrs k rowBytes (hbmBytes (bump s .hbm k 0xc50 1) k prioHost rowBytes) = _ := injectErrs_of_off (by exact hinj)
  unfold scrubEffect
  simp only [hdata, hen, hfit, hst, bne_self_eq_false, Bool.not_true, Bool.or_self, Bool.false_eq_true, if_false, hquiet, ite_self]
  rfl

end

/-- What a view of the state tells of its bytes and arrays. -/
theorem rowView_frame {s t : State} (h : t.rowView = s.rowView) : t.mem.bytes = s.mem.bytes ∧ t.mem.work = s.mem.work ∧ t.arr = s.arr := by
  simp only [State.rowView, Prod.mk.injEq] at h
  obtain ⟨-, harr, hbytes, hwork, -⟩ := h
  exact ⟨hbytes, hwork, harr⟩

section
variable {k pch bank row : Nat} {s : State} {r : RowFail} (hr : r = aget (fun _ => {}) (hbmGet s k).rows (rowKey pch bank row)) (hk : k < 12)
include hr hk

/-- A scrub that finds no failure (R218, R219). -/
theorem scrub_kept {n : Nat} (hn : r.ce + n < 2) : ∃ t, rowErrors k pch bank row n false (fun _ => 0) (scrubCounted k s) = t
    ∧ ctrGet t .hbm k 0xc50 = ctrGet s .hbm k 0xc50 + 1 ∧ ctrGet t .hbm k 0xc28 = ctrGet s .hbm k 0xc28 + BitVec.ofNat 64 n
    ∧ aget (fun _ => {}) (hbmGet t k).rows (rowKey pch bank row) = { r with ce := 0 }
    ∧ t.mem.bytes = s.mem.bytes ∧ t.mem.work = s.mem.work ∧ t.arr = s.arr
    ∧ ((pgGet s .hbm k 0x080).toNat % 8 = 0 → t.regs = s.regs) := by
  have hview := scrubCounted_rowView k s
  have hctr : ∀ o, ctrGet (scrubCounted k s) .hbm k o = ctrGet (bump (bump s .hbm k 0xc50 1) .hbm k 0xc18 rowBytes) .hbm k o := fun o => by
    rw [ctrGet, scrubCounted_ctr, ctrGet]
  obtain ⟨hbytes, hwork, harr⟩ := rowView_frame hview
  refine ⟨_, rowErrors_of_kept (hr.trans (by rw [hbmGet_of_rowView hview])) hn, ?_, ?_, aget_setRow _ _ _ hk, hbytes, hwork, harr,
    fun h => scrubCounted_regs h⟩
  · refine (ctrGet_bump_ne _ _ _ _ (by decide)).trans ?_
    rw [hctr, ctrGet_bump_ne _ _ _ _ (by decide), ctrGet_bump_self]
    rfl
  · refine (ctrGet_bump_self ..).trans ?_
    rw [hctr, ctrGet_bump_ne _ _ _ _ (by decide), ctrGet_bump_ne _ _ _ _ (by decide)]

/-- A scrub on which a row fails for the first time (R219, R220). -/
theorem scrub_fails {n m : Nat} (hcount : r.count = 0) (hspare : pickSpare s k pch bank 1 = some m) :
    ∃ t, rowErrors k pch bank row n true (fun _ => 0) (scrubCounted k s) = t ∧ t.mem.bytes = s.mem.bytes ∧ t.arr = s.arr
      ∧ aget (fun _ => {}) (hbmGet t k).rows (rowKey pch bank row) = { count := 1, pool := 1, spare := m, ce := 0 }
      ∧ poolUsed (hbmGet t k) 1 pch = poolUsed (hbmGet s k) 1 pch ++ [m] := by
  obtain ⟨u, hu, herrs⟩ := rowErrors_of_uncorrectable k pch bank row n (fun _ => 0) (scrubCounted k s)
  have hview : u.rowView = s.rowView := hu.trans (scrubCounted_rowView k s)
  have hget := hbmGet_of_rowView hview k
  have hpick : pickSpare u k pch bank 1 = some m := (pickSpare_congr (congrArg Prod.fst hview) (by rw [hget]) bank).trans hspare
  have hfail := rowFail_first hk (hr.trans (by rw [hget])) hcount hpick
  have hbefore : hbmGet (setRow u k (rowKey pch bank row) { r with count := 1, ce := 0 }) k = _ := hbmGet_hbmMod_self u _ hk
  obtain ⟨hbytes, -, harr⟩ := rowView_frame hfail
  obtain ⟨hbytes', -, harr'⟩ := rowView_frame hview
  refine ⟨_, herrs, hbytes.trans hbytes', harr.trans harr', ?_, ?_⟩ <;>
    rw [hbmGet_of_rowView hfail, hbmGet_hbmMod_self _ _ hk, hbefore]
  · exact aget_aset_self ..
  · refine (aget_aset_self ..).trans ?_
    rw [hget]
    rfl

/-- A read that finds no failure keeps the corrected errors of its row (R219). -/
theorem readRow_kept {n : Nat} (hn : r.ce + n < 2) : ∃ t, rowErrors k pch bank row n false id s = t
    ∧ ctrGet t .hbm k 0xc28 = ctrGet s .hbm k 0xc28 + BitVec.ofNat 64 n
    ∧ aget (fun _ => {}) (hbmGet t k).rows (rowKey pch bank row) = { r with ce := r.ce + n } :=
  ⟨_, rowErrors_of_kept hr hn, ctrGet_bump_self .., aget_setRow _ _ _ hk⟩

end

/-- Settles O39: a scrub counts and then meets the row's errors; a row that fails takes the spare which the pool had for it
before. -/
theorem rowsAreScrubbedAndRemapped : Obligations.RowsAreScrubbedAndRemapped := by
  rintro k pch bank row n s r _ rfl hr hdata hen hinj hfit hst
  have hscrub : ∀ ue, exec (.scrub k pch bank row n ue) s = .next _ := fun ue =>
    congrArg Host.Outcome.next (scrubEffect_of_on (pch := pch) hdata hen hinj hfit hst n ue)
  refine ⟨fun hn => ?_, fun m hcount hspare => ?_, fun h hn hread => ?_⟩
  · obtain ⟨t, ht, hkept⟩ := scrub_kept hr k.isLt hn
    exact ⟨t, (hscrub false).trans (congrArg _ ht), hkept⟩
  · obtain ⟨hgroup, hlt, hfree⟩ := pickSpare_primary hspare
    obtain ⟨t, ht, hbytes, harr, hrow, hused⟩ := scrub_fails (n := n) hr k.isLt hcount hspare
    exact ⟨t, (hscrub true).trans (congrArg _ ht), hbytes, harr, hrow, hgroup, hlt, hfree, hused⟩
  · obtain ⟨t, ht, hkept⟩ := readRow_kept hr k.isLt hn
    rw [readRow, if_pos hread, ht]
    exact hkept

end Sys2Proof.Machine
end

section
/-! SUPPORT. A command that the host places on an empty queue of a quiet device starts at once (R338, R339). -/

namespace Sys2Proof.Machine

/-! ### The opcode of a command's word -/

theorem cmdOp_withOp {op : Nat} (hop : op < 256) (w : Cmd) : cmdOp (withOp op w) = op := by
  have hlow : (withOp op w).setWidth 8 = BitVec.ofNat 8 op := by
    have hmask : (~~~(0xff : Cmd)).setWidth 8 = 0#8 := by decide +kernel
    rw [withOp, BitVec.setWidth_or, BitVec.setWidth_and, hmask, BitVec.setWidth_ofNat_of_le (by decide), BitVec.and_zero, BitVec.zero_or]
  have hnat := congrArg BitVec.toNat hlow
  rw [BitVec.toNat_setWidth, BitVec.toNat_ofNat, Nat.mod_eq_of_lt hop] at hnat
  simpa [cmdOp, fld] using hnat

/-! ### The command at the front of its queue -/

/-- Command `w` in the slot behind the tail of an empty queue, and rung for. -/
def placeCmd (s : State) (q : Nat) (w : Cmd) : State :=
  queueRing (queueMod s q (fun r => { r with slots := aset (fun _ => 0) (queueGet s q).slots ((queueGet s q).tail % 256) w })) q 1

section
variable {s : State} {q : Nat} (w : Cmd) (hempty : (queueGet s q).head = (queueGet s q).tail)
include hempty

theorem tailAhead_next : tailAhead (queueGet s q) (((queueGet s q).tail % 65536 + 1) % 65536) = some 1 := by
  unfold tailAhead
  rw [hempty]
  have hone : (((queueGet s q).tail % 65536 + 1) % 65536 + 65536 - (queueGet s q).tail % 65536) % 65536 = 1 := by omega
  rw [hone]
  simp

theorem sqWriteEffect_of_empty : sqWriteEffect q true ((queueGet s q).tail % 65536) [w] s = placeCmd s q w := by
  have hd := tailAhead_next hempty
  have hlen : (queueGet s q).tail - (queueGet s q).head = 0 := by omega
  simp only [sqWriteEffect, List.length_singleton, hlen, List.range_zero, List.any_nil, hd]
  simp
  rfl

theorem queueGet_placeCmd : queueGet (placeCmd s q w) q =
    { head := (queueGet s q).head, tail := (queueGet s q).head + 1
      slots := aset (fun _ => 0) (queueGet s q).slots ((queueGet s q).head % 256) w } := by
  have hring : ∀ u, queueGet (queueRing u q 1) q = { queueGet u q with tail := (queueGet u q).head + 1 } := fun u => by
    unfold queueRing
    dsimp only
    split <;> exact queueGet_queueMod_self u q (fun r => { r with tail := r.head + 1 })
  rw [placeCmd, hring, queueGet_queueMod_self, hempty]

theorem frontCmd_placeCmd : frontCmd (placeCmd s q w) q = w := by
  rw [frontCmd, queueGet_placeCmd w hempty]
  exact aget_aset_self ..

end

theorem placeCmd_heads {s : State} (q : Nat) (w : Cmd) (h : s.hst.heads = []) : (placeCmd s q w).hst.heads = [q] := by
  simp [placeCmd, queueRing, queueMod, h]

theorem startable_placeCmd (s : State) (q : Nat) (w v : Cmd) : startable (placeCmd s q w) q v = startable s q v := by
  unfold placeCmd queueRing
  dsimp only
  split <;> rfl

/-- Once a command has started, its queue stands behind it. -/
theorem startFront_placeCmd {s : State} {q : Nat} (w : Cmd) (hempty : (queueGet s q).head = (queueGet s q).tail) (hheads : s.hst.heads = []) :
    startFront (placeCmd s q w) q = runCmd ⟨q, w⟩ (cmdAt s q w) := by
  have hdrop : (placeCmd s q w).hst.heads.filter (· != q) = [] := by simp [placeCmd_heads q w hheads]
  have hlast : ¬ (queueGet (queueMod (placeCmd s q w) q (fun r => { r with head := r.head + 1 })) q).head
      < (queueGet (queueMod (placeCmd s q w) q (fun r => { r with head := r.head + 1 })) q).tail := by
    rw [queueGet_queueMod_self, queueGet_placeCmd w hempty]
    exact Nat.lt_irrefl _
  unfold startFront cmdAt
  rw [sqWriteEffect_of_empty w hempty, frontCmd_placeCmd w hempty]
  dsimp only
  rw [if_neg hlast]
  exact congrArg (fun l => runCmd ⟨q, w⟩ (bump { queueMod (placeCmd s q w) q (fun r => { r with head := r.head + 1 }) with
    hst := { (queueMod (placeCmd s q w) q (fun r => { r with head := r.head + 1 })).hst with heads := l } } .hst 0 0xc50 1)) hdrop

/-- A command that may start does, and only then does the next head come (R338). -/
theorem hostCmd_of_starts {s : State} {q : Nat} {w : Cmd} (h : cmdStarts s q w) :
    hostCmd q w s = settleGo 4096 (runCmd ⟨q, w⟩ (cmdAt s q w)) := by
  obtain ⟨⟨hheads, -⟩, hempty, hstart⟩ := h
  have hon : s.seq.dev ≠ .off := by
    intro hoff
    simp [startable, hoff] at hstart
  have hfind : (placeCmd s q w).hst.heads.find? (fun q' => startable (placeCmd s q w) q' (frontCmd (placeCmd s q w) q')) = some q := by
    rw [placeCmd_heads q w hheads]
    exact List.find?_cons_of_pos (by rw [frontCmd_placeCmd w hempty, startable_placeCmd, hstart])
  rw [hostCmd, if_neg hon, sqWriteEffect_of_empty w hempty, settle, settleGo, hfind]
  exact congrArg (settleGo 4096) (startFront_placeCmd w hempty hheads)

/-- A command that passes its checks has its effect; when no queue then has a head, nothing follows. -/
theorem hostCmd_of_mayRun {s : State} {q : Nat} {w : Cmd} (h : cmdMayRun s q w)
    (hheads : (cmdEffect ⟨q, w⟩ (cmdAt s q w)).hst.heads = []) : hostCmd q w s = cmdEffect ⟨q, w⟩ (cmdAt s q w) := by
  obtain ⟨hstarts, hok⟩ := h
  rw [hostCmd_of_starts hstarts, runCmd, if_pos hok, settleGo, hheads]
  rfl

/-! ### The state in which a command starts -/

theorem placeCmd_eq (s : State) (q : Nat) (w : Cmd) : placeCmd s q w = { s with hst := (placeCmd s q w).hst } := by
  unfold placeCmd queueRing
  dsimp only
  split <;> rfl

theorem placeCmd_access (s : State) (q : Nat) (w : Cmd) : (placeCmd s q w).hst.access = s.hst.access := by
  unfold placeCmd queueRing
  dsimp only
  split <;> rfl

/-- Beside the counters a command that starts has moved the host side alone, and there no access in progress. -/
theorem cmdAt_eq {s : State} {q : Nat} (w : Cmd) (hempty : (queueGet s q).head = (queueGet s q).tail) :
    ∃ c h, cmdAt s q w = { s with ctr := c, hst := h } ∧ h.heads = [] ∧ h.access = s.hst.access := by
  refine ⟨(cmdAt s q w).ctr, (cmdAt s q w).hst, ?_, rfl, ?_⟩
  · unfold cmdAt
    rw [sqWriteEffect_of_empty w hempty, placeCmd_eq]
    rfl
  · unfold cmdAt
    rw [sqWriteEffect_of_empty w hempty]
    exact placeCmd_access s q w

end Sys2Proof.Machine
end

section
/-! SUPPORT. ALLOC and FREE (R199 to R202): the handle that an allocation takes, and what freeing a tensor leaves. -/

namespace Sys2Proof.Machine

/-! ### Handles (R199) -/

/-- A handle that an allocation may take. -/
abbrev handleFree (s : State) (h : Nat) : Prop := h ≠ 0 ∧ h < 0xffffff ∧ tensorOf s h = none

theorem pickHandle_free {s : State} {k h : Nat} (hex : ∃ j, j < k ∧ handleFree s ((h + j) % 2 ^ 24)) : handleFree s (pickHandle s k h) := by
  induction k generalizing h with
  | zero =>
    obtain ⟨j, hj, -⟩ := hex
    omega
  | succ k ih =>
    unfold pickHandle
    dsimp only
    split
    · next hbad =>
      obtain ⟨j, hj, hfree⟩ := hex
      cases j with
      | zero =>
        obtain ⟨h0, hmax, hnone⟩ := hfree
        rw [Nat.add_zero] at h0 hmax hnone
        rcases hbad with hb | hb | hb
        · exact absurd hb h0
        · omega
        · rw [hnone] at hb
          cases hb
      | succ j =>
        have hnext : (h % 2 ^ 24 + 1 + j) % 2 ^ 24 = (h + (j + 1)) % 2 ^ 24 := by omega
        exact ih ⟨j, by omega, hnext ▸ hfree⟩
    · next hgood =>
      simp only [not_or, Bool.not_eq_true, Option.isSome_eq_false_iff, Option.isNone_iff_eq_none] at hgood
      obtain ⟨h0, hmax, hnone⟩ := hgood
      exact ⟨h0, by omega, hnone⟩

theorem tensorOf_of_no_key {s : State} {h : Nat} (hkey : h ∉ s.mem.tensors.map (·.1)) : tensorOf s h = none :=
  aget_of_no_key _ _ _ fun p hp e => hkey (List.mem_map.mpr ⟨p, hp, e⟩)

/-- Handles in a row are as many as their number: a shorter list leaves one of them out. -/
theorem exists_handle_notMem {l : List Nat} {n : Nat} (hl : l.length < n) (hn : n ≤ 2 ^ 24) (h : Nat) : ∃ j, j < n ∧ (h + j) % 2 ^ 24 ∉ l := by
  refine Classical.byContradiction fun hall => ?_
  have hsub : (List.range n).map (fun j => (h + j) % 2 ^ 24) ⊆ l := fun x hx => by
    obtain ⟨j, hj, rfl⟩ := List.mem_map.mp hx
    exact Classical.byContradiction fun hout => hall ⟨j, List.mem_range.mp hj, hout⟩
  have hnodup : ((List.range n).map (fun j => (h + j) % 2 ^ 24)).Nodup := by
    refine List.pairwise_map.mpr (List.Pairwise.imp_of_mem (fun {i j} hi hj hne => ?_) List.nodup_range)
    rw [List.mem_range] at hi hj
    omega
  have hlen := hnodup.length_le_of_subset hsub
  rw [List.length_map, List.length_range] at hlen
  omega

/-- With fewer tensors than the table holds, one of as many handles in a row as ALLOC tries is free (R199). -/
theorem exists_handleFree {s : State} (hroom : liveHandles s < 262144) (h : Nat) : ∃ j, j < 262147 ∧ handleFree s ((h + j) % 2 ^ 24) := by
  have hlen : (0 :: 0xffffff :: s.mem.tensors.map (·.1)).length < 262147 := by
    rw [List.length_cons, List.length_cons, List.length_map]
    unfold liveHandles at hroom
    omega
  obtain ⟨j, hj, hout⟩ := exists_handle_notMem hlen (by decide) h
  simp only [List.mem_cons, not_or] at hout
  obtain ⟨h0, hmax, hkey⟩ := hout
  exact ⟨j, hj, h0, by omega, tensorOf_of_no_key hkey⟩

/-! ### Placement (R202) -/

theorem placePages_length {state : Bool} {avail : Nat → Nat} {n : Nat} {rot : List Nat} {m : AMap Bool} {x : List Page × AMap Bool}
    (h : placePages state avail n rot m = some x) : x.1.length = n := by
  induction n generalizing avail rot m x with
  | zero =>
    cases h
    rfl
  | succ n ih =>
    unfold placePages at h
    split at h
    · cases h
    · dsimp only at h
      split at h
      · cases h
      · next hrest =>
        cases h
        exact congrArg (· + 1) (ih hrest)

theorem placeTensor_length {s : State} {size cls stripe : Nat} {x : List Page × AMap Bool} (h : placeTensor s size cls stripe = some x) :
    x.1.length = (size + pageSize - 1) / pageSize := by
  simp only [placeTensor, Option.ite_none_left_eq_some] at h
  exact placePages_length h.2

/-! ### Completions (R339, R340) -/

theorem InterruptBlind.regs : InterruptBlind State.regs :=
  ⟨fun _ _ _ _ => rfl, fun _ _ => rfl, fun _ _ => rfl, fun _ _ => rfl⟩

section
variable {β : Type} {g : State → β} (hg : InterruptBlind g)
include hg

theorem cplPut_same (s : State) (e : Cpl) : g (cplPut s e) = g s := by
  unfold cplPut
  split
  · split
    · exact hg.hst _ _ rfl rfl
    · rfl
  · split
    · exact sendFrame_same hg ..
    · exact hg.hst _ _ rfl rfl

/-- A completion is an entry for the host, and a count. -/
theorem complete_same (s : State) (c : CmdRef) (st : Half) (result : Nat) : g (complete s c st result) = g s := by
  have hcount : g (if st = stOK then bump s .seqR 0 0xc00 1 else s) = g s := by
    split
    · exact bump_same hg ..
    · rfl
  unfold complete
  generalize (if st = stOK then bump s .seqR 0 0xc00 1 else s) = t at hcount ⊢
  dsimp only
  split
  · exact hcount
  · exact (cplPut_same hg ..).trans hcount

end

/-! ### ALLOC (R200) -/

/-- A state that every step of a fold leaves is what the fold gives. -/
theorem foldl_of_fixed {α : Type} {f : State → α → State} {s : State} (h : ∀ x, f s x = s) (l : List α) : l.foldl f s = s := by
  induction l with
  | nil => rfl
  | cons x l ih => rw [List.foldl_cons, h, ih]

theorem checkMigs_of_off {s : State} (h : (pgGet s .plc 0 8).getLsbD 0 = false) : checkMigs s = s := by
  have hpage : ∀ k i, checkPage s k i = s := fun k i => by
    unfold checkPage
    rw [h, Bool.false_and]
    rfl
  have hstack : ∀ k, ((hbmGet s k).rows.filter (fun e => 0 < e.2.pool)).foldl
      (fun s e => checkPage s k (rowPage s k (keyPch e.1) (keyBank e.1) (keyRow e.1))) s = s := fun k => foldl_of_fixed (fun _ => hpage ..) _
  exact foldl_of_fixed hstack _

theorem chk_eq_ok {b : Bool} {c : Half} (hc : c ≠ stOK) (h : ∀ x ∈ chk b c, x = stOK) : b = false := by
  cases b with
  | false => rfl
  | true => exact absurd (h c (List.mem_singleton.mpr rfl)) hc

/-- A command that is legal has its fields checked. -/
theorem fieldsCheck_ok {s : State} {w : Cmd} (h : cmdStatus s w = stOK) : ∀ x ∈ fieldsCheck s w, x = stOK := by
  unfold cmdStatus at h
  split at h
  · exact absurd h (by decide)
  · split at h
    · exact absurd h (by decide)
    · exact pickStatus_eq_ok.mp (pickStatus_append_eq_ok.mp h).2

/-- An ALLOC that passes its checks finds room in the tensor table, and its pages. -/
theorem allocCheck_ok {s : State} {w : Cmd} (h : ∀ x ∈ allocCheck s w, x = stOK) :
    liveHandles s < 262144 ∧ ∃ x, placeTensor s (allocSize w) (allocClass w) (allocStripe w) = some x := by
  simp only [allocCheck, List.forall_mem_append] at h
  obtain ⟨⟨hfields, hroom⟩, hplace⟩ := h
  have hf := chk_eq_ok (by decide) hfields
  have hr := chk_eq_ok (by decide) hroom
  rw [hf, hr] at hplace
  have hp := chk_eq_ok (by decide) hplace
  exact ⟨by simpa using hr, by simpa [Option.isSome_iff_exists] using hp⟩

/-- ALLOC makes its tensor under a handle that was free. -/
theorem allocTensor_spec {s : State} (size cls : Nat) (ps : List Page) (used : AMap Bool) (hroom : liveHandles s < 262144) :
    ∃ h t, allocTensor s size cls ps used = (h, t) ∧ handleFree s h ∧ t.hst.heads = s.hst.heads
      ∧ t.mem.tensors = aset (fun _ => none) s.mem.tensors h (some { size := size, cls := cls, pages := ps })
      ∧ t.mem.bytes = s.mem.bytes ∧ t.arr = s.arr ∧ ((pgGet s .plc 0 8).getLsbD 0 = false → t.regs = s.regs) := by
  have hfree : handleFree (draw s).2 (pickHandle (draw s).2 262147 (Config.allocHandle s.drawn).toNat) :=
    pickHandle_free (exists_handleFree (s := (draw s).2) hroom _)
  unfold allocTensor
  dsimp only [draw] at hfree ⊢
  generalize pickHandle { s with drawn := s.drawn + 1 } 262147 (Config.allocHandle s.drawn).toNat = h at hfree ⊢
  refine ⟨h, _, rfl, hfree, PlacementBlind.heads.checkMigs _, PlacementBlind.tensors.checkMigs _,
    PlacementBlind.bytes.checkMigs _, PlacementBlind.arr.checkMigs _, fun hoff => ?_⟩
  rw [checkMigs_of_off (by exact hoff)]
  rfl

theorem tensorOf_of_aset {s t : State} {h : Nat} {v : Option Tensor} (ht : t.mem.tensors = aset (fun _ => none) s.mem.tensors h v) :
    tensorOf t h = v ∧ ∀ g, g ≠ h → tensorOf t g = tensorOf s g := by
  simp only [tensorOf, ht]
  exact ⟨aget_aset_self .., fun g hg => aget_aset_ne _ _ _ hg⟩

theorem allocEffect_spec {c : CmdRef} {s : State} (hchk : ∀ x ∈ allocCheck s c.w, x = stOK) :
    ∃ h ps, handleFree s h ∧ ps.length = (allocSize c.w + pageSize - 1) / pageSize ∧ (allocEffect c s).hst.heads = s.hst.heads
      ∧ (allocEffect c s).mem.tensors = aset (fun _ => none) s.mem.tensors h (some { size := allocSize c.w, cls := allocClass c.w, pages := ps })
      ∧ (allocEffect c s).mem.bytes = s.mem.bytes ∧ (allocEffect c s).arr = s.arr
      ∧ ((pgGet s .plc 0 8).getLsbD 0 = false → (allocEffect c s).regs = s.regs) := by
  obtain ⟨hroom, ⟨ps, used⟩, hplace⟩ := allocCheck_ok hchk
  obtain ⟨h, t, halloc, hfree, hheads, htensors, hbytes, harr, hregs⟩ := allocTensor_spec (allocSize c.w) (allocClass c.w) ps used hroom
  have heff : allocEffect c s = complete t c stOK h := by simp only [allocEffect, hplace, halloc]
  rw [heff]
  exact ⟨h, ps, hfree, placeTensor_length hplace, (complete_same .heads ..).trans hheads,
    (congrArg Mem.tensors (complete_same .mem ..)).trans htensors, (congrArg Mem.bytes (complete_same .mem ..)).trans hbytes,
    (complete_same .arr ..).trans harr, fun hoff => (complete_same .regs ..).trans (hregs hoff)⟩

/-! ### FREE (R201, R222) -/

/-- The pages of a tensor, and those that migrations of it had taken, are free (R201). -/
def releasePages (s : State) (h : Nat) (t : Tensor) : State :=
  (tensorPhys t ++ (s.mem.migs.filter (fun g => g.handle == h)).flatMap migPages).foldl freePhys s

/-- Nothing of tensor `h` is left in memory. -/
def clearTensor (s : State) (h : Nat) : State :=
  { s with
    mem := { s.mem with
      tensors := aset (fun _ => none) s.mem.tensors h none
      bytes := aclr s.mem.bytes (tkey h 0) (2 ^ 40), work := aclr s.mem.work (tkey h 0) (2 ^ 40)
      poison := aclr s.mem.poison (tkey h 0 / 32) (2 ^ 40 / 32), wpoison := aclr s.mem.wpoison (tkey h 0 / 32) (2 ^ 40 / 32)
      written := aclr s.mem.written (h * 2 ^ 20) (2 ^ 20), swapped := aclr s.mem.swapped (h * 2 ^ 20) (2 ^ 20)
      migs := s.mem.migs.filter (fun g => g.handle != h), migWait := s.mem.migWait.filter (fun g => g.handle != h)
      restored := s.mem.restored.filter (· != h) }
    seq := { s.seq with projFmt := aclr s.seq.projFmt (h * 2 ^ 16) (2 ^ 16) } }

/-- The retirements that were due and the migrations that start again do not bear on what is left. -/
theorem freeTensor_same {β : Type} {g : State → β} (hg : PlacementBlind g) {s : State} {h : Nat} {t : Tensor} (ht : tensorOf s h = some t) :
    g (freeTensor s h) = g (clearTensor (releasePages s h t) h) := by
  unfold freeTensor
  rw [ht]
  dsimp only
  rw [hg.retryMigs, bump_same hg.toInterruptBlind, foldl_same _ _ (fun s m => hg.retirePage ..), foldl_same _ _ (fun s m => hg.retirePage ..)]
  rfl

theorem freeTensor_spec {s : State} {h : Nat} {t : Tensor} (ht : tensorOf s h = some t) :
    (freeTensor s h).mem.tensors = aset (fun _ => none) s.mem.tensors h none
    ∧ (freeTensor s h).mem.bytes = aclr s.mem.bytes (tkey h 0) (2 ^ 40) ∧ (freeTensor s h).arr = s.arr
    ∧ (freeTensor s h).hst.heads = s.hst.heads := by
  have hfree : ∀ {β : Type} {g : State → β}, PlacementBlind g → g (releasePages s h t) = g s := fun hg => foldl_same _ _ hg.freePhys _ s
  refine ⟨(freeTensor_same .tensors ht).trans ?_, (freeTensor_same .bytes ht).trans ?_, (freeTensor_same .arr ht).trans (hfree .arr),
    (freeTensor_same .heads ht).trans (hfree .heads)⟩
  · exact congrArg (aset (fun _ => none) · h none) (hfree .tensors)
  · exact congrArg (aclr · (tkey h 0) (2 ^ 40)) (hfree .bytes)

/-- A FREE that passes its checks names a tensor. -/
theorem freeCheck_ok {s : State} {w : Cmd} (h : ∀ x ∈ freeCheck s w, x = stOK) : ∃ t, tensorOf s (cmdNat w 4 4 % 2 ^ 24) = some t := by
  simp only [freeCheck, List.forall_mem_append] at h
  obtain ⟨⟨-, hnamed⟩, -⟩ := h
  have hsome := chk_eq_ok (by decide) hnamed
  simpa [Option.isSome_iff_exists] using hsome

theorem freeEffect_of_no_access {c : CmdRef} {s : State} (haccess : s.hst.access = []) :
    freeEffect c s = complete (freeTensor s (cmdNat c.w 4 4 % 2 ^ 24)) c stOK 0 := by
  simp only [freeEffect, haccess, List.any_nil, Bool.false_eq_true, if_false]

theorem freeEffect_spec {c : CmdRef} {s : State} (haccess : s.hst.access = []) (hchk : ∀ x ∈ freeCheck s c.w, x = stOK) :
    (freeEffect c s).mem.tensors = aset (fun _ => none) s.mem.tensors (cmdNat c.w 4 4 % 2 ^ 24) none
    ∧ (freeEffect c s).mem.bytes = aclr s.mem.bytes (tkey (cmdNat c.w 4 4 % 2 ^ 24) 0) (2 ^ 40) ∧ (freeEffect c s).arr = s.arr
    ∧ (freeEffect c s).hst.heads = s.hst.heads := by
  obtain ⟨t, ht⟩ := freeCheck_ok hchk
  obtain ⟨htensors, hbytes, harr, hheads⟩ := freeTensor_spec ht
  rw [freeEffect_of_no_access haccess]
  exact ⟨(congrArg Mem.tensors (complete_same .mem ..)).trans htensors, (congrArg Mem.bytes (complete_same .mem ..)).trans hbytes,
    (complete_same .arr ..).trans harr, (complete_same .heads ..).trans hheads⟩

/-! ### The statement -/

section
variable {q : Nat} {v : Cmd} {s : State} (hrun : cmdMayRun s q v)
include hrun

theorem hostCmd_alloc (hop : cmdOp v = 0x10) : ∃ t h ps, hostCmd q v s = t ∧ handleFree s h
    ∧ ps.length = (allocSize v + pageSize - 1) / pageSize
    ∧ t.mem.tensors = aset (fun _ => none) s.mem.tensors h (some { size := allocSize v, cls := allocClass v, pages := ps })
    ∧ t.mem.bytes = s.mem.bytes ∧ t.arr = s.arr ∧ ((pgGet s .plc 0 8).getLsbD 0 = false → t.regs = s.regs) := by
  have ⟨⟨_, hempty, _⟩, hok⟩ := hrun
  obtain ⟨c, hst, hat, hheads, -⟩ := cmdAt_eq v hempty
  have heff : cmdEffect ⟨q, v⟩ (cmdAt s q v) = allocEffect ⟨q, v⟩ (cmdAt s q v) := by simp only [cmdEffect, hop]
  have hchk : ∀ x ∈ allocCheck (cmdAt s q v) v, x = stOK := by
    have hall := fieldsCheck_ok hok
    simpa only [fieldsCheck, hop] using hall
  obtain ⟨h, ps, hfree, hlen, hheads', htensors, hbytes, harr, hregs⟩ := allocEffect_spec (c := ⟨q, v⟩) hchk
  rw [hat] at hfree hheads' htensors hbytes harr hregs
  refine ⟨_, h, ps, hostCmd_of_mayRun hrun ?_, hfree, hlen, ?_⟩
  · rw [heff, hat]
    exact hheads'.trans hheads
  · rw [heff, hat]
    exact ⟨htensors, hbytes, harr, hregs⟩

theorem hostCmd_free (hop : cmdOp v = 0x11) : ∃ t, hostCmd q v s = t
    ∧ t.mem.tensors = aset (fun _ => none) s.mem.tensors (cmdNat v 4 4 % 2 ^ 24) none
    ∧ t.mem.bytes = aclr s.mem.bytes (tkey (cmdNat v 4 4 % 2 ^ 24) 0) (2 ^ 40) ∧ t.arr = s.arr := by
  have ⟨⟨⟨_, haccess, _⟩, hempty, _⟩, hok⟩ := hrun
  obtain ⟨c, hst, hat, hheads, hsame⟩ := cmdAt_eq v hempty
  have heff : cmdEffect ⟨q, v⟩ (cmdAt s q v) = freeEffect ⟨q, v⟩ (cmdAt s q v) := by simp only [cmdEffect, hop]
  have hchk : ∀ x ∈ freeCheck (cmdAt s q v) v, x = stOK := by
    have hall := fieldsCheck_ok hok
    simpa only [fieldsCheck, hop] using hall
  obtain ⟨htensors, hbytes, harr, hheads'⟩ := freeEffect_spec (c := ⟨q, v⟩) (by rw [hat]; exact hsame.trans haccess) hchk
  rw [hat] at htensors hbytes harr hheads'
  refine ⟨_, hostCmd_of_mayRun hrun ?_, ?_⟩
  · rw [heff, hat]
    exact hheads'.trans hheads
  · rw [heff, hat]
    exact ⟨htensors, hbytes, harr⟩

end

/-- Settles O56: ALLOC writes one entry of the tensor table, FREE drops one and clears the keys of its bytes. -/
theorem tensorsAreAllocatedAndFreed : Obligations.TensorsAreAllocatedAndFreed := by
  refine fun q w s => ⟨?alloc, ?free⟩
  case alloc =>
    rintro v rfl hrun
    obtain ⟨t, h, ps, ht, ⟨h0, hmax, hnone⟩, hlen, htensors, hbytes, harr, hregs⟩ := hostCmd_alloc hrun (cmdOp_withOp (by decide) w)
    obtain ⟨hnew, hothers⟩ := tensorOf_of_aset htensors
    exact ⟨t, h, ps, congrArg Host.Outcome.next ht, h0, hmax, hnone, hnew, hlen, hothers,
      fun k => by rw [memByte, hbytes, memByte], harr, hregs⟩
  case free =>
    rintro v h rfl rfl hrun
    obtain ⟨t, ht, htensors, hbytes, harr⟩ := hostCmd_free hrun (cmdOp_withOp (by decide) w)
    obtain ⟨hgone, hothers⟩ := tensorOf_of_aset htensors
    refine ⟨t, congrArg Host.Outcome.next ht, hgone, hothers, fun k => ?_, harr⟩
    have hend : tkey (cmdNat (withOp 0x11 w) 4 4 % 2 ^ 24 + 1) 0 = tkey (cmdNat (withOp 0x11 w) 4 4 % 2 ^ 24) 0 + 2 ^ 40 := by
      unfold tkey
      omega
    rw [memByte, hbytes, aget_aclr, hend, memByte]

end Sys2Proof.Machine
end
